-- ==== Sys2Proof/Word.lean ====
section
/-! DEFINITION. The words of the machine: the widths the manual names (R2, R14, R47) and nothing else.
Field extraction, sign extension and byte order stand in Machine/Bits.lean. -/
namespace Sys2Proof

/-- A byte of memory (R2). -/
abbrev Byte := BitVec 8
/-- A 16-bit half word. -/
abbrev W16 := BitVec 16
/-- A bundle word or a 32-bit element (R47, R132). -/
abbrev W32 := BitVec 32
/-- A scalar register, an address, a system register (R14, R119). -/
abbrev W64 := BitVec 64
/-- A vector register, a queue entry (R14, R22). -/
abbrev Wide := BitVec 1024

end Sys2Proof
end

