-- ==== Sys2Proof/Config.lean ====
section
/-! DEFINITION. What an implementation fixes (the sizes of R1 and R261) and the free values: opaque constants
about which nothing can be proved, one for each value the manual leaves open (notes/assumptions). -/
namespace Sys2Proof.Config

/-- HBMSIZE of each die, in bytes: two stacks of 48 GB (R1, R343). -/
def hbmSize : Nat := 96000000000
/-- NVSIZE of the device, in bytes: sixteen stacks of 512 GB (R1, R343). -/
def nvSize : Nat := 8192000000000
/-- The last MiB of the NV tier holds the persist-record area (R343, R282). -/
def nvMapped : Nat := nvSize - 1048576

/-- The rounded tree sum of a float collective outside a determinism-flagged launch: its tree may differ between
runs (R203, R316), so its result for the list of contributions is free. Log entry 20. -/
opaque freeTreeSum : Nat → List W32 → W32
/-- The cycles of a translation walk, which depend on what the die stores hold (R347): a sample of monitor source 8, free for
each walk. Log entry 26. -/
opaque walkCycles : Nat → W64
/-- The port by which frames to a device leave, as firmware has set the routes (R354). Log entry 27. -/
opaque routePort : (dst : Nat) → Nat
/-- BASE modulo 4,096 of the window that an export entry of another device exports, in bytes: where the chunks of a window
command end (R175). Log entry 27. -/
opaque exportPhase : (dev ridx : Nat) → Nat
/-- The device's Ed448 signature with a context string over a message (R398). Log entry 8. -/
opaque ed448Sign : (context message : List Byte) → BitVec 912
/-- The firmware image and the vendor routine library as measured at bring-up (R398). Log entry 8. -/
opaque firmwareImage : List Byte
/-- The device's own number on the fabric, 17 bits (R1, R354). Log entry 21. -/
opaque deviceNumber : BitVec 17
/-- The security version of the installed firmware image (R397, R398). Log entry 21. -/
opaque securityVersion : W64
/-- The cycles a scan had run when it was aborted (R382, R384), free for each abort. Log entry 5. -/
opaque scanCycles : Nat → BitVec 32
/-- The index of the signature of a line of the array: rows first (R382, R383). Log entry 7. -/
opaque lineSignature : (row : Bool) → (line : Nat) → Nat
/-- The entry that a full TLB replaces, free for each replacement (R347). Log entry 11. -/
opaque tlbVictim : Nat → Nat
/-- Whether an engine still writes one beat after a struck one, free for each hold (R394). Log entry 42. -/
opaque watchSkid : Nat → Bool
/-- The bytes of a context image that the manual leaves open, for each writing of an image and each offset (R330, R331). Log
entry 57. -/
opaque imageByte : (stamp offset : Nat) → Byte

/-- The time that a frame rests in this device, in units of 64 cycles, free for each stay (R355, R357). Log entry 45. -/
opaque residency : Nat → Nat
/-- The cycles that a requester of a core's banks has waited since its lost-cycle counter was cleared, stopping at 65,535, free for
each counter and span (R243, R387). Log entry 46. -/
opaque lostCycles : (core counter : Nat) → (cleared now : W64) → W16
/-- Whether a part of an access misses in a die's store, and the cycles from the request to its data then, free for each
(R347, R386). Log entry 46. -/
opaque dieMiss : (stamp part die : Nat) → Bool
/-- The cycles of such a miss. -/
opaque missCycles : (stamp part die : Nat) → W64
/-- How far back, among the places in time that a read may be performed at, the n-th free choice lies (R267; log entry 92). -/
opaque readAge : Nat → Nat

end Sys2Proof.Config
end

