-- ==== Sys2Proof/Machine/Bits.lean ====
section
/-! DEFINITION. Bit fields, extension, byte order and lanes: the notation of R2 and R5. -/
namespace Sys2Proof.Machine

/-- The field of `len` bits at bit `lo`: `x[lo+len-1 : lo]` (R5). -/
def fld {n : Nat} (w : BitVec n) (lo len : Nat) : BitVec len := BitVec.ofNat len (w.toNat / 2 ^ lo)

/-- One bit as a truth value. -/
def bit {n : Nat} (w : BitVec n) (i : Nat) : Bool := w.toNat.testBit i

/-- `x` with the field at bit `lo` replaced by `v`; the other bits keep their values. -/
def putFld {n m : Nat} (w : BitVec n) (lo : Nat) (v : BitVec m) : BitVec n :=
  (w &&& ~~~((BitVec.allOnes m).setWidth n <<< lo)) ||| (v.setWidth n <<< lo)

/-- A truth value as a number. -/
def b2n (b : Bool) : Nat := if b then 1 else 0

/-- The `n` low bytes of a number, lowest address first (R2). -/
def bytesOf : Nat → Nat → List Byte
  | 0, _ => []
  | n + 1, x => BitVec.ofNat 8 x :: bytesOf n (x / 256)

/-- The number whose bytes, lowest first, are given (R2). -/
def ofBytes : List Byte → Nat
  | [] => 0
  | b :: bs => b.toNat + 256 * ofBytes bs

/-- Sign extension of an `n`-bit value held in a number to 64 bits (R5). -/
def sext64 (n x : Nat) : W64 := (BitVec.ofNat n x).signExtend 64

/-- Element `i` of a register read as elements of `w` bits (R132). -/
def lane (w : Nat) (v : Wide) (i : Nat) : Nat := v.toNat / 2 ^ (w * i) % 2 ^ w

/-- The number whose digits of `w` bits, lowest first, are given. -/
def joinLanes (w : Nat) : List Nat → Nat
  | [] => 0
  | x :: xs => x % 2 ^ w + 2 ^ w * joinLanes w xs

/-- A register built from its elements of `w` bits; missing elements are 0 (R132). -/
def fromLanes (w : Nat) (xs : List Nat) : Wide := BitVec.ofNat 1024 (joinLanes w xs)

/-- The 1,024/w elements of a register (R132). -/
def lanes (w : Nat) (v : Wide) : List Nat := (List.range (1024 / w)).map (lane w v)

/-- Rotation of a 64-bit word to the left (R251). -/
def rol64 (x : W64) (k : Nat) : W64 := x.rotateLeft (k % 64)

/-- A two's complement reading of an `n`-bit number. -/
def asInt (n x : Nat) : Int := if x % 2 ^ n < 2 ^ (n - 1) then (x % 2 ^ n : Nat) else (x % 2 ^ n : Nat) - (2 ^ n : Nat)

/-- An integer as an `n`-bit number, modulo 2^n. -/
def wrapInt (n : Nat) (x : Int) : Nat := (x % (2 ^ n : Nat)).toNat

/-- An integer clamped into a range. -/
def clampInt (lo hi x : Int) : Int := if x < lo then lo else if hi < x then hi else x

end Sys2Proof.Machine
end

