-- ==== Sys2Proof/Syntax.lean ====
section
/-! DEFINITION. The syntax: one constructor for each row of spec/opcode_table.json. A slot word (R55 to R66) carries
the fields its format gives it, at their exact widths, and its slot where the class has two; the stop bit (R47) belongs
to framing. A microword (R225) carries its fields. A machine event (spec/95) carries what names the agents it acts on. -/
namespace Sys2Proof

/-- Which of the two vector slots a V word stands in (class 010 or 011, R47, R58). -/
inductive VSlot where
  | v0 | v1
  deriving DecidableEq, Repr

/-- Which of the two copy slots a C word stands in (class 101 or 110, R47, R63). -/
inductive CSlot where
  | c0 | c1
  deriving DecidableEq, Repr

/-- A fabric frame: header flit, payload and tag (R354). -/
structure Frame where
  hdr  : BitVec 256
  data : List Byte
  tag  : W64
  deriving DecidableEq, Repr

/-- What the companion processor may do over the Alvel link to a device-bias page (R351, R278). -/
inductive CompanionOp where
  /-- reads `n` bytes at an address of an address space -/
  | read (space : Nat) (va : W64) (n : Nat)
  /-- writes bytes -/
  | write (space : Nat) (va : W64) (data : List Byte)
  /-- one of the atomics of R183, by its opcode, with its operand and, for the compare, the expected value -/
  | atomic (space : Nat) (va : W64) (op : BitVec 7) (operand expected : W64)
  /-- a release of sys scope -/
  | release
  /-- an acquire of sys scope -/
  | acquire
  deriving DecidableEq, Repr

/-- The instructions, microwords and machine events of the opcode table. -/
inductive Instr where
  /-- BUNDLE_ISSUE (R12): The merge stage issues the ready bundle or bundles of a core's running seats for one cycle, and updates starve1. -/
  | bundleIssue (core : Nat)
  /-- CONTROL_REGISTER_WRITE (R335): A firmware write to a control-window register without a row of its own. -/
  | controlRegisterWrite (die off width : Nat) (value : W64)
  /-- NOP (R130): S-slot no operation. -/
  | nop
  /-- ADD (R104): Integer add modulo 2^n. -/
  | add (d a b : BitVec 6) (w : BitVec 2)
  /-- SUB (R104): Integer subtract modulo 2^n. -/
  | sub (d a b : BitVec 6) (w : BitVec 2)
  /-- AND (R104): Bitwise and. -/
  | and (d a b : BitVec 6) (w : BitVec 2)
  /-- OR (R104): Bitwise or. -/
  | or (d a b : BitVec 6) (w : BitVec 2)
  /-- XOR (R104): Bitwise exclusive or. -/
  | xor (d a b : BitVec 6) (w : BitVec 2)
  /-- ANDN (R104): A and not B. -/
  | andn (d a b : BitVec 6) (w : BitVec 2)
  /-- SHL (R104): Shift left by k. -/
  | shl (d a b : BitVec 6) (w : BitVec 2)
  /-- SHR (R104): Logical shift right by k. -/
  | shr (d a b : BitVec 6) (w : BitVec 2)
  /-- SRA (R104): Arithmetic shift right by k. -/
  | sra (d a b : BitVec 6) (w : BitVec 2)
  /-- ROL (R104): Rotate left by k within n bits. -/
  | rol (d a b : BitVec 6) (w : BitVec 2)
  /-- MUL (R106): Low n bits of the product, latency 3. -/
  | mul (d a b : BitVec 6) (w : BitVec 2)
  /-- MULH (R106): High half of the signed 2n-bit product. -/
  | mulh (d a b : BitVec 6) (w : BitVec 2)
  /-- MULHN (R106): High half of the unsigned 2n-bit product. -/
  | mulhn (d a b : BitVec 6) (w : BitVec 2)
  /-- DIV (R106): Signed division truncated toward zero, with fixed results for a zero divisor and for overflow. -/
  | div (d a b : BitVec 6) (w : BitVec 2)
  /-- DIVN (R106): Unsigned division. -/
  | divn (d a b : BitVec 6) (w : BitVec 2)
  /-- REM (R106): Signed remainder. -/
  | rem (d a b : BitVec 6) (w : BitVec 2)
  /-- REMN (R106): Unsigned remainder. -/
  | remn (d a b : BitVec 6) (w : BitVec 2)
  /-- MIN (R104): Signed minimum. -/
  | min (d a b : BitVec 6) (w : BitVec 2)
  /-- MAX (R104): Signed maximum. -/
  | max (d a b : BitVec 6) (w : BitVec 2)
  /-- MINN (R104): Unsigned minimum. -/
  | minn (d a b : BitVec 6) (w : BitVec 2)
  /-- MAXN (R104): Unsigned maximum. -/
  | maxn (d a b : BitVec 6) (w : BitVec 2)
  /-- CLZ (R104): Count leading zero bits. -/
  | clz (d a : BitVec 6) (w : BitVec 2)
  /-- POPC (R104): Count one bits. -/
  | popc (d a : BitVec 6) (w : BitVec 2)
  /-- CTZ (R104): Count trailing zero bits. -/
  | ctz (d a : BitVec 6) (w : BitVec 2)
  /-- CMOV (R105): Writes A to d only when B is not zero. -/
  | cmov (d a b : BitVec 6) (w : BitVec 2)
  /-- CEQ (R107): Compare equal. -/
  | ceq (d a b : BitVec 6) (w : BitVec 2)
  /-- CNE (R107): Compare not equal. -/
  | cne (d a b : BitVec 6) (w : BitVec 2)
  /-- CLT (R107): Compare less than, signed. -/
  | clt (d a b : BitVec 6) (w : BitVec 2)
  /-- CLE (R107): Compare less or equal, signed. -/
  | cle (d a b : BitVec 6) (w : BitVec 2)
  /-- CLTN (R107): Compare less than, unsigned. -/
  | cltn (d a b : BitVec 6) (w : BitVec 2)
  /-- CLEN (R107): Compare less or equal, unsigned. -/
  | clen (d a b : BitVec 6) (w : BitVec 2)
  /-- ADDI (R108): Add a sign-extended immediate. -/
  | addi (d a : BitVec 6) (imm : BitVec 8)
  /-- ANDI (R108): And with a sign-extended immediate. -/
  | andi (d a : BitVec 6) (imm : BitVec 8)
  /-- ORI (R108): Or with a sign-extended immediate. -/
  | ori (d a : BitVec 6) (imm : BitVec 8)
  /-- XORI (R108): Xor with a sign-extended immediate. -/
  | xori (d a : BitVec 6) (imm : BitVec 8)
  /-- SHLI (R108): Shift left by an immediate. -/
  | shli (d a : BitVec 6) (imm : BitVec 8)
  /-- SHRI (R108): Logical shift right by an immediate. -/
  | shri (d a : BitVec 6) (imm : BitVec 8)
  /-- SRAI (R108): Arithmetic shift right by an immediate. -/
  | srai (d a : BitVec 6) (imm : BitVec 8)
  /-- CEQI (R107): Compare equal to an immediate. -/
  | ceqi (d a : BitVec 6) (imm : BitVec 8)
  /-- CLTI (R107): Compare less than an immediate, signed. -/
  | clti (d a : BitVec 6) (imm : BitVec 8)
  /-- CLTNI (R107): Compare less than an immediate, unsigned. -/
  | cltni (d a : BitVec 6) (imm : BitVec 8)
  /-- LI (R109): Load a zero-extended 14-bit immediate. -/
  | li (d : BitVec 6) (imm : BitVec 14)
  /-- LIS (R109): Shift d left by 14 bits and insert a 14-bit immediate. -/
  | lis (d : BitVec 6) (imm : BitVec 14)
  /-- GET (R110): Copies 64 bits of another file's register into an s register. -/
  | get (d : BitVec 6) (file : BitVec 3) (idx : BitVec 5) (lane : BitVec 6)
  /-- PUSH (R111): Appends an 8-byte entry to a store queue. -/
  | push (w : BitVec 2) (a : BitVec 6)
  /-- BZ (R112): Branch if zero, with two delay bundles. -/
  | bz (a : BitVec 6) (hint : BitVec 1) (disp : BitVec 13)
  /-- BNZ (R112): Branch if not zero. -/
  | bnz (a : BitVec 6) (hint : BitVec 1) (disp : BitVec 13)
  /-- BLZ (R112): Branch if negative. -/
  | blz (a : BitVec 6) (hint : BitVec 1) (disp : BitVec 13)
  /-- BGEZ (R112): Branch if not negative. -/
  | bgez (a : BitVec 6) (hint : BitVec 1) (disp : BitVec 13)
  /-- BR (R112): Unconditional branch. -/
  | br (hint : BitVec 1) (disp : BitVec 13)
  /-- CALL (R112): Call that writes the return point to s55. -/
  | call (hint : BitVec 1) (disp : BitVec 13)
  /-- JR (R113): Jump to a register target, always with a bubble. -/
  | jr (a : BitVec 6)
  /-- JLR (R113): Jump to a register target and link in s55. -/
  | jlr (a : BitVec 6)
  /-- LOOP (R33): Opens a hardware loop and frames its body into the loop buffer. -/
  | loop (level : BitVec 3) (a : BitVec 6) (body : BitVec 11)
  /-- LEXIT (R36): Marks loop levels as finishing at their current body ends. -/
  | lexit (level : BitVec 3)
  /-- WAIT (R117): Holds until each outstanding-operation counter is at or below its immediate. -/
  | wait (ld st cp tl : BitVec 5)
  /-- FRAME (R129): Resets FRAME to 0. -/
  | frame
  /-- MFS (R118): Reads a system register. -/
  | mfs (d : BitVec 6) (reg : BitVec 12)
  /-- MTS (R118): Writes a system register, with the register's own effects. -/
  | mts (a : BitVec 6) (reg : BitVec 12)
  /-- SPILL (R123): Parks a 64-bit value under a spill identifier. -/
  | spill (id : BitVec 8) (a : BitVec 6)
  /-- FILL (R123): Returns a spilled 64-bit value. -/
  | fill (d : BitVec 6) (id : BitVec 8)
  /-- TRAP (R124): Raises SW_TRAP with a code. -/
  | trap (code : BitVec 16)
  /-- TRET (R125): Returns from handler or firmware level after checking the saved STATUS. -/
  | tret
  /-- EXIT (R127): Ends the current tile step once loads and pending writes have landed. -/
  | exit
  /-- BRK (R124): Raises BREAK with a code. -/
  | brk (code : BitVec 16)
  /-- FWCALL (R126): Asks firmware for a numbered service and enters firmware level. -/
  | fwcall (service : BitVec 16)
  /-- IDLE (R128): Holds until an event reaches the seat. -/
  | idle
  /-- VNOP (R135): V-slot no operation. -/
  | vnop (sl : VSlot)
  /-- VADD (R136): Element-wise add. -/
  | vadd (sl : VSlot) (fmt : BitVec 4) (d a b : BitVec 5) (k : BitVec 2)
  /-- VSUB (R136): Element-wise subtract. -/
  | vsub (sl : VSlot) (fmt : BitVec 4) (d a b : BitVec 5) (k : BitVec 2)
  /-- VMUL (R136): Element-wise multiply. -/
  | vmul (sl : VSlot) (fmt : BitVec 4) (d a b : BitVec 5) (k : BitVec 2)
  /-- VFMA (R136): Fused a·b + d, rounded once. -/
  | vfma (sl : VSlot) (fmt : BitVec 4) (d a b : BitVec 5) (k : BitVec 2)
  /-- VFMS (R136): Fused d − a·b, rounded once. -/
  | vfms (sl : VSlot) (fmt : BitVec 4) (d a b : BitVec 5) (k : BitVec 2)
  /-- VMIN (R136): Element-wise minimum. -/
  | vmin (sl : VSlot) (fmt : BitVec 4) (d a b : BitVec 5) (k : BitVec 2)
  /-- VMAX (R136): Element-wise maximum. -/
  | vmax (sl : VSlot) (fmt : BitVec 4) (d a b : BitVec 5) (k : BitVec 2)
  /-- VABS (R136): Element-wise absolute value. -/
  | vabs (sl : VSlot) (fmt : BitVec 4) (d a : BitVec 5) (k : BitVec 2)
  /-- VNEG (R136): Element-wise negation. -/
  | vneg (sl : VSlot) (fmt : BitVec 4) (d a : BitVec 5) (k : BitVec 2)
  /-- VTSUM (R137): Rounded sum to d and its exact error to d + 1. -/
  | vtsum (sl : VSlot) (fmt : BitVec 4) (d a b : BitVec 5) (k : BitVec 2)
  /-- VADDS (R136): Saturating integer add. -/
  | vadds (sl : VSlot) (fmt : BitVec 4) (d a b : BitVec 5) (k : BitVec 2)
  /-- VSUBS (R136): Saturating integer subtract. -/
  | vsubs (sl : VSlot) (fmt : BitVec 4) (d a b : BitVec 5) (k : BitVec 2)
  /-- VRCP (R139): Reciprocal, rounded toward zero. -/
  | vrcp (sl : VSlot) (fmt : BitVec 4) (d a : BitVec 5) (k : BitVec 2)
  /-- VRSQ (R139): Reciprocal square root. -/
  | vrsq (sl : VSlot) (fmt : BitVec 4) (d a : BitVec 5) (k : BitVec 2)
  /-- VEXP2 (R139): Power of two. -/
  | vexp2 (sl : VSlot) (fmt : BitVec 4) (d a : BitVec 5) (k : BitVec 2)
  /-- VLOG2 (R139): Base-2 logarithm. -/
  | vlog2 (sl : VSlot) (fmt : BitVec 4) (d a : BitVec 5) (k : BitVec 2)
  /-- VSQRT (R140): Square root rounded RNE. -/
  | vsqrt (sl : VSlot) (fmt : BitVec 4) (d a : BitVec 5) (k : BitVec 2)
  /-- VFLR (R140): Floor to an integral value. -/
  | vflr (sl : VSlot) (fmt : BitVec 4) (d a : BitVec 5) (k : BitVec 2)
  /-- VAND (R141): Bitwise and of words. -/
  | vand (sl : VSlot) (d a b : BitVec 5) (k : BitVec 2)
  /-- VOR (R141): Bitwise or of words. -/
  | vor (sl : VSlot) (d a b : BitVec 5) (k : BitVec 2)
  /-- VXOR (R141): Bitwise xor of words. -/
  | vxor (sl : VSlot) (d a b : BitVec 5) (k : BitVec 2)
  /-- VNOT (R141): Bitwise complement. -/
  | vnot (sl : VSlot) (d a : BitVec 5) (k : BitVec 2)
  /-- VSHL (R142): Per-element shift left. -/
  | vshl (sl : VSlot) (fmt : BitVec 4) (d a b : BitVec 5) (k : BitVec 2)
  /-- VSHR (R142): Per-element logical shift right. -/
  | vshr (sl : VSlot) (fmt : BitVec 4) (d a b : BitVec 5) (k : BitVec 2)
  /-- VSRA (R142): Per-element arithmetic shift right. -/
  | vsra (sl : VSlot) (fmt : BitVec 4) (d a b : BitVec 5) (k : BitVec 2)
  /-- VADDI (R138): Adds a sign-extended immediate to every element. -/
  | vaddi (sl : VSlot) (fmt : BitVec 4) (d a : BitVec 5) (imm : BitVec 7)
  /-- VSHLI (R142): Shift left by an immediate. -/
  | vshli (sl : VSlot) (fmt : BitVec 4) (d a : BitVec 5) (imm : BitVec 7)
  /-- VSHRI (R142): Logical shift right by an immediate. -/
  | vshri (sl : VSlot) (fmt : BitVec 4) (d a : BitVec 5) (imm : BitVec 7)
  /-- VSPLAT (R146): Broadcasts element n to every element. -/
  | vsplat (sl : VSlot) (fmt : BitVec 4) (d a : BitVec 5) (imm : BitVec 7)
  /-- VCEQ (R143): Compare equal into a mask. -/
  | vceq (sl : VSlot) (fmt : BitVec 4) (d a b : BitVec 5) (k : BitVec 2)
  /-- VCNE (R143): Compare not equal into a mask. -/
  | vcne (sl : VSlot) (fmt : BitVec 4) (d a b : BitVec 5) (k : BitVec 2)
  /-- VCLT (R143): Compare less than into a mask. -/
  | vclt (sl : VSlot) (fmt : BitVec 4) (d a b : BitVec 5) (k : BitVec 2)
  /-- VCLE (R143): Compare less or equal into a mask. -/
  | vcle (sl : VSlot) (fmt : BitVec 4) (d a b : BitVec 5) (k : BitVec 2)
  /-- VCUN (R143): Unordered compare into a mask. -/
  | vcun (sl : VSlot) (fmt : BitVec 4) (d a b : BitVec 5) (k : BitVec 2)
  /-- KAND (R144): Mask and. -/
  | kand (sl : VSlot) (d a b : BitVec 5)
  /-- KOR (R144): Mask or. -/
  | kor (sl : VSlot) (d a b : BitVec 5)
  /-- KXOR (R144): Mask xor. -/
  | kxor (sl : VSlot) (d a b : BitVec 5)
  /-- KNOT (R144): Mask complement. -/
  | knot (sl : VSlot) (d a : BitVec 5)
  /-- VSEL (R145): Word-wise select between a and b under a mask. -/
  | vsel (sl : VSlot) (d a b : BitVec 5) (k : BitVec 2)
  /-- VMOV (R145): Masked register copy. -/
  | vmov (sl : VSlot) (d a : BitVec 5) (k : BitVec 2)
  /-- VGET (R148): Brings a value from another file into a vector register or a mask. -/
  | vget (sl : VSlot) (d : BitVec 5) (file : BitVec 3) (idx : BitVec 6) (lane : BitVec 5)
  /-- VIOTA (R146): Writes each active element with its index. -/
  | viota (sl : VSlot) (fmt : BitVec 4) (d : BitVec 5) (k : BitVec 2)
  /-- VLANE (R147): Permutes elements by the indices in b. -/
  | vlane (sl : VSlot) (fmt : BitVec 4) (d a b : BitVec 5) (k : BitVec 2)
  /-- VRADD (R149): Add reduction over a halving tree. -/
  | vradd (sl : VSlot) (fmt : BitVec 4) (d a : BitVec 5) (k : BitVec 2)
  /-- VRMAX (R149): Max reduction. -/
  | vrmax (sl : VSlot) (fmt : BitVec 4) (d a : BitVec 5) (k : BitVec 2)
  /-- VRMIN (R149): Min reduction. -/
  | vrmin (sl : VSlot) (fmt : BitVec 4) (d a : BitVec 5) (k : BitVec 2)
  /-- VRARG (R150): Finds the highest-ranked active element and its index. -/
  | vrarg (sl : VSlot) (fmt : BitVec 4) (d a : BitVec 5) (k : BitVec 2)
  /-- VCVT (R151): Converts elements between formats with a rounding mode and saturation. -/
  | vcvt (sl : VSlot) (fd : BitVec 4) (d a : BitVec 5) (fs : BitVec 4) (rnd : BitVec 2) (sat : BitVec 1)
  /-- VDEFER (R152): Appends the active words to the deferral queue. -/
  | vdefer (sl : VSlot) (cnt a b : BitVec 5) (k : BitVec 2)
  /-- VDRAIN (R153): Removes up to 32 deferral entries into vectors and a mask. -/
  | vdrain (sl : VSlot) (d o : BitVec 5) (km : BitVec 2)
  /-- VPUSH (R154): Appends a 128-byte entry to a store queue. -/
  | vpush (sl : VSlot) (w : BitVec 2) (a : BitVec 5)
  /-- VSPILL (R154): Parks a 1,024-bit value under a spill identifier. -/
  | vspill (sl : VSlot) (id : BitVec 8) (a : BitVec 5)
  /-- VFILL (R154): Returns a spilled 1,024-bit value. -/
  | vfill (sl : VSlot) (d : BitVec 5) (id : BitVec 8)
  /-- MNOP (R216): M-slot no operation. -/
  | mnop
  /-- MCALL (R217): Captures the shadow registers, flags, profile and SRSTATE, and queues a matrix call. -/
  | mcall (routine : BitVec 10) (nocorr limc e5 : BitVec 1) (ceil start : BitVec 2)
  /-- MSET (R216): Sets a shadow parameter register from a sign-extended immediate. -/
  | mset (p : BitVec 3) (imm : BitVec 19)
  /-- MSETH (R216): Copies the active p0–p7 into the shadow set. -/
  | mseth
  /-- MGET (R216): Sets a shadow parameter register from an s register. -/
  | mget (p : BitVec 3) (a : BitVec 6)
  /-- MABORT (R221): Ends the seat's running and queued calls without a report. -/
  | mabort
  /-- CNOP (R173): C-slot no operation. -/
  | cnop (sl : CSlot)
  /-- LDI8 (R176): Signed byte load into a load queue. -/
  | ldi8 (sl : CSlot) (base : BitVec 4) (q : BitVec 3) (disp : BitVec 14)
  /-- LDN8 (R176): Unsigned byte load. -/
  | ldn8 (sl : CSlot) (base : BitVec 4) (q : BitVec 3) (disp : BitVec 14)
  /-- LDI16 (R176): Signed 16-bit load. -/
  | ldi16 (sl : CSlot) (base : BitVec 4) (q : BitVec 3) (disp : BitVec 14)
  /-- LDN16 (R176): Unsigned 16-bit load. -/
  | ldn16 (sl : CSlot) (base : BitVec 4) (q : BitVec 3) (disp : BitVec 14)
  /-- LDI32 (R176): Signed 32-bit load. -/
  | ldi32 (sl : CSlot) (base : BitVec 4) (q : BitVec 3) (disp : BitVec 14)
  /-- LDN32 (R176): Unsigned 32-bit load. -/
  | ldn32 (sl : CSlot) (base : BitVec 4) (q : BitVec 3) (disp : BitVec 14)
  /-- LD64 (R176): 64-bit load. -/
  | ld64 (sl : CSlot) (base : BitVec 4) (q : BitVec 3) (disp : BitVec 14)
  /-- VLD (R176): 128-byte vector load. -/
  | vld (sl : CSlot) (base : BitVec 4) (q : BitVec 3) (disp : BitVec 14)
  /-- VLDG (R178): Gather load through an index entry. -/
  | vldg (sl : CSlot) (base : BitVec 4) (q : BitVec 3) (w sc : BitVec 2)
  /-- VLDS (R177): Strided vector load. -/
  | vlds (sl : CSlot) (base a : BitVec 4) (q : BitVec 3)
  /-- ST8 (R179): Byte store from a store-queue entry. -/
  | st8 (sl : CSlot) (base : BitVec 4) (w : BitVec 3) (disp : BitVec 14)
  /-- ST16 (R179): 16-bit store. -/
  | st16 (sl : CSlot) (base : BitVec 4) (w : BitVec 3) (disp : BitVec 14)
  /-- ST32 (R179): 32-bit store. -/
  | st32 (sl : CSlot) (base : BitVec 4) (w : BitVec 3) (disp : BitVec 14)
  /-- ST64 (R179): 64-bit store. -/
  | st64 (sl : CSlot) (base : BitVec 4) (w : BitVec 3) (disp : BitVec 14)
  /-- VST (R179): 128-byte store. -/
  | vst (sl : CSlot) (base : BitVec 4) (w : BitVec 3) (disp : BitVec 14)
  /-- VSTS (R180): Strided vector store. -/
  | vsts (sl : CSlot) (base a : BitVec 4) (w : BitVec 2)
  /-- VSTM (R181): Scatter store. -/
  | vstm (sl : CSlot) (base : BitVec 4) (wd wi sc : BitVec 2)
  /-- AADD (R183): Atomic add. -/
  | aadd (sl : CSlot) (base : BitVec 4) (q scope : BitVec 3) (order : BitVec 2) (disp : BitVec 9)
  /-- AMIN (R183): Atomic signed minimum. -/
  | amin (sl : CSlot) (base : BitVec 4) (q scope : BitVec 3) (order : BitVec 2) (disp : BitVec 9)
  /-- AMAX (R183): Atomic signed maximum. -/
  | amax (sl : CSlot) (base : BitVec 4) (q scope : BitVec 3) (order : BitVec 2) (disp : BitVec 9)
  /-- AAND (R183): Atomic and. -/
  | aand (sl : CSlot) (base : BitVec 4) (q scope : BitVec 3) (order : BitVec 2) (disp : BitVec 9)
  /-- AOR (R183): Atomic or. -/
  | aor (sl : CSlot) (base : BitVec 4) (q scope : BitVec 3) (order : BitVec 2) (disp : BitVec 9)
  /-- AXCH (R183): Atomic exchange. -/
  | axch (sl : CSlot) (base : BitVec 4) (q scope : BitVec 3) (order : BitVec 2) (disp : BitVec 9)
  /-- ACAS (R183): Atomic compare and swap. -/
  | acas (sl : CSlot) (base : BitVec 4) (q scope : BitVec 3) (order : BitVec 2) (disp : BitVec 9)
  /-- AFADD (R183): Atomic add of two FP32 halves. -/
  | afadd (sl : CSlot) (base : BitVec 4) (q scope : BitVec 3) (order : BitVec 2) (disp : BitVec 9)
  /-- AMINN (R183): Atomic unsigned minimum. -/
  | aminn (sl : CSlot) (base : BitVec 4) (q scope : BitVec 3) (order : BitVec 2) (disp : BitVec 9)
  /-- AMAXN (R183): Atomic unsigned maximum. -/
  | amaxn (sl : CSlot) (base : BitVec 4) (q scope : BitVec 3) (order : BitVec 2) (disp : BitVec 9)
  /-- FENCE (R185): Orders the seat's access-path accesses at a scope. -/
  | fence (sl : CSlot) (scope : BitVec 3) (order : BitVec 2)
  /-- FENCEX (R186): Orders one path against another at a scope. -/
  | fencex (sl : CSlot) (from_ to_ scope : BitVec 3)
  /-- PBAR (R187): Persist barrier: holds until covered durable writes reach the persist domain. -/
  | pbar (sl : CSlot)
  /-- TLOAD_SLOT (R191): Copies a tile from memory into a slot, verifying its glove. -/
  | tloadSlot (sl : CSlot) (base a : BitVec 4) (slot : BitVec 8) (pitched : BitVec 1)
  /-- TLOAD_RING (R191): Copies a tile from memory into the tail entry of a ring. -/
  | tloadRing (sl : CSlot) (base a : BitVec 4) (ring : BitVec 3) (pitched : BitVec 1)
  /-- RPUSH (R192): Copies a ready slot into a ring's tail entry. -/
  | rpush (sl : CSlot) (slot : BitVec 8) (ring : BitVec 3)
  /-- TSTORE (R193): Writes a ready slot to memory after verifying it. -/
  | tstore (sl : CSlot) (base a : BitVec 4) (slot : BitVec 8) (pitched : BitVec 1)
  /-- TSTORE_DUR (R193): Durable tile store that writes through to the persist domain. -/
  | tstoreDur (sl : CSlot) (base a : BitVec 4) (slot : BitVec 8) (pitched : BitVec 1)
  /-- TTRN (R194): Transposes a slot into another slot. -/
  | ttrn (sl : CSlot) (base : BitVec 4) (slot : BitVec 8)
  /-- TCVT (R195): Converts a slot into another slot's format. -/
  | tcvt (sl : CSlot) (base : BitVec 4) (slot : BitVec 8) (rnd : BitVec 2)
  /-- TZERO (R196): Fills a slot with +0 elements and a glove. -/
  | tzero (sl : CSlot) (slot : BitVec 8)
  /-- TFREE (R196): Marks a slot empty. -/
  | tfree (sl : CSlot) (slot : BitVec 8)
  /-- TGATH (R197): Gathers 128 rows into a slot. -/
  | tgath (sl : CSlot) (base a : BitVec 4) (slot : BitVec 8) (w : BitVec 2)
  /-- WGET (R199): Reads from a remote window into local memory. -/
  | wget (sl : CSlot) (base a : BitVec 4) (n : BitVec 12)
  /-- WPUT (R199): Writes local memory into a remote window. -/
  | wput (sl : CSlot) (base a : BitVec 4) (n : BitVec 12)
  /-- WADD (R199): Adds local elements into a remote window. -/
  | wadd (sl : CSlot) (base a : BitVec 4) (n : BitVec 12) (int : BitVec 1)
  /-- COLL (R202): Starts a collective described by a descriptor. -/
  | coll (sl : CSlot) (base : BitVec 4) (op : BitVec 3)
  /-- SMAP (R204): Maps stash entries to global blocks. -/
  | smap (sl : CSlot) (base a : BitVec 4) (n : BitVec 8)
  /-- SWB (R205): Writes back the dirty stash lines of a range. -/
  | swb (sl : CSlot) (base : BitVec 4) (n : BitVec 8)
  /-- SINV (R205): Unmaps stash entries, writing back or discarding dirty lines. -/
  | sinv (sl : CSlot) (base : BitVec 4) (n : BitVec 8) (discard : BitVec 1)
  /-- PREF (R206): Asks for a block to be brought into the die store. -/
  | pref (sl : CSlot) (base : BitVec 4) (disp : BitVec 14)
  /-- ENQ (R207): Offers a launch record to a launch queue. -/
  | enq (sl : CSlot) (base : BitVec 4) (q : BitVec 3) (lq : BitVec 6)
  /-- CANCEL (R208): Asks for a launch, graph, phase or job to be cancelled. -/
  | cancel (sl : CSlot) (base : BitVec 4) (level : BitVec 3)
  /-- CNT (R209): Reads a completion counter into a load queue. -/
  | cnt (sl : CSlot) (base : BitVec 4) (q level : BitVec 3) (kind : BitVec 1)
  /-- CLI (R210): Shifts an address register by 13 bits and adds an immediate. -/
  | cli (sl : CSlot) (d a : BitVec 4) (imm : BitVec 13)
  /-- CADD (R210): Adds a signed immediate to an address register. -/
  | cadd (sl : CSlot) (d a : BitVec 4) (imm : BitVec 13)
  /-- CGET (R210): Copies 64 bits from another file into an address register. -/
  | cget (sl : CSlot) (d : BitVec 4) (file : BitVec 3) (idx : BitVec 6) (lane : BitVec 4)
  /-- CSTR (R210): Sets an address register's stride for a loop level. -/
  | cstr (sl : CSlot) (d : BitVec 4) (level : BitVec 3) (sreg : BitVec 6)
  /-- XNOP (R155): X-slot no operation. -/
  | xnop
  /-- XGET (R156): Copies a head, vector or s register into an x register. -/
  | xget (d : BitVec 4) (file : BitVec 3) (idx : BitVec 6) (lane : BitVec 4)
  /-- XMOV (R157): Copies between x and e registers. -/
  | xmov (fmt d a b : BitVec 4)
  /-- XPACK (R160): Forms one MX block and its scale. -/
  | xpack (fmt d a b e : BitVec 4) (rnd : BitVec 2)
  /-- XUNPK (R161): Expands one MX block to 32 f32 values. -/
  | xunpk (fmt d a b e : BitVec 4)
  /-- XSCAL (R162): Applies or removes a block scale. -/
  | xscal (fmt d a b e : BitVec 4) (rnd : BitVec 2)
  /-- XMXS (R160): Computes only the scale of an MX block. -/
  | xmxs (fmt a b e : BitVec 4)
  /-- XSHUF (R158): Permutes elements by indices. -/
  | xshuf (fmt d a b : BitVec 4)
  /-- XROT (R158): Rotates an x register or swaps the halves of a scale register. -/
  | xrot (fmt d a b : BitVec 4)
  /-- XZIP (R158): Interleaves two registers. -/
  | xzip (fmt d a b : BitVec 4)
  /-- XUZP (R158): De-interleaves two registers. -/
  | xuzp (fmt d a b : BitVec 4)
  /-- XLSC (R163): Loads 32 scale bytes from core store. -/
  | xlsc (e x : BitVec 4) (imm : BitVec 14)
  /-- XSSC (R163): Stores 32 scale bytes to core store. -/
  | xssc (e x : BitVec 4) (imm : BitVec 14)
  /-- BAR_INIT (R165): Sends an initialisation of a named barrier to its home. -/
  | barInit (id : BitVec 11) (scope : BitVec 3) (a : BitVec 4)
  /-- BAR_ARR (R166): Records and sends an arrival at a named barrier. -/
  | barArr (id : BitVec 11) (scope : BitVec 3)
  /-- BAR_WAIT (R166): Holds until the barrier phase moves past the record's phase. -/
  | barWait (id : BitVec 11) (scope : BitVec 3)
  /-- BAR_TST (R167): Reads a barrier's state into a load queue. -/
  | barTst (id : BitVec 11) (scope q : BitVec 3)
  /-- SPAWN (R40): Starts a context on an idle seat of the quad. -/
  | spawn (t : BitVec 3) (a b : BitVec 4)
  /-- YIELD (R170): Offers the seat for exchange. -/
  | yield
  /-- MICROWORD_MNOP (R231): Microword that does nothing. -/
  | microwordMnop
  /-- MLDW (R226): Loads the stationary operand into the shadow plane. -/
  | mldw (src : BitVec 9) (sp : BitVec 1) (metaSlot : BitVec 8)
  /-- MSWP (R227): Makes the shadow plane active. -/
  | mswp
  /-- MSTRM (R228): Streams one stream step through the active plane. -/
  | mstrm (src : BitVec 9) (tiles : BitVec 3) (blk : BitVec 4) (pop : BitVec 1)
  /-- MMV (R229): Runs matrix-vector mode over weight tiles read from memory. -/
  | mmv (vec : BitVec 8) (nv pa : BitVec 3) (cnt : BitVec 8) (blk wfmt : BitVec 4) (gl : BitVec 1)
  /-- MDRN (R230): Compares and drains an accumulator block into an output tile. -/
  | mdrn (blk : BitVec 4) (dst : BitVec 9) (rnd : BitVec 2) (clr : BitVec 1)
  /-- MCLR (R231): Clears accumulator blocks and their check sums. -/
  | mclr (blk nb : BitVec 4)
  /-- MLOOP (R231): Opens a microloop. -/
  | mloop (pc : BitVec 3) (im : BitVec 1) (cnt : BitVec 16)
  /-- MEND (R231): Closes the innermost microloop. -/
  | mend
  /-- MPOP (R231): Pops ring entries or frees a slot. -/
  | mpop (src : BitVec 9) (n : BitVec 4)
  /-- MBUD (R231): Sets the monitor budgets from a parameter register. -/
  | mbud (pb : BitVec 3)
  /-- MCHK (R231): Allows or forbids correction for the rest of the call. -/
  | mchk (nc : BitVec 1)
  /-- MRET (R231): Completes the call once earlier work has finished. -/
  | mret
  /-- MWT (R231): Waits for every earlier microword to finish. -/
  | mwt
  /-- MLAD (R231): Sets the ladder for later stream steps. -/
  | mlad (st cl : BitVec 2) (e5 lc : BitVec 1)
  /-- CALL_START (R218): The free array starts a queued matrix call and makes its captured registers active. -/
  | callStart (core : Nat)
  /-- STREAM_STEP_DECISION (R232): A stream step attempt reaches its decision: budgets, tolerance, correction, detour, recompute, commit or stop. -/
  | streamStepDecision (core : Nat)
  /-- PLANE_LOAD_COMPLETE (R226): A weight load into the shadow plane finishes. -/
  | planeLoadComplete (core : Nat)
  /-- DRAIN_COMPLETE (R230): A drain finishes and its destination becomes ready. -/
  | drainComplete (core : Nat)
  /-- CALL_END (R219): A matrix call completes or fails, tl falls, and a failure report is made. -/
  | callEnd (core : Nat)
  /-- LOAD_QUEUE_ARRIVAL (R22): The data of a load, atomic or other queued request arrive in their reserved entry. -/
  | loadQueueArrival (id : Nat)
  /-- STORE_COMPLETION (R179): A store is performed at the point of coherence of its home and the st counter falls. -/
  | storeCompletion (id : Nat)
  /-- WRITE_STAGE_PASS (R264): A write passes a stage of visibility and enters a die order. -/
  | writeStagePass (id : Nat)
  /-- CROSS_DIE_APPLY (R265): A die applies a write from another die once its vector clock covers the carried one. -/
  | crossDieApply (id die : Nat)
  /-- CHUNK_TRANSFER (R175): An engine translates and moves one chunk of a copy, window or collective command. -/
  | chunkTransfer (ctx : Nat) (seq : W32)
  /-- TILE_COMMAND_COMPLETION (R190): A copy-path tile command completes whole or failed and moves the tile states. -/
  | tileCommandCompletion (ctx : Nat) (seq : W32)
  /-- WINDOW_COMMAND_COMPLETION (R200): A window command completes once every reply has arrived, whole, revoked or faulted. -/
  | windowCommandCompletion (ctx : Nat) (seq : W32)
  /-- SWB_COMPLETION (R205): A stash write-back command completes when its lines are visible at device scope. -/
  | swbCompletion (ctx : Nat) (seq : W32)
  /-- PERSIST_ARRIVAL (R279): A durable write reaches the persist domain. -/
  | persistArrival (id : Nat)
  /-- PBAR_COMPLETION (R187): A persist barrier completes and writes its persist record. -/
  | pbarCompletion (ctx : Nat)
  /-- BARRIER_INIT_MESSAGE (R165): An initialisation reaches the barrier's home and is applied or faulted. -/
  | barrierInitMessage (id : Nat)
  /-- BARRIER_ARRIVAL_MESSAGE (R166): An arrival reaches the home, counts, may complete a phase, and is answered. -/
  | barrierArrivalMessage (id : Nat)
  /-- BARRIER_REPLY (R166): The home's reply to an arrival reaches the seat and updates its record. -/
  | barrierReply (id : Nat)
  /-- BARRIER_COMPLETION_MESSAGE (R166): A phase completion message reaches a seat whose arrival counted. -/
  | barrierCompletionMessage (id : Nat)
  /-- REPORT_DELIVERY (R325): The oldest report is written to the report area and the seat enters its handler. -/
  | reportDelivery (ctx : Nat)
  /-- LAUNCH_ACCEPT (R298): The dispatcher checks an offered record and accepts or refuses it. -/
  | launchAccept (id : Nat)
  /-- LAUNCH_START (R312): A runnable launch at a queue head starts once its predecessors have ended completed. -/
  | launchStart (launch : Nat)
  /-- CLAIM (R306): An idle seat claims a share of a map entry's pool. -/
  | claim (core seat launch entry : Nat)
  /-- TILE_STEP_ENTRY (R304): An eligible tile step is entered with its coordinates, index, arguments and seed. -/
  | tileStepEntry (ctx : Nat)
  /-- CONTEXT_END (R326): A context with no range ends once its counters are 0 and no report is left. -/
  | contextEnd (ctx : Nat)
  /-- LAUNCH_END (R310): A launch ends completed or failed, counts up its hierarchy and adds to its mirrors. -/
  | launchEnd (launch : Nat)
  /-- RETIRE_MAP_CHANGE (R214): At an idle point of the array, marked lines take free spares over 64 cycles. -/
  | retireMapChange (core : Nat)
  /-- RETIRE_WRITE (R376): A firmware write of RETIRE names spare replacements that take effect at the next idle point. -/
  | retireWrite (die pcore : Nat) (value : W64)
  /-- WINDOW_CHUNK_REQUEST (R359): The exporter's window unit judges a request chunk, performs it or refuses it, and replies. -/
  | windowChunkRequest (frame : Frame)
  /-- CHUNK_REPLY (R200): A data, acknowledgement or refusal reply arrives at the requester. -/
  | chunkReply (frame : Frame)
  /-- CHUNK_TIME_LIMIT (R357): A chunk with no reply by LINKTMO ends its command with PEER_FAULT. -/
  | chunkTimeLimit (ctx : Nat) (seq : W32) (chunk : Nat)
  /-- COLLECTIVE_COMPLETION (R203): A collective completes when its destination holds the result. -/
  | collectiveCompletion (group : Nat)
  /-- STASH_WRITEBACK (R260): A tile step's dirty stash lines are written back to their target die. -/
  | stashWriteback (ctx index : Nat)
  /-- EXCHANGE_START (R327): A requested exchange starts at a qualifying bundle boundary. -/
  | exchangeStart (core : Nat)
  /-- EXCHANGE_END (R10): The 16-cycle bank exchange completes. -/
  | exchangeEnd (core : Nat)
  /-- CONTEXT_IMAGE_WRITE (R328): The spill engine writes an evicted context into an image slot. -/
  | contextImageWrite (core : Nat)
  /-- STANDBY_PREFILL (R328): The spill engine reads a context image into the standby bank. -/
  | standbyPrefill (core ctx : Nat)
  /-- MICROPROGRAM_IMAGE_LOAD (R300): The launch's microprogram image is loaded on a core before its first call there. -/
  | microprogramImageLoad (core launch : Nat)
  /-- STEAL_REQUEST (R307): A seat without work asks its dispatcher to steal and a victim is chosen. -/
  | stealRequest (core seat : Nat)
  /-- STEAL_SPLIT (R308): The victim's walker splits its range or refuses. -/
  | stealSplit (id : Nat)
  /-- STEAL_GRANT (R307): The thief receives the split-off range and its walker enters. -/
  | stealGrant (id : Nat)
  /-- PREEMPT (R313): The dispatcher picks a pre-emptible seat, prefills the standby bank and requests an exchange. -/
  | preempt (die launch : Nat)
  /-- CONTEXT_RESUME (R313): A saved context is resumed on an idle seat that its launch may use. -/
  | contextResume (ctx : Nat)
  /-- HOST_CANCEL (R311): A cancel command over the Alvel link cancels a launch, graph, phase or job. -/
  | hostCancel (level ident : Nat)
  /-- LAUNCH_DOORBELL (R352): A doorbell write offers a launch record to queue q, as enq does. -/
  | launchDoorbell (q : Nat) (va : W64)
  /-- QUEUE_RESET (R339): A queue-level reset cancels the queue's launches and truncates their trace sessions. -/
  | queueReset (q : Nat)
  /-- LAUNCH_STOP (R333): A stop brings a launch's contexts to a common milestone cut. -/
  | launchStop (launch : Nat)
  /-- STOP_COMPLETE (R333): The stop completes when every context is stopped or done, and reports the cut. -/
  | stopComplete (launch : Nat)
  /-- STOP_LIMIT_EXPIRY (R334): A seat that has not reached T within STOPLIM is stopped and marked not at the cut. -/
  | stopLimitExpiry (ctx : Nat)
  /-- STOP (R336): SCTL command that freezes a seat at its next boundary. -/
  | stop (core bank : Nat)
  /-- STEP (R336): SCTL command that issues one bundle of a stopped seat. -/
  | step (core bank : Nat)
  /-- RUN (R336): SCTL command that resumes a stopped seat. -/
  | run (core bank : Nat)
  /-- HALT (R322): SCTL command that halts a seat; its context stays readable. -/
  | halt (core bank : Nat)
  /-- RELEASE (R322): SCTL command that frees a halted bank. -/
  | release (core bank : Nat)
  /-- DOMAIN_CHANGE (R338): A bank that receives a context of another domain is cleared before its first bundle. -/
  | domainChange (core bank domain : Nat)
  /-- OWNER_CHANGE (R338): A change of owner clears stores, barriers and image slots and restores the vendor library. -/
  | ownerChange (owner : Nat)
  /-- SHOOTDOWN_PAGES (R349): SDCTL KIND 1 drops cached translations of a page range in one space. -/
  | shootdownPages (die space va count : Nat)
  /-- SHOOTDOWN_SPACE (R349): SDCTL KIND 2 drops every cached translation of one space. -/
  | shootdownSpace (die space : Nat)
  /-- SHOOTDOWN_ALL (R349): SDCTL KIND 3 drops every cached translation of every space. -/
  | shootdownAll (die : Nat)
  /-- SHOOTDOWN_COMPLETE (R349): BUSY clears when entries are dropped and accesses they translated are performed. -/
  | shootdownComplete (die : Nat)
  /-- BIAS_FLIP (R353): A BFCTL write blocks a page and starts moving it to host or device bias. -/
  | biasFlip (die : Nat) (value : W64)
  /-- BIAS_FLIP_COMPLETE (R353): After the write-backs the leaf's BIAS is written, shot down and the page unblocked. -/
  | biasFlipComplete (die : Nat)
  /-- UNCORRECTABLE_DATA (R350): A controller finds an uncorrectable granule, withholds it, logs it and aborts the requester. -/
  | uncorrectableData (die source key : Nat) (vaddr : W64) (seq : W32) (lcore : Nat)
  /-- CORRECTED_ERROR (R396): A corrected error is counted and may cross the threshold. -/
  | correctedError (die source : Nat)
  /-- FUNCTION_REMOVE (R396): A firmware write of REMOVE clears a function's ready bit. -/
  | functionRemove (die : Nat) (value : W64)
  /-- FRAME_RECEIVE (R355): A port checks a received frame's owner, sequence and tag, and drops or forwards it. -/
  | frameReceive (port : Nat) (frame : Frame)
  /-- FRAME_LIFE_EXPIRY (R355): A frame whose LIFE reaches 0 is dropped. -/
  | frameLifeExpiry (port : Nat) (frame : Frame)
  /-- PORT_FAILURE (R358): A failing port's routes move to the other ports of its group. -/
  | portFailure (port : Nat)
  /-- REKEY (R356): Management cores agree a session key into the unused key slot. -/
  | rekey (group owner key : Nat)
  /-- KEY_SLOT_CLEAR (R356): The old key slot is cleared LINKTMO after a rekey. -/
  | keySlotClear (group owner : Nat)
  /-- EXPORT_ENTRY_WRITE (R359): An export-table entry is written through the management mailbox. -/
  | exportEntryWrite (index : Nat) (value : BitVec 192)
  /-- REVOKE (R360): A revoke raises an export entry's generation or invalidates it, and completes once accepted chunks are done. -/
  | revoke (index : Nat) (invalidate : Bool)
  /-- ALVEL_LINK_FAILURE (R351): A link failure aborts host-bias accesses until the link is ready again. -/
  | alvelLinkFailure
  /-- POWER_ON (R361): After power-on each management core authenticates its firmware image. -/
  | powerOn (authentic : W32)
  /-- FUNCTION_READY (R361): A function passes its own tests and sets its readiness bit. -/
  | functionReady (die reg bit : Nat)
  /-- INPUT_UNDERVOLTAGE (R399): Input below 40 V stops issue and flushes the persist domain on hold-up energy. -/
  | inputUndervoltage
  /-- THERMAL_THROTTLE (R399): Power above PCAP or a junction above 105 °C withholds issue from whole cores. -/
  | thermalThrottle (die : Nat) (cores : W64)
  /-- THERMAL_SHUTDOWN (R399): At 115 °C the module stops as on power loss. -/
  | thermalShutdown
  /-- DURABLE_RECOVERY (R369): The firmware service picks the recoverable tile home from persist records and gloves. -/
  | durableRecovery (launch space : Nat) (p0 p1 : W64) (lcore seat : Nat)
  /-- ATTESTATION (R398): Firmware returns a signed attestation report for a nonce. -/
  | attestation (nonce : BitVec 256)
  /-- SCAN_START (R383): SCANCTL START drains the core, runs the pattern set and gives a verdict. -/
  | scanStart (die : Nat) (value : W64)
  /-- SCAN_ABORT (R384): SCANCTL ABORT ends the patterns and restores the core. -/
  | scanAbort (die : Nat)
  /-- SCAN_RUN (R383): Once the core is drained, the scan sets the bin and runs the patterns. -/
  | scanRun (die : Nat)
  /-- SCAN_VERDICT (R383): After the pattern set, signatures are judged, lines marked and the core restored. -/
  | scanVerdict (die : Nat) (fails rows cols : List Nat)
  /-- SCAN_PRIORITY_ABORT (R384): A launch at or above APRIO with work for the core, or a STOP or HALT, aborts the scan. -/
  | scanPriorityAbort (die : Nat)
  /-- LOGICAL_CORE_REBIND (R379): A logical number whose core leaves service takes the best spare once neither core holds a context. -/
  | logicalCoreRebind (die lcore : Nat)
  /-- LCMAP_WRITE (R379): A firmware write of LCMAP naming a spare rebinds the logical core. -/
  | lcmapWrite (die lcore : Nat) (value : W64)
  /-- MONITOR_CLEAR (R385): Writing CLR resets a monitor unit's statistics. -/
  | monitorClear (die unit : Nat)
  /-- MONITOR_LEVEL_SAMPLE (R386): Level sources are sampled every 64 die cycles. -/
  | monitorLevelSample (die unit : Nat)
  /-- TRIGGER_ASSERT (R388): A trigger line asserts 2 cycles after a selected event and runs its actions. -/
  | triggerAssert (die line : Nat)
  /-- DEVICE_TRIGGER_PROPAGATION (R388): A device-wide line asserts on another die 16 + 8·h die cycles later. -/
  | deviceTriggerPropagation (die line : Nat)
  /-- TRGFW_WRITE (R388): A firmware write of TRGFW is a trigger source event. -/
  | trgfwWrite (die : Nat)
  /-- TRIGGER_PIN_INPUT (R388): An edge on package pin TRIG0–TRIG3 is a trigger source on die 0. -/
  | triggerPinInput (pin : Nat)
  /-- TRACE_OPEN (R389): Writing ON = 1 opens a trace session. -/
  | traceOpen (die session : Nat) (value : W64)
  /-- TRACE_END (R389): Writing ON = 0 ends a session with an end record. -/
  | traceEnd (die session : Nat)
  /-- COMPANION_ACCESS (R351): A read, write, atomic or sys-scope release or acquire of the companion processor arrives over the Alvel link and is performed at the home die store of a device-bias page. -/
  | companionAccess (op : CompanionOp)
  /-- IMPORT_ENTRY_WRITE (R359): The driver sets up or rewrites an entry of the device's import table, which resolves window handles. -/
  | importEntryWrite (index : Nat) (value : BitVec 192)
  /-- LINK_CRC_RETRY (R351): A 64-byte granule on the Alvel link fails its link-layer CRC and is retried. -/
  | linkCrcRetry (granule : Nat)
  deriving DecidableEq, Repr

end Sys2Proof
end

