-- ==== Sys2Proof/WellFormed.lean ====
section
/-! DEFINITION. Which slot instructions are legal: the field values, register selections and formats of R53 (reasons 2
to 5), with the tables of the instruction chapters that list them. `Instr.illegal` gives the lowest failing reason. -/
namespace Sys2Proof

/-- The failing reasons of one word, lowest first (R54). -/
def firstReason : List (Bool × Nat) → Option Nat
  | [] => none
  | (bad, r) :: rest => if bad then some r else firstReason rest

/-- A 6-bit S field that names a head, illegal as a destination (R57). -/
def sHead (d : BitVec 6) : Bool := decide (56 ≤ d.toNat)
/-- A 5-bit V field that names a head, illegal as a vector destination (R60). -/
def vHead (d : BitVec 5) : Bool := decide (24 ≤ d.toNat)
/-- A 5-bit field that should name a mask k0 to k3 (R58). -/
def notMask (d : BitVec 5) : Bool := decide (4 ≤ d.toNat)

/-- Format code 15 (R58). -/
def fmt15 (f : BitVec 4) : Bool := decide (f.toNat = 15)
/-- The INT set of R135: i8 n8 i16 n16 i32 n32. -/
def fmtInt (f : BitVec 4) : Bool := decide (f.toNat < 6)
/-- The SINT set: i8 i16 i32. -/
def fmtSint (f : BitVec 4) : Bool := decide (f.toNat = 0 ∨ f.toNat = 2 ∨ f.toNat = 4)
/-- The FLT set: f16 bf16 f32. -/
def fmtFlt (f : BitVec 4) : Bool := decide (f.toNat = 6 ∨ f.toNat = 7 ∨ f.toNat = 8)
/-- The RED set: i16 n16 i32 n32 f16 bf16 f32. -/
def fmtRed (f : BitVec 4) : Bool := decide (2 ≤ f.toNat ∧ f.toNat ≤ 8)
/-- The MOV set: every code 0 to 14 except e2m1. -/
def fmtMov (f : BitVec 4) : Bool := decide (f.toNat ≤ 14 ∧ f.toNat ≠ 11)
/-- The formats of a packed MX block: e4m3, e5m2, e2m1, i8 (R155, R159). -/
def fmtMx (f : BitVec 4) : Bool := decide (f.toNat = 9 ∨ f.toNat = 10 ∨ f.toNat = 11 ∨ f.toNat = 0)
/-- b and e8m0 (xmov, xrot). -/
def fmtBE (f : BitVec 4) : Bool := decide (f.toNat = 14 ∨ f.toNat = 13)
/-- f32 and e8m0 (xscal). -/
def fmtFE (f : BitVec 4) : Bool := decide (f.toNat = 8 ∨ f.toNat = 13)

/-- The width in bits of an element of a format code (R132); 0 for code 15. -/
def fmtWidth (f : BitVec 4) : Nat :=
  if f.toNat = 11 then 4
  else if f.toNat = 0 ∨ f.toNat = 1 ∨ f.toNat = 9 ∨ f.toNat = 10 ∨ f.toNat = 12 ∨ f.toNat = 13 then 8
  else if f.toNat = 2 ∨ f.toNat = 3 ∨ f.toNat = 6 ∨ f.toNat = 7 then 16
  else if f.toNat = 15 then 0
  else 32

/-- An SA word: width code 11 (reason 3), a head as destination (reason 4) (R53, R57). -/
def badSA (d : BitVec 6) (w : BitVec 2) : Option Nat := firstReason [(w == 3, 3), (sHead d, 4)]
/-- A word whose only check is its scalar destination (R57). -/
def badD (d : BitVec 6) : Option Nat := firstReason [(sHead d, 4)]
/-- A shift immediate outside 0 to 63 (R108), then the destination. -/
def badShift (d : BitVec 6) (imm : BitVec 8) : Option Nat := firstReason [(decide (64 ≤ imm.toNat), 3), (sHead d, 4)]
/-- A V word writing a vector register in a format set (R53 reasons 3, 4, 5). -/
def badV (ok : BitVec 4 → Bool) (f : BitVec 4) (d : BitVec 5) : Option Nat :=
  firstReason [(fmt15 f, 3), (vHead d, 4), (!ok f, 5)]
/-- A compare: its d names a mask (R60). -/
def badCmp (ok : BitVec 4 → Bool) (f : BitVec 4) (d : BitVec 5) : Option Nat :=
  firstReason [(fmt15 f, 3), (notMask d, 4), (!ok f, 5)]
/-- `vcvt` (R151): formats b on either side and ds8 as destination are not conversions; rounding 11. -/
def badCvt (fd fs : BitVec 4) (rnd : BitVec 2) (d : BitVec 5) : Option Nat :=
  firstReason [(fmt15 fd || fmt15 fs || rnd == 3, 3), (vHead d, 4), (fd == 14 || fs == 14 || fd == 12, 5)]
/-- `get` (R57, R110). -/
def badGet (d : BitVec 6) (file : BitVec 3) (idx : BitVec 5) (lane : BitVec 6) : Option Nat :=
  let f := file.toNat
  let lanes := if f = 0 ∨ f = 1 ∨ f = 5 then 16 else if f = 2 ∨ f = 3 then 7 else 2
  let size := if f = 0 ∨ f = 1 then 24 else if f = 4 then 8 else 16
  firstReason [(decide (6 ≤ f) || decide (lanes ≤ lane.toNat), 3), (sHead d || decide (size ≤ idx.toNat), 4)]
/-- `vget` (R148). -/
def badVget (d : BitVec 5) (file : BitVec 3) (idx : BitVec 6) (lane : BitVec 5) : Option Nat :=
  let f := file.toNat
  let size := if f = 0 then 56 else if f = 1 ∨ f = 2 then 24 else if f = 3 then 16 else 4
  let lanes := if f = 0 then 20 else 1
  firstReason [(decide (6 ≤ f) || decide (lanes ≤ lane.toNat), 3),
    (decide (size ≤ idx.toNat) || (if f = 4 ∨ f = 5 then notMask d else vHead d), 4)]
/-- `xget` (R156). -/
def badXget (file : BitVec 3) (idx : BitVec 6) (lane : BitVec 4) : Option Nat :=
  let f := file.toNat
  let size := if f = 0 then 8 else if f = 1 ∨ f = 2 then 24 else 56
  firstReason [(decide (4 ≤ f) || (decide (f ≠ 3) && decide (lane.toNat ≠ 0)), 3), (decide (size ≤ idx.toNat), 4)]
/-- `cget` (R210). -/
def badCget (file : BitVec 3) (idx : BitVec 6) (lane : BitVec 4) : Option Nat :=
  let f := file.toNat
  let size := if f = 0 then 64 else if f = 1 ∨ f = 2 then 24 else 16
  let wide := decide (f = 1 ∨ f = 2 ∨ f = 3)
  firstReason [(decide (6 ≤ f) || (!wide && decide (lane.toNat ≠ 0)), 3), (decide (size ≤ idx.toNat), 4)]
/-- A scope code of the C slots: 5 to 7 are illegal (R63). -/
def badScopeC (p : BitVec 3) : Bool := decide (5 ≤ p.toNat)
/-- A scope code of a barrier: 3 to 7 are illegal (R164). -/
def badBar (p : BitVec 3) : Option Nat := firstReason [(decide (3 ≤ p.toNat), 3)]
/-- An atomic (R63). -/
def badAtomic (scope : BitVec 3) : Option Nat := firstReason [(badScopeC scope, 3)]
/-- A CA store: store queues 4 to 7 do not exist (R65). -/
def badStore (w : BitVec 3) : Option Nat := firstReason [(decide (4 ≤ w.toNat), 4)]
/-- A pitch register is named only when pitched (R189). -/
def badPitch (a : BitVec 4) (pitched : BitVec 1) : Option Nat := firstReason [(pitched == 0 && a != 0, 2)]

/-- The lowest failing reason of R53 among 2 to 5 for the fields of a slot instruction; `none` when it is legal.
Microwords and machine events have no decode fate: a microword is judged when it runs (R62, R223). -/
def Instr.illegal : Instr → Option Nat
  | .add d _ _ w | .sub d _ _ w | .and d _ _ w | .or d _ _ w | .xor d _ _ w | .andn d _ _ w
  | .shl d _ _ w | .shr d _ _ w | .sra d _ _ w | .rol d _ _ w | .mul d _ _ w | .mulh d _ _ w | .mulhn d _ _ w
  | .div d _ _ w | .divn d _ _ w | .rem d _ _ w | .remn d _ _ w | .min d _ _ w | .max d _ _ w | .minn d _ _ w
  | .maxn d _ _ w | .clz d _ w | .popc d _ w | .ctz d _ w | .cmov d _ _ w | .ceq d _ _ w | .cne d _ _ w
  | .clt d _ _ w | .cle d _ _ w | .cltn d _ _ w | .clen d _ _ w => badSA d w
  | .addi d _ _ | .andi d _ _ | .ori d _ _ | .xori d _ _ | .ceqi d _ _ | .clti d _ _ | .cltni d _ _ => badD d
  | .shli d _ i | .shri d _ i | .srai d _ i => badShift d i
  | .li d _ | .lis d _ | .mfs d _ | .fill d _ => badD d
  | .get d f n l => badGet d f n l
  | .lexit l => firstReason [(decide (6 ≤ l.toNat), 3)]
  | .vadd _ f d _ _ _ | .vsub _ f d _ _ _ | .vmul _ f d _ _ _ | .vmin _ f d _ _ _ | .vmax _ f d _ _ _ =>
    badV (fun f => fmtInt f || fmtFlt f) f d
  | .vaddi _ f d _ _ => badV (fun f => fmtInt f || fmtFlt f) f d
  | .vfma _ f d _ _ _ | .vfms _ f d _ _ _ => badV fmtFlt f d
  | .vabs _ f d _ _ | .vneg _ f d _ _ => badV (fun f => fmtSint f || fmtFlt f) f d
  | .vtsum _ f d _ _ _ => firstReason [(fmt15 f, 3), (decide (23 ≤ d.toNat), 4), (!fmtFlt f, 5)]
  | .vadds _ f d _ _ _ | .vsubs _ f d _ _ _ | .vshl _ f d _ _ _ | .vshr _ f d _ _ _ | .vsra _ f d _ _ _ =>
    badV fmtInt f d
  | .vrcp _ f d _ _ | .vrsq _ f d _ _ | .vexp2 _ f d _ _ | .vlog2 _ f d _ _ | .vsqrt _ f d _ _ | .vflr _ f d _ _ =>
    badV fmtFlt f d
  | .vand _ d _ _ _ | .vor _ d _ _ _ | .vxor _ d _ _ _ | .vsel _ d _ _ _ => firstReason [(vHead d, 4)]
  | .vnot _ d _ _ | .vmov _ d _ _ => firstReason [(vHead d, 4)]
  | .vshli _ f d _ i | .vshri _ f d _ i =>
    firstReason [(fmt15 f || decide (fmtWidth f ≤ i.toNat), 3), (vHead d, 4), (!fmtInt f, 5)]
  | .vsplat _ f d _ i =>
    firstReason [(fmt15 f || (fmtMov f && decide (1024 / fmtWidth f ≤ i.toNat)), 3), (vHead d, 4), (!fmtMov f, 5)]
  | .vceq _ f d _ _ _ | .vcne _ f d _ _ _ | .vclt _ f d _ _ _ | .vcle _ f d _ _ _ =>
    badCmp (fun f => fmtInt f || fmtFlt f) f d
  | .vcun _ f d _ _ _ => badCmp fmtFlt f d
  | .kand _ d a b | .kor _ d a b | .kxor _ d a b => firstReason [(notMask d || notMask a || notMask b, 4)]
  | .knot _ d a => firstReason [(notMask d || notMask a, 4)]
  | .vget _ d f n l => badVget d f n l
  | .viota _ f d _ => badV fmtInt f d
  | .vlane _ f d _ _ _ => badV fmtMov f d
  | .vradd _ f d _ _ | .vrmax _ f d _ _ | .vrmin _ f d _ _ | .vrarg _ f d _ _ => badV fmtRed f d
  | .vcvt _ fd d _ fs r _ => badCvt fd fs r d
  | .vdefer _ c _ b _ => firstReason [(c == 0 && b != 0, 2), (decide (2 ≤ c.toNat), 3)]
  | .vdrain _ d o _ =>
    firstReason [(decide (23 ≤ d.toNat) || vHead o || decide (o.toNat = d.toNat ∨ o.toNat = d.toNat + 1), 4)]
  | .vfill _ d _ => firstReason [(vHead d, 4)]
  | .mcall _ _ _ _ c s => firstReason [(c == 3 || s == 3 || decide (c.toNat < s.toNat), 3)]
  | .st8 _ _ w _ | .st16 _ _ w _ | .st32 _ _ w _ | .st64 _ _ w _ | .vst _ _ w _ => badStore w
  | .aadd _ _ _ p _ _ | .amin _ _ _ p _ _ | .amax _ _ _ p _ _ | .aand _ _ _ p _ _ | .aor _ _ _ p _ _
  | .axch _ _ _ p _ _ | .acas _ _ _ p _ _ | .afadd _ _ _ p _ _ | .aminn _ _ _ p _ _ | .amaxn _ _ _ p _ _ =>
    badAtomic p
  | .fence _ p o => firstReason [(badScopeC p || o == 0, 3)]
  | .fencex _ f t p => firstReason [(decide (6 ≤ f.toNat) || decide (6 ≤ t.toNat) || badScopeC p, 3)]
  | .tloadSlot _ _ a _ p | .tstore _ _ a _ p | .tstoreDur _ _ a _ p => badPitch a p
  | .tloadRing _ _ a _ p => badPitch a p
  | .tcvt _ _ _ r => firstReason [(r == 3, 3)]
  | .coll _ _ op => firstReason [(decide (6 ≤ op.toNat), 3)]
  | .cancel _ _ l => firstReason [(decide (4 ≤ l.toNat), 3)]
  | .cnt _ _ _ l _ => firstReason [(decide (4 ≤ l.toNat), 3)]
  | .cget _ _ f n l => badCget f n l
  | .cstr _ _ l _ => firstReason [(decide (6 ≤ l.toNat), 3)]
  | .xget _ f n l => badXget f n l
  | .xmov f _ _ b =>
    firstReason [(fmt15 f || decide (2 ≤ b.toNat) || (f == 14 && b != 0), 3), (!fmtBE f, 5)]
  | .xpack f _ _ _ _ r => firstReason [(fmt15 f || r == 3, 3), (!fmtMx f, 5)]
  | .xunpk f _ _ _ _ => firstReason [(fmt15 f, 3), (!fmtMx f, 5)]
  | .xscal f _ _ _ _ r => firstReason [(fmt15 f || r == 3, 3), (!fmtFE f, 5)]
  | .xmxs f _ _ _ => firstReason [(fmt15 f, 3), (!fmtMx f, 5)]
  | .xshuf f _ _ _ | .xzip f _ _ _ | .xuzp f _ _ _ => firstReason [(fmt15 f, 3), (!fmtMov f, 5)]
  | .xrot f _ _ b => firstReason [(f == 13 && b != 0, 2), (fmt15 f, 3), (!fmtBE f, 5)]
  | .barInit _ p _ | .barArr _ p | .barWait _ p => badBar p
  | .barTst _ p _ => badBar p
  | _ => none

/-- A well-formed instruction: no reason of R53 refuses its fields. -/
def Instr.wf (i : Instr) : Prop := i.illegal = none

end Sys2Proof
end

