-- ==== Sys2Proof/Decode.lean ====
section
/-! DEFINITION. The decoder and the encoder: bundle words by the format and opcode tables of R55 to R66, microwords by
R62 and R225, the framing of a bundle by R48 and R49, and the decode fates of R53 and R54. -/
namespace Sys2Proof.Machine

/-- A row of an opcode table read for one word: the instruction, the bits of the word that must be zero, and whether the
format field must hold code 14 (the B set of R135). -/
structure Row where
  instr : Instr
  zeros : Nat
  fmtB  : Bool
  deriving DecidableEq, Repr

/-- The rows of class S by opcode (R55 to R57): the instruction, the bits its layout leaves zero, and whether only format
code b is accepted (R135). -/
def rowS (w : W32) : Option Row :=
  match (fld w 20 8).toNat with
  | 0x0 => some ⟨.nop, 0xfffff, false⟩
  | 0x1 => some ⟨.add (fld w 14 6) (fld w 8 6) (fld w 2 6) (fld w 0 2), 0x0, false⟩
  | 0x2 => some ⟨.sub (fld w 14 6) (fld w 8 6) (fld w 2 6) (fld w 0 2), 0x0, false⟩
  | 0x3 => some ⟨.and (fld w 14 6) (fld w 8 6) (fld w 2 6) (fld w 0 2), 0x0, false⟩
  | 0x4 => some ⟨.or (fld w 14 6) (fld w 8 6) (fld w 2 6) (fld w 0 2), 0x0, false⟩
  | 0x5 => some ⟨.xor (fld w 14 6) (fld w 8 6) (fld w 2 6) (fld w 0 2), 0x0, false⟩
  | 0x6 => some ⟨.andn (fld w 14 6) (fld w 8 6) (fld w 2 6) (fld w 0 2), 0x0, false⟩
  | 0x7 => some ⟨.shl (fld w 14 6) (fld w 8 6) (fld w 2 6) (fld w 0 2), 0x0, false⟩
  | 0x8 => some ⟨.shr (fld w 14 6) (fld w 8 6) (fld w 2 6) (fld w 0 2), 0x0, false⟩
  | 0x9 => some ⟨.sra (fld w 14 6) (fld w 8 6) (fld w 2 6) (fld w 0 2), 0x0, false⟩
  | 0xa => some ⟨.rol (fld w 14 6) (fld w 8 6) (fld w 2 6) (fld w 0 2), 0x0, false⟩
  | 0xb => some ⟨.mul (fld w 14 6) (fld w 8 6) (fld w 2 6) (fld w 0 2), 0x0, false⟩
  | 0xc => some ⟨.mulh (fld w 14 6) (fld w 8 6) (fld w 2 6) (fld w 0 2), 0x0, false⟩
  | 0xd => some ⟨.mulhn (fld w 14 6) (fld w 8 6) (fld w 2 6) (fld w 0 2), 0x0, false⟩
  | 0xe => some ⟨.div (fld w 14 6) (fld w 8 6) (fld w 2 6) (fld w 0 2), 0x0, false⟩
  | 0xf => some ⟨.divn (fld w 14 6) (fld w 8 6) (fld w 2 6) (fld w 0 2), 0x0, false⟩
  | 0x10 => some ⟨.rem (fld w 14 6) (fld w 8 6) (fld w 2 6) (fld w 0 2), 0x0, false⟩
  | 0x11 => some ⟨.remn (fld w 14 6) (fld w 8 6) (fld w 2 6) (fld w 0 2), 0x0, false⟩
  | 0x12 => some ⟨.min (fld w 14 6) (fld w 8 6) (fld w 2 6) (fld w 0 2), 0x0, false⟩
  | 0x13 => some ⟨.max (fld w 14 6) (fld w 8 6) (fld w 2 6) (fld w 0 2), 0x0, false⟩
  | 0x14 => some ⟨.minn (fld w 14 6) (fld w 8 6) (fld w 2 6) (fld w 0 2), 0x0, false⟩
  | 0x15 => some ⟨.maxn (fld w 14 6) (fld w 8 6) (fld w 2 6) (fld w 0 2), 0x0, false⟩
  | 0x16 => some ⟨.clz (fld w 14 6) (fld w 8 6) (fld w 0 2), 0xfc, false⟩
  | 0x17 => some ⟨.popc (fld w 14 6) (fld w 8 6) (fld w 0 2), 0xfc, false⟩
  | 0x18 => some ⟨.ctz (fld w 14 6) (fld w 8 6) (fld w 0 2), 0xfc, false⟩
  | 0x19 => some ⟨.cmov (fld w 14 6) (fld w 8 6) (fld w 2 6) (fld w 0 2), 0x0, false⟩
  | 0x20 => some ⟨.ceq (fld w 14 6) (fld w 8 6) (fld w 2 6) (fld w 0 2), 0x0, false⟩
  | 0x21 => some ⟨.cne (fld w 14 6) (fld w 8 6) (fld w 2 6) (fld w 0 2), 0x0, false⟩
  | 0x22 => some ⟨.clt (fld w 14 6) (fld w 8 6) (fld w 2 6) (fld w 0 2), 0x0, false⟩
  | 0x23 => some ⟨.cle (fld w 14 6) (fld w 8 6) (fld w 2 6) (fld w 0 2), 0x0, false⟩
  | 0x24 => some ⟨.cltn (fld w 14 6) (fld w 8 6) (fld w 2 6) (fld w 0 2), 0x0, false⟩
  | 0x25 => some ⟨.clen (fld w 14 6) (fld w 8 6) (fld w 2 6) (fld w 0 2), 0x0, false⟩
  | 0x30 => some ⟨.addi (fld w 14 6) (fld w 8 6) (fld w 0 8), 0x0, false⟩
  | 0x31 => some ⟨.andi (fld w 14 6) (fld w 8 6) (fld w 0 8), 0x0, false⟩
  | 0x32 => some ⟨.ori (fld w 14 6) (fld w 8 6) (fld w 0 8), 0x0, false⟩
  | 0x33 => some ⟨.xori (fld w 14 6) (fld w 8 6) (fld w 0 8), 0x0, false⟩
  | 0x34 => some ⟨.shli (fld w 14 6) (fld w 8 6) (fld w 0 8), 0x0, false⟩
  | 0x35 => some ⟨.shri (fld w 14 6) (fld w 8 6) (fld w 0 8), 0x0, false⟩
  | 0x36 => some ⟨.srai (fld w 14 6) (fld w 8 6) (fld w 0 8), 0x0, false⟩
  | 0x37 => some ⟨.ceqi (fld w 14 6) (fld w 8 6) (fld w 0 8), 0x0, false⟩
  | 0x38 => some ⟨.clti (fld w 14 6) (fld w 8 6) (fld w 0 8), 0x0, false⟩
  | 0x39 => some ⟨.cltni (fld w 14 6) (fld w 8 6) (fld w 0 8), 0x0, false⟩
  | 0x3a => some ⟨.li (fld w 14 6) (fld w 0 14), 0x0, false⟩
  | 0x3b => some ⟨.lis (fld w 14 6) (fld w 0 14), 0x0, false⟩
  | 0x40 => some ⟨.get (fld w 14 6) (fld w 11 3) (fld w 6 5) (fld w 0 6), 0x0, false⟩
  | 0x41 => some ⟨.push (fld w 18 2) (fld w 8 6), 0x3c0ff, false⟩
  | 0x50 => some ⟨.bz (fld w 14 6) (fld w 13 1) (fld w 0 13), 0x0, false⟩
  | 0x51 => some ⟨.bnz (fld w 14 6) (fld w 13 1) (fld w 0 13), 0x0, false⟩
  | 0x52 => some ⟨.blz (fld w 14 6) (fld w 13 1) (fld w 0 13), 0x0, false⟩
  | 0x53 => some ⟨.bgez (fld w 14 6) (fld w 13 1) (fld w 0 13), 0x0, false⟩
  | 0x54 => some ⟨.br (fld w 13 1) (fld w 0 13), 0xfc000, false⟩
  | 0x55 => some ⟨.call (fld w 13 1) (fld w 0 13), 0xfc000, false⟩
  | 0x56 => some ⟨.jr (fld w 8 6), 0xfc0ff, false⟩
  | 0x57 => some ⟨.jlr (fld w 8 6), 0xfc0ff, false⟩
  | 0x58 => some ⟨.loop (fld w 17 3) (fld w 11 6) (fld w 0 11), 0x0, false⟩
  | 0x59 => some ⟨.lexit (fld w 17 3), 0x1ffff, false⟩
  | 0x60 => some ⟨.wait (fld w 15 5) (fld w 10 5) (fld w 5 5) (fld w 0 5), 0x0, false⟩
  | 0x61 => some ⟨.frame, 0xfffff, false⟩
  | 0x62 => some ⟨.mfs (fld w 14 6) (fld w 0 12), 0x3000, false⟩
  | 0x63 => some ⟨.mts (fld w 14 6) (fld w 0 12), 0x3000, false⟩
  | 0x64 => some ⟨.spill (fld w 12 8) (fld w 6 6), 0x3f, false⟩
  | 0x65 => some ⟨.fill (fld w 14 6) (fld w 6 8), 0x3f, false⟩
  | 0x70 => some ⟨.trap (fld w 0 16), 0xf0000, false⟩
  | 0x71 => some ⟨.tret, 0xfffff, false⟩
  | 0x72 => some ⟨.exit, 0xfffff, false⟩
  | 0x73 => some ⟨.brk (fld w 0 16), 0xf0000, false⟩
  | 0x74 => some ⟨.fwcall (fld w 0 16), 0xf0000, false⟩
  | 0x75 => some ⟨.idle, 0xfffff, false⟩
  | _ => none

/-- The rows of class V by opcode (R58 to R60): the instruction, the bits its layout leaves zero, and whether only format
code b is accepted (R135). -/
def rowV (sl : VSlot) (w : W32) : Option Row :=
  match (fld w 21 7).toNat with
  | 0x0 => some ⟨.vnop sl, 0x1fffff, false⟩
  | 0x1 => some ⟨.vadd sl (fld w 17 4) (fld w 12 5) (fld w 7 5) (fld w 2 5) (fld w 0 2), 0x0, false⟩
  | 0x2 => some ⟨.vsub sl (fld w 17 4) (fld w 12 5) (fld w 7 5) (fld w 2 5) (fld w 0 2), 0x0, false⟩
  | 0x3 => some ⟨.vmul sl (fld w 17 4) (fld w 12 5) (fld w 7 5) (fld w 2 5) (fld w 0 2), 0x0, false⟩
  | 0x4 => some ⟨.vfma sl (fld w 17 4) (fld w 12 5) (fld w 7 5) (fld w 2 5) (fld w 0 2), 0x0, false⟩
  | 0x5 => some ⟨.vfms sl (fld w 17 4) (fld w 12 5) (fld w 7 5) (fld w 2 5) (fld w 0 2), 0x0, false⟩
  | 0x6 => some ⟨.vmin sl (fld w 17 4) (fld w 12 5) (fld w 7 5) (fld w 2 5) (fld w 0 2), 0x0, false⟩
  | 0x7 => some ⟨.vmax sl (fld w 17 4) (fld w 12 5) (fld w 7 5) (fld w 2 5) (fld w 0 2), 0x0, false⟩
  | 0x8 => some ⟨.vabs sl (fld w 17 4) (fld w 12 5) (fld w 7 5) (fld w 0 2), 0x7c, false⟩
  | 0x9 => some ⟨.vneg sl (fld w 17 4) (fld w 12 5) (fld w 7 5) (fld w 0 2), 0x7c, false⟩
  | 0xa => some ⟨.vtsum sl (fld w 17 4) (fld w 12 5) (fld w 7 5) (fld w 2 5) (fld w 0 2), 0x0, false⟩
  | 0xb => some ⟨.vadds sl (fld w 17 4) (fld w 12 5) (fld w 7 5) (fld w 2 5) (fld w 0 2), 0x0, false⟩
  | 0xc => some ⟨.vsubs sl (fld w 17 4) (fld w 12 5) (fld w 7 5) (fld w 2 5) (fld w 0 2), 0x0, false⟩
  | 0x10 => some ⟨.vrcp sl (fld w 17 4) (fld w 12 5) (fld w 7 5) (fld w 0 2), 0x7c, false⟩
  | 0x11 => some ⟨.vrsq sl (fld w 17 4) (fld w 12 5) (fld w 7 5) (fld w 0 2), 0x7c, false⟩
  | 0x12 => some ⟨.vexp2 sl (fld w 17 4) (fld w 12 5) (fld w 7 5) (fld w 0 2), 0x7c, false⟩
  | 0x13 => some ⟨.vlog2 sl (fld w 17 4) (fld w 12 5) (fld w 7 5) (fld w 0 2), 0x7c, false⟩
  | 0x14 => some ⟨.vsqrt sl (fld w 17 4) (fld w 12 5) (fld w 7 5) (fld w 0 2), 0x7c, false⟩
  | 0x15 => some ⟨.vflr sl (fld w 17 4) (fld w 12 5) (fld w 7 5) (fld w 0 2), 0x7c, false⟩
  | 0x18 => some ⟨.vand sl (fld w 12 5) (fld w 7 5) (fld w 2 5) (fld w 0 2), 0x0, true⟩
  | 0x19 => some ⟨.vor sl (fld w 12 5) (fld w 7 5) (fld w 2 5) (fld w 0 2), 0x0, true⟩
  | 0x1a => some ⟨.vxor sl (fld w 12 5) (fld w 7 5) (fld w 2 5) (fld w 0 2), 0x0, true⟩
  | 0x1b => some ⟨.vnot sl (fld w 12 5) (fld w 7 5) (fld w 0 2), 0x7c, true⟩
  | 0x1c => some ⟨.vshl sl (fld w 17 4) (fld w 12 5) (fld w 7 5) (fld w 2 5) (fld w 0 2), 0x0, false⟩
  | 0x1d => some ⟨.vshr sl (fld w 17 4) (fld w 12 5) (fld w 7 5) (fld w 2 5) (fld w 0 2), 0x0, false⟩
  | 0x1e => some ⟨.vsra sl (fld w 17 4) (fld w 12 5) (fld w 7 5) (fld w 2 5) (fld w 0 2), 0x0, false⟩
  | 0x20 => some ⟨.vaddi sl (fld w 17 4) (fld w 12 5) (fld w 7 5) (fld w 0 7), 0x0, false⟩
  | 0x21 => some ⟨.vshli sl (fld w 17 4) (fld w 12 5) (fld w 7 5) (fld w 0 7), 0x0, false⟩
  | 0x22 => some ⟨.vshri sl (fld w 17 4) (fld w 12 5) (fld w 7 5) (fld w 0 7), 0x0, false⟩
  | 0x23 => some ⟨.vsplat sl (fld w 17 4) (fld w 12 5) (fld w 7 5) (fld w 0 7), 0x0, false⟩
  | 0x28 => some ⟨.vceq sl (fld w 17 4) (fld w 12 5) (fld w 7 5) (fld w 2 5) (fld w 0 2), 0x0, false⟩
  | 0x29 => some ⟨.vcne sl (fld w 17 4) (fld w 12 5) (fld w 7 5) (fld w 2 5) (fld w 0 2), 0x0, false⟩
  | 0x2a => some ⟨.vclt sl (fld w 17 4) (fld w 12 5) (fld w 7 5) (fld w 2 5) (fld w 0 2), 0x0, false⟩
  | 0x2b => some ⟨.vcle sl (fld w 17 4) (fld w 12 5) (fld w 7 5) (fld w 2 5) (fld w 0 2), 0x0, false⟩
  | 0x2c => some ⟨.vcun sl (fld w 17 4) (fld w 12 5) (fld w 7 5) (fld w 2 5) (fld w 0 2), 0x0, false⟩
  | 0x30 => some ⟨.kand sl (fld w 12 5) (fld w 7 5) (fld w 2 5), 0x3, true⟩
  | 0x31 => some ⟨.kor sl (fld w 12 5) (fld w 7 5) (fld w 2 5), 0x3, true⟩
  | 0x32 => some ⟨.kxor sl (fld w 12 5) (fld w 7 5) (fld w 2 5), 0x3, true⟩
  | 0x33 => some ⟨.knot sl (fld w 12 5) (fld w 7 5), 0x7f, true⟩
  | 0x38 => some ⟨.vsel sl (fld w 12 5) (fld w 7 5) (fld w 2 5) (fld w 0 2), 0x0, true⟩
  | 0x39 => some ⟨.vmov sl (fld w 12 5) (fld w 7 5) (fld w 0 2), 0x7c, true⟩
  | 0x3a => some ⟨.vget sl (fld w 16 5) (fld w 13 3) (fld w 7 6) (fld w 2 5), 0x3, false⟩
  | 0x3b => some ⟨.viota sl (fld w 17 4) (fld w 12 5) (fld w 0 2), 0xffc, false⟩
  | 0x3c => some ⟨.vlane sl (fld w 17 4) (fld w 12 5) (fld w 7 5) (fld w 2 5) (fld w 0 2), 0x0, false⟩
  | 0x40 => some ⟨.vradd sl (fld w 17 4) (fld w 12 5) (fld w 7 5) (fld w 0 2), 0x7c, false⟩
  | 0x41 => some ⟨.vrmax sl (fld w 17 4) (fld w 12 5) (fld w 7 5) (fld w 0 2), 0x7c, false⟩
  | 0x42 => some ⟨.vrmin sl (fld w 17 4) (fld w 12 5) (fld w 7 5) (fld w 0 2), 0x7c, false⟩
  | 0x43 => some ⟨.vrarg sl (fld w 17 4) (fld w 12 5) (fld w 7 5) (fld w 0 2), 0x7c, false⟩
  | 0x48 => some ⟨.vcvt sl (fld w 17 4) (fld w 12 5) (fld w 7 5) (fld w 3 4) (fld w 1 2) (fld w 0 1), 0x0, false⟩
  | 0x50 => some ⟨.vdefer sl (fld w 12 5) (fld w 7 5) (fld w 2 5) (fld w 0 2), 0x0, true⟩
  | 0x51 => some ⟨.vdrain sl (fld w 12 5) (fld w 7 5) (fld w 0 2), 0x7c, true⟩
  | 0x58 => some ⟨.vpush sl (fld w 19 2) (fld w 7 5), 0x7f07f, false⟩
  | 0x5c => some ⟨.vspill sl (fld w 13 8) (fld w 7 5), 0x107f, false⟩
  | 0x5d => some ⟨.vfill sl (fld w 16 5) (fld w 8 8), 0xff, false⟩
  | _ => none

/-- The rows of class M by opcode (R61): the instruction, the bits its layout leaves zero, and whether only format
code b is accepted (R135). -/
def rowM (w : W32) : Option Row :=
  match (fld w 22 6).toNat with
  | 0x0 => some ⟨.mnop, 0x3fffff, false⟩
  | 0x1 => some ⟨.mcall (fld w 12 10) (fld w 6 1) (fld w 5 1) (fld w 4 1) (fld w 2 2) (fld w 0 2), 0xf80, false⟩
  | 0x2 => some ⟨.mset (fld w 19 3) (fld w 0 19), 0x0, false⟩
  | 0x3 => some ⟨.mseth, 0x3fffff, false⟩
  | 0x4 => some ⟨.mget (fld w 19 3) (fld w 13 6), 0x1fff, false⟩
  | 0x5 => some ⟨.mabort, 0x3fffff, false⟩
  | _ => none

/-- The rows of class C by opcode (R63 to R65, R189): the instruction, the bits its layout leaves zero, and whether only format
code b is accepted (R135). -/
def rowC (sl : CSlot) (w : W32) : Option Row :=
  match (fld w 21 7).toNat with
  | 0x0 => some ⟨.cnop sl, 0x1fffff, false⟩
  | 0x1 => some ⟨.ldi8 sl (fld w 17 4) (fld w 14 3) (fld w 0 14), 0x0, false⟩
  | 0x2 => some ⟨.ldn8 sl (fld w 17 4) (fld w 14 3) (fld w 0 14), 0x0, false⟩
  | 0x3 => some ⟨.ldi16 sl (fld w 17 4) (fld w 14 3) (fld w 0 14), 0x0, false⟩
  | 0x4 => some ⟨.ldn16 sl (fld w 17 4) (fld w 14 3) (fld w 0 14), 0x0, false⟩
  | 0x5 => some ⟨.ldi32 sl (fld w 17 4) (fld w 14 3) (fld w 0 14), 0x0, false⟩
  | 0x6 => some ⟨.ldn32 sl (fld w 17 4) (fld w 14 3) (fld w 0 14), 0x0, false⟩
  | 0x7 => some ⟨.ld64 sl (fld w 17 4) (fld w 14 3) (fld w 0 14), 0x0, false⟩
  | 0x8 => some ⟨.vld sl (fld w 17 4) (fld w 14 3) (fld w 0 14), 0x0, false⟩
  | 0x9 => some ⟨.vldg sl (fld w 17 4) (fld w 10 3) (fld w 8 2) (fld w 6 2), 0x1e03f, false⟩
  | 0xa => some ⟨.vlds sl (fld w 17 4) (fld w 13 4) (fld w 10 3), 0x3ff, false⟩
  | 0x10 => some ⟨.st8 sl (fld w 17 4) (fld w 14 3) (fld w 0 14), 0x0, false⟩
  | 0x11 => some ⟨.st16 sl (fld w 17 4) (fld w 14 3) (fld w 0 14), 0x0, false⟩
  | 0x12 => some ⟨.st32 sl (fld w 17 4) (fld w 14 3) (fld w 0 14), 0x0, false⟩
  | 0x13 => some ⟨.st64 sl (fld w 17 4) (fld w 14 3) (fld w 0 14), 0x0, false⟩
  | 0x14 => some ⟨.vst sl (fld w 17 4) (fld w 14 3) (fld w 0 14), 0x0, false⟩
  | 0x15 => some ⟨.vsts sl (fld w 17 4) (fld w 13 4) (fld w 11 2), 0x7ff, false⟩
  | 0x16 => some ⟨.vstm sl (fld w 17 4) (fld w 11 2) (fld w 9 2) (fld w 7 2), 0x1e07f, false⟩
  | 0x20 => some ⟨.aadd sl (fld w 17 4) (fld w 14 3) (fld w 11 3) (fld w 9 2) (fld w 0 9), 0x0, false⟩
  | 0x21 => some ⟨.amin sl (fld w 17 4) (fld w 14 3) (fld w 11 3) (fld w 9 2) (fld w 0 9), 0x0, false⟩
  | 0x22 => some ⟨.amax sl (fld w 17 4) (fld w 14 3) (fld w 11 3) (fld w 9 2) (fld w 0 9), 0x0, false⟩
  | 0x23 => some ⟨.aand sl (fld w 17 4) (fld w 14 3) (fld w 11 3) (fld w 9 2) (fld w 0 9), 0x0, false⟩
  | 0x24 => some ⟨.aor sl (fld w 17 4) (fld w 14 3) (fld w 11 3) (fld w 9 2) (fld w 0 9), 0x0, false⟩
  | 0x25 => some ⟨.axch sl (fld w 17 4) (fld w 14 3) (fld w 11 3) (fld w 9 2) (fld w 0 9), 0x0, false⟩
  | 0x26 => some ⟨.acas sl (fld w 17 4) (fld w 14 3) (fld w 11 3) (fld w 9 2) (fld w 0 9), 0x0, false⟩
  | 0x27 => some ⟨.afadd sl (fld w 17 4) (fld w 14 3) (fld w 11 3) (fld w 9 2) (fld w 0 9), 0x0, false⟩
  | 0x28 => some ⟨.aminn sl (fld w 17 4) (fld w 14 3) (fld w 11 3) (fld w 9 2) (fld w 0 9), 0x0, false⟩
  | 0x29 => some ⟨.amaxn sl (fld w 17 4) (fld w 14 3) (fld w 11 3) (fld w 9 2) (fld w 0 9), 0x0, false⟩
  | 0x30 => some ⟨.fence sl (fld w 11 3) (fld w 9 2), 0x1fc1ff, false⟩
  | 0x31 => some ⟨.fencex sl (fld w 10 3) (fld w 7 3) (fld w 4 3), 0x1fe00f, false⟩
  | 0x32 => some ⟨.pbar sl, 0x1fffff, false⟩
  | 0x38 => some (if bit w 12 then ⟨.tloadRing sl (fld w 17 4) (fld w 13 4) (fld w 4 3) (fld w 3 1), 0xf87, false⟩
      else ⟨.tloadSlot sl (fld w 17 4) (fld w 13 4) (fld w 4 8) (fld w 3 1), 0x7, false⟩)
  | 0x39 => some ⟨.rpush sl (fld w 5 8) (fld w 2 3), 0x1fe003, false⟩
  | 0x3a => some (if bit w 12 then ⟨.tstoreDur sl (fld w 17 4) (fld w 13 4) (fld w 4 8) (fld w 3 1), 0x7, false⟩
      else ⟨.tstore sl (fld w 17 4) (fld w 13 4) (fld w 4 8) (fld w 3 1), 0x7, false⟩)
  | 0x3b => some ⟨.ttrn sl (fld w 17 4) (fld w 5 8), 0x1e01f, false⟩
  | 0x3c => some ⟨.tcvt sl (fld w 17 4) (fld w 5 8) (fld w 3 2), 0x1e007, false⟩
  | 0x3d => some ⟨.tzero sl (fld w 5 8), 0x1fe01f, false⟩
  | 0x3e => some ⟨.tfree sl (fld w 5 8), 0x1fe01f, false⟩
  | 0x3f => some ⟨.tgath sl (fld w 17 4) (fld w 13 4) (fld w 5 8) (fld w 3 2), 0x7, false⟩
  | 0x40 => some ⟨.wget sl (fld w 17 4) (fld w 13 4) (fld w 1 12), 0x1, false⟩
  | 0x41 => some ⟨.wput sl (fld w 17 4) (fld w 13 4) (fld w 1 12), 0x1, false⟩
  | 0x43 => some ⟨.wadd sl (fld w 17 4) (fld w 13 4) (fld w 1 12) (fld w 0 1), 0x0, false⟩
  | 0x48 => some ⟨.coll sl (fld w 17 4) (fld w 10 3), 0x1e3ff, false⟩
  | 0x50 => some ⟨.smap sl (fld w 17 4) (fld w 13 4) (fld w 5 8), 0x1f, false⟩
  | 0x51 => some ⟨.swb sl (fld w 17 4) (fld w 5 8), 0x1e01f, false⟩
  | 0x52 => some ⟨.sinv sl (fld w 17 4) (fld w 5 8) (fld w 4 1), 0x1e00f, false⟩
  | 0x54 => some ⟨.pref sl (fld w 17 4) (fld w 0 14), 0x1c000, false⟩
  | 0x58 => some ⟨.enq sl (fld w 17 4) (fld w 10 3) (fld w 4 6), 0x1e00f, false⟩
  | 0x59 => some ⟨.cancel sl (fld w 17 4) (fld w 10 3), 0x1e3ff, false⟩
  | 0x5a => some ⟨.cnt sl (fld w 17 4) (fld w 10 3) (fld w 7 3) (fld w 6 1), 0x1e03f, false⟩
  | 0x60 => some ⟨.cli sl (fld w 17 4) (fld w 13 4) (fld w 0 13), 0x0, false⟩
  | 0x61 => some ⟨.cadd sl (fld w 17 4) (fld w 13 4) (fld w 0 13), 0x0, false⟩
  | 0x62 => some ⟨.cget sl (fld w 17 4) (fld w 10 3) (fld w 4 6) (fld w 0 4), 0x1e000, false⟩
  | 0x63 => some ⟨.cstr sl (fld w 17 4) (fld w 10 3) (fld w 4 6), 0x1e00f, false⟩
  | _ => none

/-- The rows of class X by opcode (R66, R156, R163 to R169): the instruction, the bits its layout leaves zero, and whether only format
code b is accepted (R135). -/
def rowX (w : W32) : Option Row :=
  match (fld w 22 6).toNat with
  | 0x0 => some ⟨.xnop, 0x3fffff, false⟩
  | 0x1 => some ⟨.xget (fld w 18 4) (fld w 15 3) (fld w 9 6) (fld w 5 4), 0x1f, false⟩
  | 0x2 => some ⟨.xmov (fld w 18 4) (fld w 14 4) (fld w 10 4) (fld w 6 4), 0x3f, false⟩
  | 0x3 => some ⟨.xpack (fld w 18 4) (fld w 14 4) (fld w 10 4) (fld w 6 4) (fld w 2 4) (fld w 0 2), 0x0, false⟩
  | 0x4 => some ⟨.xunpk (fld w 18 4) (fld w 14 4) (fld w 10 4) (fld w 6 4) (fld w 2 4), 0x3, false⟩
  | 0x5 => some ⟨.xscal (fld w 18 4) (fld w 14 4) (fld w 10 4) (fld w 6 4) (fld w 2 4) (fld w 0 2), 0x0, false⟩
  | 0x6 => some ⟨.xmxs (fld w 18 4) (fld w 10 4) (fld w 6 4) (fld w 2 4), 0x3c003, false⟩
  | 0x7 => some ⟨.xshuf (fld w 18 4) (fld w 14 4) (fld w 10 4) (fld w 6 4), 0x3f, false⟩
  | 0x8 => some ⟨.xrot (fld w 18 4) (fld w 14 4) (fld w 10 4) (fld w 6 4), 0x3f, false⟩
  | 0x9 => some ⟨.xzip (fld w 18 4) (fld w 14 4) (fld w 10 4) (fld w 6 4), 0x3f, false⟩
  | 0xa => some ⟨.xuzp (fld w 18 4) (fld w 14 4) (fld w 10 4) (fld w 6 4), 0x3f, false⟩
  | 0x10 => some ⟨.xlsc (fld w 18 4) (fld w 14 4) (fld w 0 14), 0x0, false⟩
  | 0x11 => some ⟨.xssc (fld w 18 4) (fld w 14 4) (fld w 0 14), 0x0, false⟩
  | 0x18 => some ⟨.barInit (fld w 11 11) (fld w 8 3) (fld w 4 4), 0xf, false⟩
  | 0x19 => some ⟨.barArr (fld w 11 11) (fld w 8 3), 0xff, false⟩
  | 0x1a => some ⟨.barWait (fld w 11 11) (fld w 8 3), 0xff, false⟩
  | 0x1b => some ⟨.barTst (fld w 11 11) (fld w 8 3) (fld w 5 3), 0x1f, false⟩
  | 0x20 => some ⟨.spawn (fld w 19 3) (fld w 15 4) (fld w 11 4), 0x7ff, false⟩
  | 0x22 => some ⟨.yield, 0x3fffff, false⟩
  | _ => none

/-- The row of a bundle word by its class (R47); class 000 is the header and has no row. -/
def rowOf (w : W32) : Option Row :=
  match (fld w 28 3).toNat with
  | 1 => rowS w
  | 2 => rowV .v0 w
  | 3 => rowV .v1 w
  | 4 => rowM w
  | 5 => rowC .c0 w
  | 6 => rowC .c1 w
  | 7 => rowX w
  | _ => none

/-- The lower of two reason numbers, where each may be absent: "the lowest reason number is reported" (R54). -/
def lowest (a b : Option Nat) : Option Nat :=
  match a, b with
  | none, b => b
  | a, none => a
  | some x, some y => some (min x y)

/-- The failing reason of a format field that must hold code b: code 15 is reason 3 (R58), any other reason 5 (R53). -/
def fmtBReason (fmtB : Bool) (w : W32) : Option Nat :=
  if fmtB = false ∨ fld w 17 4 = 14#4 then none
  else if fld w 17 4 = 15#4 then some 3 else some 5

/-- THE DECODER of one bundle word: the instruction its class, opcode and zero bits name, or the reason number of R53
(1 unknown opcode, 2 a nonzero reserved or unused bit, 3 or 5 a format field that must be b). Its field values are
judged by `Instr.illegal` (WellFormed). -/
def decode (w : W32) : Except Nat Instr :=
  match rowOf w with
  | none => .error 1
  | some r =>
    if w.toNat &&& r.zeros ≠ 0 then .error 2
    else match fmtBReason r.fmtB w with
      | some k => .error k
      | none => .ok r.instr

/-- The fate of one bundle word at decode (R53, R54): the well-formed instruction, or the lowest failing reason. -/
def judgeWord (w : W32) : Except Nat Instr :=
  match rowOf w with
  | none => .error 1
  | some r =>
    match lowest (if w.toNat &&& r.zeros ≠ 0 then some 2 else none) (lowest (fmtBReason r.fmtB w) r.instr.illegal) with
    | some k => .error k
    | none => .ok r.instr

/-- The rows of the microword mop map (R62, R225). -/
def rowMicro (w : W64) : Option Row :=
  match (fld w 58 6).toNat with
  | 0x0 => some ⟨.microwordMnop, 0x3ffffffffffffff, false⟩
  | 0x1 => some ⟨.mldw (fld w 49 9) (fld w 48 1) (fld w 40 8), 0xffffffffff, false⟩
  | 0x2 => some ⟨.mswp, 0x3ffffffffffffff, false⟩
  | 0x3 => some ⟨.mstrm (fld w 49 9) (fld w 46 3) (fld w 42 4) (fld w 41 1), 0x1ffffffffff, false⟩
  | 0x4 => some ⟨.mmv (fld w 50 8) (fld w 47 3) (fld w 44 3) (fld w 36 8) (fld w 32 4) (fld w 28 4) (fld w 27 1), 0x7ffffff, false⟩
  | 0x5 => some ⟨.mdrn (fld w 54 4) (fld w 45 9) (fld w 43 2) (fld w 42 1), 0x3ffffffffff, false⟩
  | 0x6 => some ⟨.mclr (fld w 54 4) (fld w 50 4), 0x3ffffffffffff, false⟩
  | 0x7 => some ⟨.mloop (fld w 55 3) (fld w 54 1) (fld w 38 16), 0x3fffffffff, false⟩
  | 0x8 => some ⟨.mend, 0x3ffffffffffffff, false⟩
  | 0x9 => some ⟨.mpop (fld w 49 9) (fld w 45 4), 0x1fffffffffff, false⟩
  | 0xa => some ⟨.mbud (fld w 55 3), 0x7fffffffffffff, false⟩
  | 0xb => some ⟨.mchk (fld w 57 1), 0x1ffffffffffffff, false⟩
  | 0xc => some ⟨.mret, 0x3ffffffffffffff, false⟩
  | 0xd => some ⟨.mwt, 0x3ffffffffffffff, false⟩
  | 0xe => some ⟨.mlad (fld w 56 2) (fld w 54 2) (fld w 53 1) (fld w 52 1), 0xfffffffffffff, false⟩
  | _ => none

/-- The decoder of a microword: `none` for an unassigned mop or a nonzero zero bit, which stop the call with reason 0x10
(R62, R223). -/
def decodeMicro (w : W64) : Option Instr :=
  match rowMicro w with
  | none => none
  | some r => if w.toNat &&& r.zeros ≠ 0 then none else some r.instr

/-- Header fields (R51). -/
def hdrForm (h : W32) : BitVec 2 := fld h 26 2
/-- Pop mask (R51). -/
def hdrPop (h : W32) : BitVec 8 := fld h 18 8
/-- Profile slot (R51). -/
def hdrProf (h : W32) : BitVec 4 := fld h 14 4
/-- F flag (R51). -/
def hdrF (h : W32) : Bool := bit h 13
/-- L flag (R51). -/
def hdrL (h : W32) : Bool := bit h 12
/-- Loop level of F and L (R51). -/
def hdrLevel (h : W32) : BitVec 3 := fld h 9 3
/-- Stamp or cut number (R51). -/
def hdrStamp (h : W32) : BitVec 9 := fld h 0 9

/-- The fate of a header word (R51 to R53): the lowest failing reason, where `stamped` says that the context runs on
issue stamps. -/
def judgeHeader (stamped : Bool) (h : W32) : Option Nat :=
  if (hdrF h = false ∧ hdrL h = false ∧ hdrLevel h ≠ 0) ∨ (hdrForm h = 0 ∧ hdrStamp h ≠ 0) then some 2
  else if hdrForm h = 3 ∨ hdrLevel h = 6 ∨ hdrLevel h = 7 then some 3
  else if hdrForm h = 1 ∧ stamped = false then some 6
  else none

/-- TVAL of a decode ILLEGAL_OP (R54). -/
def decodeTval (reason index : Nat) (cls : BitVec 3) : W64 :=
  BitVec.ofNat 64 (0x8000 + reason % 16 * 2048 + index % 8 * 8 + cls.toNat)

/-- The decode fate of a whole bundle: its header is word 0; the lowest failing word reports (R53, R54). -/
def judgeWords (i : Nat) : List W32 → Except W64 (List Instr)
  | [] => .ok []
  | w :: ws =>
    match judgeWord w with
    | .error r => .error (decodeTval r i (fld w 28 3))
    | .ok x =>
      match judgeWords (i + 1) ws with
      | .error e => .error e
      | .ok xs => .ok (x :: xs)

/-- The decode fate of a framed bundle: its slot instructions in class order, or TVAL of the ILLEGAL_OP (R53, R54). -/
def judgeBundle (stamped : Bool) : List W32 → Except W64 (List Instr)
  | [] => .ok []
  | h :: ws =>
    match judgeHeader stamped h with
    | some r => .error (decodeTval r 0 0)
    | none => judgeWords 1 ws

/-- What framing makes of the words fetched so far (R48): the bundle's words, or the reason and the word index of
ILLEGAL_BUNDLE (R49). `fetch n` is word `n`, or a fetch fault `ε` that is raised only when it is needed (R50). -/
inductive Framed (ε : Type) where
  | bundle (ws : List W32)
  | bad (reason index : Nat)
  | fault (e : ε)
  deriving DecidableEq, Repr

/-- Framing from word `n` on, with the class of word `n − 1`; `fuel` is at least the words that may follow (R48). -/
def frameFrom {ε : Type} (fetch : Nat → Except ε W32) : (fuel n : Nat) → (prev : W32) → List W32 → Framed ε
  | 0, n, _, _ => .bad 4 (n - 1)
  | fuel + 1, n, prev, acc =>
    if bit prev 31 then (if n < 4 then .bad 2 (n - 1) else .bundle acc)
    else if n = 8 then .bad 4 7
    else match fetch n with
      | .error e => .fault e
      | .ok w =>
        if (fld w 28 3).toNat ≤ (fld prev 28 3).toNat then .bad 3 n
        else frameFrom fetch fuel (n + 1) w (acc ++ [w])

/-- Framing of the bundle whose word `n` is `fetch n` (R48). -/
def frameBundle {ε : Type} (fetch : Nat → Except ε W32) : Framed ε :=
  match fetch 0 with
  | .error e => .fault e
  | .ok h => if fld h 28 3 ≠ 0 then .bad 1 0 else frameFrom fetch 8 1 h [h]

/-- TVAL of an ILLEGAL_BUNDLE (R49). -/
def frameTval (reason index : Nat) : W64 := BitVec.ofNat 64 (reason % 16 * 16 + index % 16)

end Sys2Proof.Machine

namespace Sys2Proof
open Sys2Proof.Machine

/-- The class code of a vector slot, less the bits all V rows share (R47). -/
def VSlot.code : VSlot → Nat
  | .v0 => 2
  | .v1 => 3

/-- The class code of a copy slot (R47). -/
def CSlot.code : CSlot → Nat
  | .c0 => 5
  | .c1 => 6

/-- THE ENCODER of a slot instruction, from the layouts of R55 to R66, R148, R154, R156, R163, R164, R169, R189 and R210:
its word without the stop bit; `none` for a microword or a machine event. -/
def encodeWord : Instr → Option W32
  | .nop => some (BitVec.ofNat 32 (0x10000000))
  | .add d a b w => some (BitVec.ofNat 32 (0x10100000 + d.toNat * 16384 + a.toNat * 256 + b.toNat * 4 + w.toNat))
  | .sub d a b w => some (BitVec.ofNat 32 (0x10200000 + d.toNat * 16384 + a.toNat * 256 + b.toNat * 4 + w.toNat))
  | .and d a b w => some (BitVec.ofNat 32 (0x10300000 + d.toNat * 16384 + a.toNat * 256 + b.toNat * 4 + w.toNat))
  | .or d a b w => some (BitVec.ofNat 32 (0x10400000 + d.toNat * 16384 + a.toNat * 256 + b.toNat * 4 + w.toNat))
  | .xor d a b w => some (BitVec.ofNat 32 (0x10500000 + d.toNat * 16384 + a.toNat * 256 + b.toNat * 4 + w.toNat))
  | .andn d a b w => some (BitVec.ofNat 32 (0x10600000 + d.toNat * 16384 + a.toNat * 256 + b.toNat * 4 + w.toNat))
  | .shl d a b w => some (BitVec.ofNat 32 (0x10700000 + d.toNat * 16384 + a.toNat * 256 + b.toNat * 4 + w.toNat))
  | .shr d a b w => some (BitVec.ofNat 32 (0x10800000 + d.toNat * 16384 + a.toNat * 256 + b.toNat * 4 + w.toNat))
  | .sra d a b w => some (BitVec.ofNat 32 (0x10900000 + d.toNat * 16384 + a.toNat * 256 + b.toNat * 4 + w.toNat))
  | .rol d a b w => some (BitVec.ofNat 32 (0x10a00000 + d.toNat * 16384 + a.toNat * 256 + b.toNat * 4 + w.toNat))
  | .mul d a b w => some (BitVec.ofNat 32 (0x10b00000 + d.toNat * 16384 + a.toNat * 256 + b.toNat * 4 + w.toNat))
  | .mulh d a b w => some (BitVec.ofNat 32 (0x10c00000 + d.toNat * 16384 + a.toNat * 256 + b.toNat * 4 + w.toNat))
  | .mulhn d a b w => some (BitVec.ofNat 32 (0x10d00000 + d.toNat * 16384 + a.toNat * 256 + b.toNat * 4 + w.toNat))
  | .div d a b w => some (BitVec.ofNat 32 (0x10e00000 + d.toNat * 16384 + a.toNat * 256 + b.toNat * 4 + w.toNat))
  | .divn d a b w => some (BitVec.ofNat 32 (0x10f00000 + d.toNat * 16384 + a.toNat * 256 + b.toNat * 4 + w.toNat))
  | .rem d a b w => some (BitVec.ofNat 32 (0x11000000 + d.toNat * 16384 + a.toNat * 256 + b.toNat * 4 + w.toNat))
  | .remn d a b w => some (BitVec.ofNat 32 (0x11100000 + d.toNat * 16384 + a.toNat * 256 + b.toNat * 4 + w.toNat))
  | .min d a b w => some (BitVec.ofNat 32 (0x11200000 + d.toNat * 16384 + a.toNat * 256 + b.toNat * 4 + w.toNat))
  | .max d a b w => some (BitVec.ofNat 32 (0x11300000 + d.toNat * 16384 + a.toNat * 256 + b.toNat * 4 + w.toNat))
  | .minn d a b w => some (BitVec.ofNat 32 (0x11400000 + d.toNat * 16384 + a.toNat * 256 + b.toNat * 4 + w.toNat))
  | .maxn d a b w => some (BitVec.ofNat 32 (0x11500000 + d.toNat * 16384 + a.toNat * 256 + b.toNat * 4 + w.toNat))
  | .clz d a w => some (BitVec.ofNat 32 (0x11600000 + d.toNat * 16384 + a.toNat * 256 + w.toNat))
  | .popc d a w => some (BitVec.ofNat 32 (0x11700000 + d.toNat * 16384 + a.toNat * 256 + w.toNat))
  | .ctz d a w => some (BitVec.ofNat 32 (0x11800000 + d.toNat * 16384 + a.toNat * 256 + w.toNat))
  | .cmov d a b w => some (BitVec.ofNat 32 (0x11900000 + d.toNat * 16384 + a.toNat * 256 + b.toNat * 4 + w.toNat))
  | .ceq d a b w => some (BitVec.ofNat 32 (0x12000000 + d.toNat * 16384 + a.toNat * 256 + b.toNat * 4 + w.toNat))
  | .cne d a b w => some (BitVec.ofNat 32 (0x12100000 + d.toNat * 16384 + a.toNat * 256 + b.toNat * 4 + w.toNat))
  | .clt d a b w => some (BitVec.ofNat 32 (0x12200000 + d.toNat * 16384 + a.toNat * 256 + b.toNat * 4 + w.toNat))
  | .cle d a b w => some (BitVec.ofNat 32 (0x12300000 + d.toNat * 16384 + a.toNat * 256 + b.toNat * 4 + w.toNat))
  | .cltn d a b w => some (BitVec.ofNat 32 (0x12400000 + d.toNat * 16384 + a.toNat * 256 + b.toNat * 4 + w.toNat))
  | .clen d a b w => some (BitVec.ofNat 32 (0x12500000 + d.toNat * 16384 + a.toNat * 256 + b.toNat * 4 + w.toNat))
  | .addi d a imm => some (BitVec.ofNat 32 (0x13000000 + d.toNat * 16384 + a.toNat * 256 + imm.toNat))
  | .andi d a imm => some (BitVec.ofNat 32 (0x13100000 + d.toNat * 16384 + a.toNat * 256 + imm.toNat))
  | .ori d a imm => some (BitVec.ofNat 32 (0x13200000 + d.toNat * 16384 + a.toNat * 256 + imm.toNat))
  | .xori d a imm => some (BitVec.ofNat 32 (0x13300000 + d.toNat * 16384 + a.toNat * 256 + imm.toNat))
  | .shli d a imm => some (BitVec.ofNat 32 (0x13400000 + d.toNat * 16384 + a.toNat * 256 + imm.toNat))
  | .shri d a imm => some (BitVec.ofNat 32 (0x13500000 + d.toNat * 16384 + a.toNat * 256 + imm.toNat))
  | .srai d a imm => some (BitVec.ofNat 32 (0x13600000 + d.toNat * 16384 + a.toNat * 256 + imm.toNat))
  | .ceqi d a imm => some (BitVec.ofNat 32 (0x13700000 + d.toNat * 16384 + a.toNat * 256 + imm.toNat))
  | .clti d a imm => some (BitVec.ofNat 32 (0x13800000 + d.toNat * 16384 + a.toNat * 256 + imm.toNat))
  | .cltni d a imm => some (BitVec.ofNat 32 (0x13900000 + d.toNat * 16384 + a.toNat * 256 + imm.toNat))
  | .li d imm => some (BitVec.ofNat 32 (0x13a00000 + d.toNat * 16384 + imm.toNat))
  | .lis d imm => some (BitVec.ofNat 32 (0x13b00000 + d.toNat * 16384 + imm.toNat))
  | .get d file idx lane => some (BitVec.ofNat 32 (0x14000000 + d.toNat * 16384 + file.toNat * 2048 + idx.toNat * 64 + lane.toNat))
  | .push w a => some (BitVec.ofNat 32 (0x14100000 + w.toNat * 262144 + a.toNat * 256))
  | .bz a hint disp => some (BitVec.ofNat 32 (0x15000000 + a.toNat * 16384 + hint.toNat * 8192 + disp.toNat))
  | .bnz a hint disp => some (BitVec.ofNat 32 (0x15100000 + a.toNat * 16384 + hint.toNat * 8192 + disp.toNat))
  | .blz a hint disp => some (BitVec.ofNat 32 (0x15200000 + a.toNat * 16384 + hint.toNat * 8192 + disp.toNat))
  | .bgez a hint disp => some (BitVec.ofNat 32 (0x15300000 + a.toNat * 16384 + hint.toNat * 8192 + disp.toNat))
  | .br hint disp => some (BitVec.ofNat 32 (0x15400000 + hint.toNat * 8192 + disp.toNat))
  | .call hint disp => some (BitVec.ofNat 32 (0x15500000 + hint.toNat * 8192 + disp.toNat))
  | .jr a => some (BitVec.ofNat 32 (0x15600000 + a.toNat * 256))
  | .jlr a => some (BitVec.ofNat 32 (0x15700000 + a.toNat * 256))
  | .loop level a body => some (BitVec.ofNat 32 (0x15800000 + level.toNat * 131072 + a.toNat * 2048 + body.toNat))
  | .lexit level => some (BitVec.ofNat 32 (0x15900000 + level.toNat * 131072))
  | .wait ld st cp tl => some (BitVec.ofNat 32 (0x16000000 + ld.toNat * 32768 + st.toNat * 1024 + cp.toNat * 32 + tl.toNat))
  | .frame => some (BitVec.ofNat 32 (0x16100000))
  | .mfs d reg => some (BitVec.ofNat 32 (0x16200000 + d.toNat * 16384 + reg.toNat))
  | .mts a reg => some (BitVec.ofNat 32 (0x16300000 + a.toNat * 16384 + reg.toNat))
  | .spill id a => some (BitVec.ofNat 32 (0x16400000 + id.toNat * 4096 + a.toNat * 64))
  | .fill d id => some (BitVec.ofNat 32 (0x16500000 + d.toNat * 16384 + id.toNat * 64))
  | .trap code => some (BitVec.ofNat 32 (0x17000000 + code.toNat))
  | .tret => some (BitVec.ofNat 32 (0x17100000))
  | .exit => some (BitVec.ofNat 32 (0x17200000))
  | .brk code => some (BitVec.ofNat 32 (0x17300000 + code.toNat))
  | .fwcall service => some (BitVec.ofNat 32 (0x17400000 + service.toNat))
  | .idle => some (BitVec.ofNat 32 (0x17500000))
  | .vnop sl => some (BitVec.ofNat 32 (0x0 + sl.code * 0x10000000))
  | .vadd sl fmt d a b k => some (BitVec.ofNat 32 (0x200000 + sl.code * 0x10000000 + fmt.toNat * 131072 + d.toNat * 4096 + a.toNat * 128 + b.toNat * 4 + k.toNat))
  | .vsub sl fmt d a b k => some (BitVec.ofNat 32 (0x400000 + sl.code * 0x10000000 + fmt.toNat * 131072 + d.toNat * 4096 + a.toNat * 128 + b.toNat * 4 + k.toNat))
  | .vmul sl fmt d a b k => some (BitVec.ofNat 32 (0x600000 + sl.code * 0x10000000 + fmt.toNat * 131072 + d.toNat * 4096 + a.toNat * 128 + b.toNat * 4 + k.toNat))
  | .vfma sl fmt d a b k => some (BitVec.ofNat 32 (0x800000 + sl.code * 0x10000000 + fmt.toNat * 131072 + d.toNat * 4096 + a.toNat * 128 + b.toNat * 4 + k.toNat))
  | .vfms sl fmt d a b k => some (BitVec.ofNat 32 (0xa00000 + sl.code * 0x10000000 + fmt.toNat * 131072 + d.toNat * 4096 + a.toNat * 128 + b.toNat * 4 + k.toNat))
  | .vmin sl fmt d a b k => some (BitVec.ofNat 32 (0xc00000 + sl.code * 0x10000000 + fmt.toNat * 131072 + d.toNat * 4096 + a.toNat * 128 + b.toNat * 4 + k.toNat))
  | .vmax sl fmt d a b k => some (BitVec.ofNat 32 (0xe00000 + sl.code * 0x10000000 + fmt.toNat * 131072 + d.toNat * 4096 + a.toNat * 128 + b.toNat * 4 + k.toNat))
  | .vabs sl fmt d a k => some (BitVec.ofNat 32 (0x1000000 + sl.code * 0x10000000 + fmt.toNat * 131072 + d.toNat * 4096 + a.toNat * 128 + k.toNat))
  | .vneg sl fmt d a k => some (BitVec.ofNat 32 (0x1200000 + sl.code * 0x10000000 + fmt.toNat * 131072 + d.toNat * 4096 + a.toNat * 128 + k.toNat))
  | .vtsum sl fmt d a b k => some (BitVec.ofNat 32 (0x1400000 + sl.code * 0x10000000 + fmt.toNat * 131072 + d.toNat * 4096 + a.toNat * 128 + b.toNat * 4 + k.toNat))
  | .vadds sl fmt d a b k => some (BitVec.ofNat 32 (0x1600000 + sl.code * 0x10000000 + fmt.toNat * 131072 + d.toNat * 4096 + a.toNat * 128 + b.toNat * 4 + k.toNat))
  | .vsubs sl fmt d a b k => some (BitVec.ofNat 32 (0x1800000 + sl.code * 0x10000000 + fmt.toNat * 131072 + d.toNat * 4096 + a.toNat * 128 + b.toNat * 4 + k.toNat))
  | .vrcp sl fmt d a k => some (BitVec.ofNat 32 (0x2000000 + sl.code * 0x10000000 + fmt.toNat * 131072 + d.toNat * 4096 + a.toNat * 128 + k.toNat))
  | .vrsq sl fmt d a k => some (BitVec.ofNat 32 (0x2200000 + sl.code * 0x10000000 + fmt.toNat * 131072 + d.toNat * 4096 + a.toNat * 128 + k.toNat))
  | .vexp2 sl fmt d a k => some (BitVec.ofNat 32 (0x2400000 + sl.code * 0x10000000 + fmt.toNat * 131072 + d.toNat * 4096 + a.toNat * 128 + k.toNat))
  | .vlog2 sl fmt d a k => some (BitVec.ofNat 32 (0x2600000 + sl.code * 0x10000000 + fmt.toNat * 131072 + d.toNat * 4096 + a.toNat * 128 + k.toNat))
  | .vsqrt sl fmt d a k => some (BitVec.ofNat 32 (0x2800000 + sl.code * 0x10000000 + fmt.toNat * 131072 + d.toNat * 4096 + a.toNat * 128 + k.toNat))
  | .vflr sl fmt d a k => some (BitVec.ofNat 32 (0x2a00000 + sl.code * 0x10000000 + fmt.toNat * 131072 + d.toNat * 4096 + a.toNat * 128 + k.toNat))
  | .vand sl d a b k => some (BitVec.ofNat 32 (0x31c0000 + sl.code * 0x10000000 + d.toNat * 4096 + a.toNat * 128 + b.toNat * 4 + k.toNat))
  | .vor sl d a b k => some (BitVec.ofNat 32 (0x33c0000 + sl.code * 0x10000000 + d.toNat * 4096 + a.toNat * 128 + b.toNat * 4 + k.toNat))
  | .vxor sl d a b k => some (BitVec.ofNat 32 (0x35c0000 + sl.code * 0x10000000 + d.toNat * 4096 + a.toNat * 128 + b.toNat * 4 + k.toNat))
  | .vnot sl d a k => some (BitVec.ofNat 32 (0x37c0000 + sl.code * 0x10000000 + d.toNat * 4096 + a.toNat * 128 + k.toNat))
  | .vshl sl fmt d a b k => some (BitVec.ofNat 32 (0x3800000 + sl.code * 0x10000000 + fmt.toNat * 131072 + d.toNat * 4096 + a.toNat * 128 + b.toNat * 4 + k.toNat))
  | .vshr sl fmt d a b k => some (BitVec.ofNat 32 (0x3a00000 + sl.code * 0x10000000 + fmt.toNat * 131072 + d.toNat * 4096 + a.toNat * 128 + b.toNat * 4 + k.toNat))
  | .vsra sl fmt d a b k => some (BitVec.ofNat 32 (0x3c00000 + sl.code * 0x10000000 + fmt.toNat * 131072 + d.toNat * 4096 + a.toNat * 128 + b.toNat * 4 + k.toNat))
  | .vaddi sl fmt d a imm => some (BitVec.ofNat 32 (0x4000000 + sl.code * 0x10000000 + fmt.toNat * 131072 + d.toNat * 4096 + a.toNat * 128 + imm.toNat))
  | .vshli sl fmt d a imm => some (BitVec.ofNat 32 (0x4200000 + sl.code * 0x10000000 + fmt.toNat * 131072 + d.toNat * 4096 + a.toNat * 128 + imm.toNat))
  | .vshri sl fmt d a imm => some (BitVec.ofNat 32 (0x4400000 + sl.code * 0x10000000 + fmt.toNat * 131072 + d.toNat * 4096 + a.toNat * 128 + imm.toNat))
  | .vsplat sl fmt d a imm => some (BitVec.ofNat 32 (0x4600000 + sl.code * 0x10000000 + fmt.toNat * 131072 + d.toNat * 4096 + a.toNat * 128 + imm.toNat))
  | .vceq sl fmt d a b k => some (BitVec.ofNat 32 (0x5000000 + sl.code * 0x10000000 + fmt.toNat * 131072 + d.toNat * 4096 + a.toNat * 128 + b.toNat * 4 + k.toNat))
  | .vcne sl fmt d a b k => some (BitVec.ofNat 32 (0x5200000 + sl.code * 0x10000000 + fmt.toNat * 131072 + d.toNat * 4096 + a.toNat * 128 + b.toNat * 4 + k.toNat))
  | .vclt sl fmt d a b k => some (BitVec.ofNat 32 (0x5400000 + sl.code * 0x10000000 + fmt.toNat * 131072 + d.toNat * 4096 + a.toNat * 128 + b.toNat * 4 + k.toNat))
  | .vcle sl fmt d a b k => some (BitVec.ofNat 32 (0x5600000 + sl.code * 0x10000000 + fmt.toNat * 131072 + d.toNat * 4096 + a.toNat * 128 + b.toNat * 4 + k.toNat))
  | .vcun sl fmt d a b k => some (BitVec.ofNat 32 (0x5800000 + sl.code * 0x10000000 + fmt.toNat * 131072 + d.toNat * 4096 + a.toNat * 128 + b.toNat * 4 + k.toNat))
  | .kand sl d a b => some (BitVec.ofNat 32 (0x61c0000 + sl.code * 0x10000000 + d.toNat * 4096 + a.toNat * 128 + b.toNat * 4))
  | .kor sl d a b => some (BitVec.ofNat 32 (0x63c0000 + sl.code * 0x10000000 + d.toNat * 4096 + a.toNat * 128 + b.toNat * 4))
  | .kxor sl d a b => some (BitVec.ofNat 32 (0x65c0000 + sl.code * 0x10000000 + d.toNat * 4096 + a.toNat * 128 + b.toNat * 4))
  | .knot sl d a => some (BitVec.ofNat 32 (0x67c0000 + sl.code * 0x10000000 + d.toNat * 4096 + a.toNat * 128))
  | .vsel sl d a b k => some (BitVec.ofNat 32 (0x71c0000 + sl.code * 0x10000000 + d.toNat * 4096 + a.toNat * 128 + b.toNat * 4 + k.toNat))
  | .vmov sl d a k => some (BitVec.ofNat 32 (0x73c0000 + sl.code * 0x10000000 + d.toNat * 4096 + a.toNat * 128 + k.toNat))
  | .vget sl d file idx lane => some (BitVec.ofNat 32 (0x7400000 + sl.code * 0x10000000 + d.toNat * 65536 + file.toNat * 8192 + idx.toNat * 128 + lane.toNat * 4))
  | .viota sl fmt d k => some (BitVec.ofNat 32 (0x7600000 + sl.code * 0x10000000 + fmt.toNat * 131072 + d.toNat * 4096 + k.toNat))
  | .vlane sl fmt d a b k => some (BitVec.ofNat 32 (0x7800000 + sl.code * 0x10000000 + fmt.toNat * 131072 + d.toNat * 4096 + a.toNat * 128 + b.toNat * 4 + k.toNat))
  | .vradd sl fmt d a k => some (BitVec.ofNat 32 (0x8000000 + sl.code * 0x10000000 + fmt.toNat * 131072 + d.toNat * 4096 + a.toNat * 128 + k.toNat))
  | .vrmax sl fmt d a k => some (BitVec.ofNat 32 (0x8200000 + sl.code * 0x10000000 + fmt.toNat * 131072 + d.toNat * 4096 + a.toNat * 128 + k.toNat))
  | .vrmin sl fmt d a k => some (BitVec.ofNat 32 (0x8400000 + sl.code * 0x10000000 + fmt.toNat * 131072 + d.toNat * 4096 + a.toNat * 128 + k.toNat))
  | .vrarg sl fmt d a k => some (BitVec.ofNat 32 (0x8600000 + sl.code * 0x10000000 + fmt.toNat * 131072 + d.toNat * 4096 + a.toNat * 128 + k.toNat))
  | .vcvt sl fd d a fs rnd sat => some (BitVec.ofNat 32 (0x9000000 + sl.code * 0x10000000 + fd.toNat * 131072 + d.toNat * 4096 + a.toNat * 128 + fs.toNat * 8 + rnd.toNat * 2 + sat.toNat))
  | .vdefer sl cnt a b k => some (BitVec.ofNat 32 (0xa1c0000 + sl.code * 0x10000000 + cnt.toNat * 4096 + a.toNat * 128 + b.toNat * 4 + k.toNat))
  | .vdrain sl d o km => some (BitVec.ofNat 32 (0xa3c0000 + sl.code * 0x10000000 + d.toNat * 4096 + o.toNat * 128 + km.toNat))
  | .vpush sl w a => some (BitVec.ofNat 32 (0xb000000 + sl.code * 0x10000000 + w.toNat * 524288 + a.toNat * 128))
  | .vspill sl id a => some (BitVec.ofNat 32 (0xb800000 + sl.code * 0x10000000 + id.toNat * 8192 + a.toNat * 128))
  | .vfill sl d id => some (BitVec.ofNat 32 (0xba00000 + sl.code * 0x10000000 + d.toNat * 65536 + id.toNat * 256))
  | .mnop => some (BitVec.ofNat 32 (0x40000000))
  | .mcall routine nocorr limc e5 ceil start => some (BitVec.ofNat 32 (0x40400000 + routine.toNat * 4096 + nocorr.toNat * 64 + limc.toNat * 32 + e5.toNat * 16 + ceil.toNat * 4 + start.toNat))
  | .mset p imm => some (BitVec.ofNat 32 (0x40800000 + p.toNat * 524288 + imm.toNat))
  | .mseth => some (BitVec.ofNat 32 (0x40c00000))
  | .mget p a => some (BitVec.ofNat 32 (0x41000000 + p.toNat * 524288 + a.toNat * 8192))
  | .mabort => some (BitVec.ofNat 32 (0x41400000))
  | .cnop sl => some (BitVec.ofNat 32 (0x0 + sl.code * 0x10000000))
  | .ldi8 sl base q disp => some (BitVec.ofNat 32 (0x200000 + sl.code * 0x10000000 + base.toNat * 131072 + q.toNat * 16384 + disp.toNat))
  | .ldn8 sl base q disp => some (BitVec.ofNat 32 (0x400000 + sl.code * 0x10000000 + base.toNat * 131072 + q.toNat * 16384 + disp.toNat))
  | .ldi16 sl base q disp => some (BitVec.ofNat 32 (0x600000 + sl.code * 0x10000000 + base.toNat * 131072 + q.toNat * 16384 + disp.toNat))
  | .ldn16 sl base q disp => some (BitVec.ofNat 32 (0x800000 + sl.code * 0x10000000 + base.toNat * 131072 + q.toNat * 16384 + disp.toNat))
  | .ldi32 sl base q disp => some (BitVec.ofNat 32 (0xa00000 + sl.code * 0x10000000 + base.toNat * 131072 + q.toNat * 16384 + disp.toNat))
  | .ldn32 sl base q disp => some (BitVec.ofNat 32 (0xc00000 + sl.code * 0x10000000 + base.toNat * 131072 + q.toNat * 16384 + disp.toNat))
  | .ld64 sl base q disp => some (BitVec.ofNat 32 (0xe00000 + sl.code * 0x10000000 + base.toNat * 131072 + q.toNat * 16384 + disp.toNat))
  | .vld sl base q disp => some (BitVec.ofNat 32 (0x1000000 + sl.code * 0x10000000 + base.toNat * 131072 + q.toNat * 16384 + disp.toNat))
  | .vldg sl base q w sc => some (BitVec.ofNat 32 (0x1200000 + sl.code * 0x10000000 + base.toNat * 131072 + q.toNat * 1024 + w.toNat * 256 + sc.toNat * 64))
  | .vlds sl base a q => some (BitVec.ofNat 32 (0x1400000 + sl.code * 0x10000000 + base.toNat * 131072 + a.toNat * 8192 + q.toNat * 1024))
  | .st8 sl base w disp => some (BitVec.ofNat 32 (0x2000000 + sl.code * 0x10000000 + base.toNat * 131072 + w.toNat * 16384 + disp.toNat))
  | .st16 sl base w disp => some (BitVec.ofNat 32 (0x2200000 + sl.code * 0x10000000 + base.toNat * 131072 + w.toNat * 16384 + disp.toNat))
  | .st32 sl base w disp => some (BitVec.ofNat 32 (0x2400000 + sl.code * 0x10000000 + base.toNat * 131072 + w.toNat * 16384 + disp.toNat))
  | .st64 sl base w disp => some (BitVec.ofNat 32 (0x2600000 + sl.code * 0x10000000 + base.toNat * 131072 + w.toNat * 16384 + disp.toNat))
  | .vst sl base w disp => some (BitVec.ofNat 32 (0x2800000 + sl.code * 0x10000000 + base.toNat * 131072 + w.toNat * 16384 + disp.toNat))
  | .vsts sl base a w => some (BitVec.ofNat 32 (0x2a00000 + sl.code * 0x10000000 + base.toNat * 131072 + a.toNat * 8192 + w.toNat * 2048))
  | .vstm sl base wd wi sc => some (BitVec.ofNat 32 (0x2c00000 + sl.code * 0x10000000 + base.toNat * 131072 + wd.toNat * 2048 + wi.toNat * 512 + sc.toNat * 128))
  | .aadd sl base q scope order disp => some (BitVec.ofNat 32 (0x4000000 + sl.code * 0x10000000 + base.toNat * 131072 + q.toNat * 16384 + scope.toNat * 2048 + order.toNat * 512 + disp.toNat))
  | .amin sl base q scope order disp => some (BitVec.ofNat 32 (0x4200000 + sl.code * 0x10000000 + base.toNat * 131072 + q.toNat * 16384 + scope.toNat * 2048 + order.toNat * 512 + disp.toNat))
  | .amax sl base q scope order disp => some (BitVec.ofNat 32 (0x4400000 + sl.code * 0x10000000 + base.toNat * 131072 + q.toNat * 16384 + scope.toNat * 2048 + order.toNat * 512 + disp.toNat))
  | .aand sl base q scope order disp => some (BitVec.ofNat 32 (0x4600000 + sl.code * 0x10000000 + base.toNat * 131072 + q.toNat * 16384 + scope.toNat * 2048 + order.toNat * 512 + disp.toNat))
  | .aor sl base q scope order disp => some (BitVec.ofNat 32 (0x4800000 + sl.code * 0x10000000 + base.toNat * 131072 + q.toNat * 16384 + scope.toNat * 2048 + order.toNat * 512 + disp.toNat))
  | .axch sl base q scope order disp => some (BitVec.ofNat 32 (0x4a00000 + sl.code * 0x10000000 + base.toNat * 131072 + q.toNat * 16384 + scope.toNat * 2048 + order.toNat * 512 + disp.toNat))
  | .acas sl base q scope order disp => some (BitVec.ofNat 32 (0x4c00000 + sl.code * 0x10000000 + base.toNat * 131072 + q.toNat * 16384 + scope.toNat * 2048 + order.toNat * 512 + disp.toNat))
  | .afadd sl base q scope order disp => some (BitVec.ofNat 32 (0x4e00000 + sl.code * 0x10000000 + base.toNat * 131072 + q.toNat * 16384 + scope.toNat * 2048 + order.toNat * 512 + disp.toNat))
  | .aminn sl base q scope order disp => some (BitVec.ofNat 32 (0x5000000 + sl.code * 0x10000000 + base.toNat * 131072 + q.toNat * 16384 + scope.toNat * 2048 + order.toNat * 512 + disp.toNat))
  | .amaxn sl base q scope order disp => some (BitVec.ofNat 32 (0x5200000 + sl.code * 0x10000000 + base.toNat * 131072 + q.toNat * 16384 + scope.toNat * 2048 + order.toNat * 512 + disp.toNat))
  | .fence sl scope order => some (BitVec.ofNat 32 (0x6000000 + sl.code * 0x10000000 + scope.toNat * 2048 + order.toNat * 512))
  | .fencex sl from_ to_ scope => some (BitVec.ofNat 32 (0x6200000 + sl.code * 0x10000000 + from_.toNat * 1024 + to_.toNat * 128 + scope.toNat * 16))
  | .pbar sl => some (BitVec.ofNat 32 (0x6400000 + sl.code * 0x10000000))
  | .tloadSlot sl base a slot pitched => some (BitVec.ofNat 32 (0x7000000 + sl.code * 0x10000000 + base.toNat * 131072 + a.toNat * 8192 + slot.toNat * 16 + pitched.toNat * 8))
  | .tloadRing sl base a ring pitched => some (BitVec.ofNat 32 (0x7001000 + sl.code * 0x10000000 + base.toNat * 131072 + a.toNat * 8192 + ring.toNat * 16 + pitched.toNat * 8))
  | .rpush sl slot ring => some (BitVec.ofNat 32 (0x7200000 + sl.code * 0x10000000 + slot.toNat * 32 + ring.toNat * 4))
  | .tstore sl base a slot pitched => some (BitVec.ofNat 32 (0x7400000 + sl.code * 0x10000000 + base.toNat * 131072 + a.toNat * 8192 + slot.toNat * 16 + pitched.toNat * 8))
  | .tstoreDur sl base a slot pitched => some (BitVec.ofNat 32 (0x7401000 + sl.code * 0x10000000 + base.toNat * 131072 + a.toNat * 8192 + slot.toNat * 16 + pitched.toNat * 8))
  | .ttrn sl base slot => some (BitVec.ofNat 32 (0x7600000 + sl.code * 0x10000000 + base.toNat * 131072 + slot.toNat * 32))
  | .tcvt sl base slot rnd => some (BitVec.ofNat 32 (0x7800000 + sl.code * 0x10000000 + base.toNat * 131072 + slot.toNat * 32 + rnd.toNat * 8))
  | .tzero sl slot => some (BitVec.ofNat 32 (0x7a00000 + sl.code * 0x10000000 + slot.toNat * 32))
  | .tfree sl slot => some (BitVec.ofNat 32 (0x7c00000 + sl.code * 0x10000000 + slot.toNat * 32))
  | .tgath sl base a slot w => some (BitVec.ofNat 32 (0x7e00000 + sl.code * 0x10000000 + base.toNat * 131072 + a.toNat * 8192 + slot.toNat * 32 + w.toNat * 8))
  | .wget sl base a n => some (BitVec.ofNat 32 (0x8000000 + sl.code * 0x10000000 + base.toNat * 131072 + a.toNat * 8192 + n.toNat * 2))
  | .wput sl base a n => some (BitVec.ofNat 32 (0x8200000 + sl.code * 0x10000000 + base.toNat * 131072 + a.toNat * 8192 + n.toNat * 2))
  | .wadd sl base a n int => some (BitVec.ofNat 32 (0x8600000 + sl.code * 0x10000000 + base.toNat * 131072 + a.toNat * 8192 + n.toNat * 2 + int.toNat))
  | .coll sl base op => some (BitVec.ofNat 32 (0x9000000 + sl.code * 0x10000000 + base.toNat * 131072 + op.toNat * 1024))
  | .smap sl base a n => some (BitVec.ofNat 32 (0xa000000 + sl.code * 0x10000000 + base.toNat * 131072 + a.toNat * 8192 + n.toNat * 32))
  | .swb sl base n => some (BitVec.ofNat 32 (0xa200000 + sl.code * 0x10000000 + base.toNat * 131072 + n.toNat * 32))
  | .sinv sl base n discard => some (BitVec.ofNat 32 (0xa400000 + sl.code * 0x10000000 + base.toNat * 131072 + n.toNat * 32 + discard.toNat * 16))
  | .pref sl base disp => some (BitVec.ofNat 32 (0xa800000 + sl.code * 0x10000000 + base.toNat * 131072 + disp.toNat))
  | .enq sl base q lq => some (BitVec.ofNat 32 (0xb000000 + sl.code * 0x10000000 + base.toNat * 131072 + q.toNat * 1024 + lq.toNat * 16))
  | .cancel sl base level => some (BitVec.ofNat 32 (0xb200000 + sl.code * 0x10000000 + base.toNat * 131072 + level.toNat * 1024))
  | .cnt sl base q level kind => some (BitVec.ofNat 32 (0xb400000 + sl.code * 0x10000000 + base.toNat * 131072 + q.toNat * 1024 + level.toNat * 128 + kind.toNat * 64))
  | .cli sl d a imm => some (BitVec.ofNat 32 (0xc000000 + sl.code * 0x10000000 + d.toNat * 131072 + a.toNat * 8192 + imm.toNat))
  | .cadd sl d a imm => some (BitVec.ofNat 32 (0xc200000 + sl.code * 0x10000000 + d.toNat * 131072 + a.toNat * 8192 + imm.toNat))
  | .cget sl d file idx lane => some (BitVec.ofNat 32 (0xc400000 + sl.code * 0x10000000 + d.toNat * 131072 + file.toNat * 1024 + idx.toNat * 16 + lane.toNat))
  | .cstr sl d level sreg => some (BitVec.ofNat 32 (0xc600000 + sl.code * 0x10000000 + d.toNat * 131072 + level.toNat * 1024 + sreg.toNat * 16))
  | .xnop => some (BitVec.ofNat 32 (0x70000000))
  | .xget d file idx lane => some (BitVec.ofNat 32 (0x70400000 + d.toNat * 262144 + file.toNat * 32768 + idx.toNat * 512 + lane.toNat * 32))
  | .xmov fmt d a b => some (BitVec.ofNat 32 (0x70800000 + fmt.toNat * 262144 + d.toNat * 16384 + a.toNat * 1024 + b.toNat * 64))
  | .xpack fmt d a b e rnd => some (BitVec.ofNat 32 (0x70c00000 + fmt.toNat * 262144 + d.toNat * 16384 + a.toNat * 1024 + b.toNat * 64 + e.toNat * 4 + rnd.toNat))
  | .xunpk fmt d a b e => some (BitVec.ofNat 32 (0x71000000 + fmt.toNat * 262144 + d.toNat * 16384 + a.toNat * 1024 + b.toNat * 64 + e.toNat * 4))
  | .xscal fmt d a b e rnd => some (BitVec.ofNat 32 (0x71400000 + fmt.toNat * 262144 + d.toNat * 16384 + a.toNat * 1024 + b.toNat * 64 + e.toNat * 4 + rnd.toNat))
  | .xmxs fmt a b e => some (BitVec.ofNat 32 (0x71800000 + fmt.toNat * 262144 + a.toNat * 1024 + b.toNat * 64 + e.toNat * 4))
  | .xshuf fmt d a b => some (BitVec.ofNat 32 (0x71c00000 + fmt.toNat * 262144 + d.toNat * 16384 + a.toNat * 1024 + b.toNat * 64))
  | .xrot fmt d a b => some (BitVec.ofNat 32 (0x72000000 + fmt.toNat * 262144 + d.toNat * 16384 + a.toNat * 1024 + b.toNat * 64))
  | .xzip fmt d a b => some (BitVec.ofNat 32 (0x72400000 + fmt.toNat * 262144 + d.toNat * 16384 + a.toNat * 1024 + b.toNat * 64))
  | .xuzp fmt d a b => some (BitVec.ofNat 32 (0x72800000 + fmt.toNat * 262144 + d.toNat * 16384 + a.toNat * 1024 + b.toNat * 64))
  | .xlsc e x imm => some (BitVec.ofNat 32 (0x74000000 + e.toNat * 262144 + x.toNat * 16384 + imm.toNat))
  | .xssc e x imm => some (BitVec.ofNat 32 (0x74400000 + e.toNat * 262144 + x.toNat * 16384 + imm.toNat))
  | .barInit id scope a => some (BitVec.ofNat 32 (0x76000000 + id.toNat * 2048 + scope.toNat * 256 + a.toNat * 16))
  | .barArr id scope => some (BitVec.ofNat 32 (0x76400000 + id.toNat * 2048 + scope.toNat * 256))
  | .barWait id scope => some (BitVec.ofNat 32 (0x76800000 + id.toNat * 2048 + scope.toNat * 256))
  | .barTst id scope q => some (BitVec.ofNat 32 (0x76c00000 + id.toNat * 2048 + scope.toNat * 256 + q.toNat * 32))
  | .spawn t a b => some (BitVec.ofNat 32 (0x78000000 + t.toNat * 524288 + a.toNat * 32768 + b.toNat * 2048))
  | .yield => some (BitVec.ofNat 32 (0x78800000))
  | _ => none

/-- The encoder of a microword (R62, R225); `none` for anything else. -/
def encodeMicro : Instr → Option W64
  | .microwordMnop => some (BitVec.ofNat 64 (0x0))
  | .mldw src sp metaSlot => some (BitVec.ofNat 64 (0x400000000000000 + src.toNat * 562949953421312 + sp.toNat * 281474976710656 + metaSlot.toNat * 1099511627776))
  | .mswp => some (BitVec.ofNat 64 (0x800000000000000))
  | .mstrm src tiles blk pop => some (BitVec.ofNat 64 (0xc00000000000000 + src.toNat * 562949953421312 + tiles.toNat * 70368744177664 + blk.toNat * 4398046511104 + pop.toNat * 2199023255552))
  | .mmv vec nv pa cnt blk wfmt gl => some (BitVec.ofNat 64 (0x1000000000000000 + vec.toNat * 1125899906842624 + nv.toNat * 140737488355328 + pa.toNat * 17592186044416 + cnt.toNat * 68719476736 + blk.toNat * 4294967296 + wfmt.toNat * 268435456 + gl.toNat * 134217728))
  | .mdrn blk dst rnd clr => some (BitVec.ofNat 64 (0x1400000000000000 + blk.toNat * 18014398509481984 + dst.toNat * 35184372088832 + rnd.toNat * 8796093022208 + clr.toNat * 4398046511104))
  | .mclr blk nb => some (BitVec.ofNat 64 (0x1800000000000000 + blk.toNat * 18014398509481984 + nb.toNat * 1125899906842624))
  | .mloop pc im cnt => some (BitVec.ofNat 64 (0x1c00000000000000 + pc.toNat * 36028797018963968 + im.toNat * 18014398509481984 + cnt.toNat * 274877906944))
  | .mend => some (BitVec.ofNat 64 (0x2000000000000000))
  | .mpop src n => some (BitVec.ofNat 64 (0x2400000000000000 + src.toNat * 562949953421312 + n.toNat * 35184372088832))
  | .mbud pb => some (BitVec.ofNat 64 (0x2800000000000000 + pb.toNat * 36028797018963968))
  | .mchk nc => some (BitVec.ofNat 64 (0x2c00000000000000 + nc.toNat * 144115188075855872))
  | .mret => some (BitVec.ofNat 64 (0x3000000000000000))
  | .mwt => some (BitVec.ofNat 64 (0x3400000000000000))
  | .mlad st cl e5 lc => some (BitVec.ofNat 64 (0x3800000000000000 + st.toNat * 72057594037927936 + cl.toNat * 18014398509481984 + e5.toNat * 9007199254740992 + lc.toNat * 4503599627370496))
  | _ => none

/-- A bundle word with the stop bit of R47 set or clear. -/
def withStop (stop : Bool) (w : W32) : W32 := BitVec.ofNat 32 (w.toNat + (if stop then 0x80000000 else 0))

/-- The instruction the decoder reads from the bits the opcode table numbers: a 32-bit bundle word, or a 64-bit
microword. -/
def decodeTableWord (nbits w : Nat) : Option Instr :=
  if nbits = 64 then decodeMicro (BitVec.ofNat 64 w)
  else match decode (BitVec.ofNat 32 w) with
    | .ok i => some i
    | .error _ => none

end Sys2Proof
end

