-- ==== Sys2Proof/Machine/FMap.lean ====
section
/-! DEFINITION. Sparse files: a list of keys and values, keys rising, where an unlisted key reads a default. Registers,
queues, tables and contexts are held so, one home each. -/
namespace Sys2Proof.Machine

/-- A sparse file from numbers to `α`. -/
abbrev FMap (α : Type) := List (Nat × α)

/-- The value at key `k`; `d` when the key is not listed. -/
def fget {α : Type} (d : α) : FMap α → Nat → α
  | [], _ => d
  | (k', v) :: r, k => if k = k' then v else if k < k' then d else fget d r k

/-- The file with `v` at key `k`. -/
def fset {α : Type} : FMap α → Nat → α → FMap α
  | [], k, v => [(k, v)]
  | (k', v') :: r, k, v =>
    if k < k' then (k, v) :: (k', v') :: r
    else if k = k' then (k, v) :: r
    else (k', v') :: fset r k v

/-- The file without key `k`. -/
def fdel {α : Type} (m : FMap α) (k : Nat) : FMap α := m.filter (fun p => p.1 ≠ k)

/-- The value at key `k` when it is listed. -/
def fget? {α : Type} : FMap α → Nat → Option α
  | [], _ => none
  | (k', v) :: r, k => if k = k' then some v else if k < k' then none else fget? r k

/-- The file with consecutive keys from `k` set to the listed values. -/
def fsets {α : Type} (m : FMap α) (k : Nat) : List α → FMap α
  | [] => m
  | v :: vs => fsets (fset m k v) (k + 1) vs

end Sys2Proof.Machine
end

