-- ==== Sys2Proof/Machine/Memory.lean ====
section
/-! DEFINITION. Memory as one canonical list of bytes by physical address (R261, R343; log entries 2 and 3): addresses
strictly rise and no listed byte equals what an unlisted address reads as. -/
namespace Sys2Proof.Machine

/-- What an address that nothing has written reads as (DESIGN CHOICE, log entry 2). -/
def memReset : Byte := 0

/-- The byte at physical address `a`. -/
def memGet : List Host.Cell → Nat → Byte
  | [], _ => memReset
  | (k, v) :: r, a => if a = k then v else if a < k then memReset else memGet r a

/-- Memory with byte `b` at physical address `a`. -/
def memSet : List Host.Cell → Nat → Byte → List Host.Cell
  | [], a, b => if b = memReset then [] else [(a, b)]
  | (k, v) :: r, a, b =>
    if a < k then (if b = memReset then (k, v) :: r else (a, b) :: (k, v) :: r)
    else if a = k then (if b = memReset then r else (a, b) :: r)
    else (k, v) :: memSet r a b

/-- Every listed address is above `lo`, addresses strictly rise, and no listed byte reads as an unlisted one. -/
def memWfAbove : Nat → List Host.Cell → Bool
  | _, [] => true
  | lo, (k, v) :: r => decide (lo ≤ k) && decide (v ≠ memReset) && memWfAbove (k + 1) r

/-- The canonical form of memory. -/
def Memory.wf (m : List Host.Cell) : Bool := memWfAbove 0 m

/-- `n` bytes from address `a` upward. -/
def memRead (m : List Host.Cell) (a : Nat) : Nat → List Byte
  | 0 => []
  | n + 1 => memGet m a :: memRead m (a + 1) n

/-- Memory with the listed bytes stored from address `a` upward. -/
def memWrite (m : List Host.Cell) (a : Nat) : List Byte → List Host.Cell
  | [] => m
  | b :: bs => memWrite (memSet m a b) (a + 1) bs

/-- Memory with each listed byte stored at its own address, in list order. -/
def memWriteCells (m : List Host.Cell) : List Host.Cell → List Host.Cell
  | [] => m
  | (a, b) :: cs => memWriteCells (memSet m a b) cs

/-- Physical key of byte `o` of die `d`'s HBM (R343; log entry 3). -/
def keyHbm (d o : Nat) : Nat := d * 2 ^ 52 + o
/-- Physical key of byte `o` of the NV tier. -/
def keyNv (o : Nat) : Nat := 2 ^ 60 + o
/-- Physical key of byte `o` of the companion processor's memory. -/
def keyComp (o : Nat) : Nat := 2 ^ 61 + o
/-- Physical key of byte `o` of core `c`'s core store (R243). -/
def keyCore (c o : Nat) : Nat := 2 ^ 62 + c * 2 ^ 22 + o
/-- A key of a core store. -/
def isCoreKey (k : Nat) : Bool := decide (2 ^ 62 ≤ k ∧ k < 2 ^ 63)
/-- A key of the NV tier. -/
def isNvKey (k : Nat) : Bool := decide (2 ^ 60 ≤ k ∧ k < 2 ^ 61)
/-- A key of companion memory. -/
def isCompKey (k : Nat) : Bool := decide (2 ^ 61 ≤ k ∧ k < 2 ^ 62)

end Sys2Proof.Machine
end

