-- ==== Sys2Proof/Machine/State.lean ====
section
/-! DEFINITION. The state of the device: every piece the manual names (INVENTORY.md, State), as plain data. Field names
are the manual's. A default after `:=` is the reset value; the assumption log says where the manual gives none. -/
namespace Sys2Proof.Machine

/-- Reasons a step stops the model with a fault. -/
inductive Fault where
  /-- Raised by an access to a physical address beyond the memory that exists (R343): the root register or a die
  register names a frame outside HBM, for which no rule states an effect. Safe: the hardware may go on. -/
  | noSuchMemory (key : Nat)
  deriving DecidableEq, Repr

/-- Reasons a step gives no meaning. -/
inductive Refusal where
  /-- Raised by an arm of `exec` whose instruction has no meaning in this model yet, named by its mnemonic in
  spec/opcode_table.json. Safe: nothing is claimed of it. -/
  | notModelled (mnemonic : String)
  deriving DecidableEq, Repr

/-- Causes of traps, by code (R324). -/
abbrev TrapCode := BitVec 8

/-- A synchronous trap met by a word: its rank in R323, the class of the reporting word, its code and its detail. -/
structure TrapRec where
  rank : Nat
  cls  : Nat
  code : TrapCode
  tval : W64
  deriving DecidableEq, Repr

/-- A hold of stage 2 of R44, by the code STAMP_OVERRUN reports (R315, bits 14:12). `drain` is the hold of `tret` and
`exit` for pending writes, `idle` that of `idle`; `framing` is the loop framing hold, which never overruns. -/
inductive Hold where
  | head | waitCount | counterFull | callQueue | tile | barrier | other | drain | idle
  | framing (cycles : Nat)
  deriving DecidableEq, Repr

/-- A pending register write (R18 to R20, R331). -/
structure Pend where
  cls   : Nat
  reg   : Nat
  kind  : Nat
  delay : Nat
  value : Wide
  deriving DecidableEq, Repr

/-- The state of a load-queue entry (R22, R26, R330). -/
inductive QState where
  | reserved | arrived | faulted
  deriving DecidableEq, Repr

/-- A load-queue entry: its state, its data, its fault address, and the access that fills it (R22). -/
structure QEntry where
  st    : QState := .reserved
  data  : Wide := 0
  faddr : W64 := 0
  acc   : Nat := 0
  deriving DecidableEq, Repr

/-- A store-queue entry with its byte count (R27). -/
structure WEntry where
  data  : Wide
  count : Nat
  deriving DecidableEq, Repr

/-- A deferral-queue entry: one or two values, the lane and the iteration (R38). -/
structure Defer where
  v0   : W32
  v1   : W32
  lane : Nat
  iter : Nat
  deriving DecidableEq, Repr

/-- Where a spilled value lies (R42, R121). -/
inductive SpillPlace where
  | accumulator | standby | area
  deriving DecidableEq, Repr

/-- A spill-map entry (R42, R121). -/
structure SpillEntry where
  value : Wide
  wide  : Bool
  place : SpillPlace
  /-- Spilled within the current run of consecutive spilling bundles of this level (R43; log entry 81). -/
  burst : Option Nat := none
  /-- Filled since it was spilled: it no longer keeps the standby bank from a prefill (R42; log entry 82). -/
  filled : Bool := false
  deriving DecidableEq, Repr

/-- A bundle held in the loop buffer: its address, its length in words as R404 counts it, and what framing made of it;
`none` where the fetch faulted, so that the bundle is fetched again when it would issue (R33, R50). -/
structure BodyBundle where
  addr  : W64
  words : Nat
  text  : Option (Framed Unit)
  deriving DecidableEq, Repr

/-- An active hardware loop (R33 to R37, R330). -/
structure LoopLvl where
  start  : W64
  last   : W64
  after  : W64
  nbody  : Nat
  rem    : Nat
  iter   : Nat
  finish : Bool
  buf    : List BodyBundle
  deriving DecidableEq, Repr

/-- The register files of one seat context (R14). -/
structure Regs where
  s   : FMap W64 := []
  va  : FMap Wide := []
  vb  : FMap Wide := []
  ka  : FMap W32 := []
  kb  : FMap W32 := []
  x   : FMap Wide := []
  e   : FMap (BitVec 256) := []
  p   : FMap W64 := []
  psh : FMap W64 := []
  ca  : FMap W64 := []
  cb  : FMap W64 := []
  /-- Stride of ca at level l is key 8·reg + l. -/
  sa  : FMap W32 := []
  sb  : FMap W32 := []
  deriving DecidableEq, Repr

/-- The system registers kept with a context (R119). -/
structure Sys where
  status  : W64 := 0
  estatus : W64 := 0
  tvec    : W64 := 0
  tcause  : W64 := 0
  tval    : W64 := 0
  epc0    : W64 := 0
  epc1    : W64 := 0
  epc2    : W64 := 0
  tscratch : W64 := 0
  fstatus : W64 := 0
  ftvec   : W64 := 0
  fcause  : W64 := 0
  fval    : W64 := 0
  fepc0   : W64 := 0
  fepc1   : W64 := 0
  fepc2   : W64 := 0
  deriving DecidableEq, Repr

/-- The counting and watching system registers of a context (R119). -/
structure Ctrs where
  frame   : W64 := 0
  msord   : W64 := 0
  srstate : W64 := 0
  seqno   : W32 := 0
  oobaddr : W64 := 0
  oobflag : Bool := false
  dtcnt   : FMap W64 := []
  watcha  : W64 := 0
  watchm  : W64 := 0
  spillsel : BitVec 8 := 0
  deriving DecidableEq, Repr

/-- The flow of control of a context: the chain NPC0 to NPC2 (R32), the delay positions (R31), the loop stack (R33),
and the cycles in which the seat may not issue (R30, R33, R40). -/
structure Flow where
  npc0   : W64 := 0
  npc1   : W64 := 1
  npc2   : W64 := 1
  delay  : Nat := 0
  braddr : W64 := 0
  loops  : List LoopLvl := []
  bubble : Nat := 0
  /-- The bubble that follows the delay bundles of the last branch (R30). -/
  bubnext : Nat := 0
  framing : Nat := 0
  /-- Cycles that the present bundle has held at `bar.wait` (R386). -/
  barHeld : Nat := 0
  framed : Bool := false
  /-- The present bundle has held: the seat has reached no boundary since (R334, R336). -/
  holding : Bool := false
  start  : Nat := 0
  idle   : Bool := false
  wake   : Bool := false
  /-- The pending writes of program, handler and firmware level (R20, R331). -/
  pend0  : List Pend := []
  pend1  : List Pend := []
  pend2  : List Pend := []
  deriving DecidableEq, Repr

/-- A need of an access or command: another operation `id` and what it must have reached first: `k = 0` its value is fixed
(or it is gone); `k = 1` it passes each stage up to `scope` no later; `k = 2` it is performed at `scope` (R270); `k = 3`
the context's engine command with sequence number `id` is complete and its writes are performed at `scope` (R275);
`k = 4` the write has persisted, `k = 5` the command is complete and its durable writes have persisted (R187). -/
structure Need where
  id    : Nat
  k     : Nat
  scope : Nat := 0
  deriving DecidableEq, Repr

/-- An order that a fence or an atomic of the seat has set up for its later accesses (R268 to R270): the earlier
accesses whose values must be fixed, the earlier writes, and what waits for them. -/
structure Fence where
  reads   : List Nat
  writes  : List Nat
  toRead  : Bool
  toWrite : Bool
  scope   : Nat
  /-- Earlier writes must be performed at the scope before later reads (`.ar`, R270). -/
  full    : Bool
  /-- Earlier writes must be performed at the scope before later writes as well (R273, R286). -/
  strict  : Bool := false
  deriving DecidableEq, Repr

/-- An order between paths that a `fencex` or a `wait` set up (R275, R276): operations of path `to_` issued from now on
wait until the listed writes and commands are performed at the scope. -/
structure PathFence where
  to_    : Option Nat
  ids    : List Nat
  cmds   : List Nat
  scope  : Nat
  deriving DecidableEq, Repr

/-- The queues, counters and maps of a context (R22 to R28, R38, R42). -/
structure Queues where
  lq     : FMap (List QEntry) := []
  sq     : FMap (List WEntry) := []
  defer  : List Defer := []
  spill  : FMap SpillEntry := []
  ld     : Nat := 0
  st     : Nat := 0
  cp     : Nat := 0
  tl     : Nat := 0
  fences : List Fence := []
  pfences : List PathFence := []
  /-- In-flight writes of other agents whose values the context has read (R270). -/
  observed : List Nat := []
  /-- The same for its engine commands: path, sequence number and write (R270, R275). -/
  saw    : List (Nat × Nat × Nat) := []
  /-- The earliest place in time at which a path may still read, by path; at path + 8 the same for writes of other devices and
  of the companion processor, which only sys scope orders (R270, R274; log entry 92). -/
  floor  : FMap Nat := []
  /-- The place in time at which a path last read a granule, at 16 · granule + path, a path of + 8 as for `floor` (R266). -/
  last   : FMap Nat := []
  /-- Durable writes issued and not yet known persisted (R187). -/
  durable : List Need := []
  deriving DecidableEq, Repr

/-- A tile-table state (R254): draining carries its reader count. -/
inductive TileState where
  | empty | filling | ready
  | draining (readers : Nat)
  deriving DecidableEq, Repr

/-- A declared tile slot or ring (R248, R299): format code, gloved, depth (1 for a slot) and local start. -/
structure TileDecl where
  fmt    : Nat
  gloved : Bool
  depth  : Nat
  base   : Nat
  deriving DecidableEq, Repr

/-- A seat's share of the core store (R244, R299). -/
structure Share where
  base  : Nat := 0
  len   : Nat := 0
  slots : FMap TileDecl := []
  rings : FMap TileDecl := []
  stashBase : Nat := 0
  stashLen  : Nat := 0
  spillBase : Nat := 0
  spillLen  : Nat := 0
  accFirst  : Nat := 0
  accCnt    : Nat := 0
  deriving DecidableEq, Repr

/-- A stash entry: the bound block of global memory (R258). -/
structure StashEntry where
  va    : W64
  space : Nat
  /-- Physical key of each line of the block, and whether the line is held clean (R258). -/
  key   : Nat
  held  : BitVec 16
  deriving DecidableEq, Repr

/-- The tile table, the rings and the stash of a context (R254, R255, R258). -/
structure Tiles where
  share : Share := {}
  slot  : FMap TileState := []
  /-- Ring m's entry i is key 64·m + i. -/
  ring  : FMap TileState := []
  head  : FMap Nat := []
  tail  : FMap Nat := []
  stash : FMap StashEntry := []
  deriving DecidableEq, Repr

/-- The state of a walker (R305). -/
inductive WalkState where
  | none | enter | run
  deriving DecidableEq, Repr

/-- A seat's barrier record (R166). -/
structure BarRec where
  home    : Nat
  bar     : Nat
  scope   : Nat
  pending : Bool
  phase   : Nat
  /-- The message of the record's arrival. -/
  arr     : Nat
  /-- The writes that the arrivals of the completed phase have ordered and that may still be in flight (R273). -/
  obs     : List Nat := []
  deriving DecidableEq, Repr

/-- What starts, runs and ends a context (R9, R125, R303 to R305, R322, R338). -/
structure Run where
  busy    : Bool := false
  halted  : Bool := false
  /-- Started and not ended, on a bank or saved. -/
  live    : Bool := false
  launch  : Nat := 0
  domain  : Nat := 0
  space   : Nat := 0
  det     : Bool := false
  stmp    : Bool := false
  pre     : Bool := false
  spawned : Bool := false
  ending  : Bool := false
  wst     : WalkState := .none
  lo      : Nat := 0
  cur     : Nat := 0
  hi      : Nat := 0
  lcore   : Nat := 0
  bank    : Nat := 0
  firstCore : Nat := 0
  firstSeat : Nat := 0
  /-- Exchanged out: neither on a running bank nor ended. -/
  saved   : Bool := false
  /-- The order of its last exchange among all of the device (R313). -/
  savedAt : Nat := 0
  /-- An image slot holds it until it next issues (R328). -/
  slotted : Bool := false
  deriving DecidableEq, Repr

/-- The engine-command statuses, by code (R174). -/
abbrev Status := Nat

/-- A report not yet delivered (R325). -/
structure Report where
  cause  : TrapCode
  status : Nat
  kind   : Nat
  lvl    : Nat
  seq    : W32
  pc     : W64
  detail : W64
  bytes  : Nat
  deriving DecidableEq, Repr

/-- What an engine command is, with the operands taken at issue (R189 to R205, R331). -/
inductive CmdOp where
  | tload (va : W64) (pitch : Option W64) (ring : Bool) (idx ent : Nat)
  | rpush (src ring ent : Nat)
  | tstore (va : W64) (pitch : Option W64) (slot : Nat) (dur : Bool)
  | ttrn (src dst : Nat)
  | tcvt (src dst rnd : Nat) (sr : W64)
  | tzero (slot : Nat)
  | tgath (va stride : W64) (slot : Nat) (idx : List (Option Nat))
  | wget (va : W64) (win : W64) (len : Nat)
  | wput (va : W64) (win : W64) (len : Nat)
  | wadd (va : W64) (win : W64) (len : Nat) (int : Bool)
  | coll (va : W64) (op : Nat)
  | swb (va : W64) (blocks : Nat)
  | matrix
  deriving DecidableEq, Repr

/-- The state of one chunk of a window command (R200). -/
inductive ChunkState where
  | unsent | sent | done | refused (status gen : Nat) | timeout | localFault (status : Nat) (va : W64)
  deriving DecidableEq, Repr

/-- An engine command in flight (R174, R175, R331). -/
structure Cmd where
  op     : CmdOp
  pc     : W64
  word   : W32 := 0
  seq    : W32
  lvl    : Nat
  slot   : Nat
  path   : Nat
  counted : Nat
  done   : Nat := 0
  /-- Bytes read so far, at the engine. -/
  buf    : List Byte := []
  tries  : Nat := 0
  status : Nat := 0
  detail : W64 := 0
  prefixBytes : Nat := 0
  /-- Writes of the command still in flight. -/
  writes : List Nat := []
  chunks : FMap ChunkState := []
  /-- Die cycle at which the frame of a chunk was sent, by chunk (R357). -/
  sentAt : FMap W64 := []
  /-- Writes and commands that must be performed first (R275, R276). -/
  needs  : List Need := []
  /-- WEN as captured at issue (R394). -/
  wen    : Bool := false
  /-- Held by a watched byte (R394): 1 reported, 2 the report is delivered and its handler has not yet returned. -/
  watch  : Nat := 0
  /-- Bytes of the chunk in progress already written (R394). -/
  sub    : Nat := 0
  /-- Writes to a durable page (R281). -/
  dur    : Bool := false
  /-- Chunks of a collective whose descriptor has been read (R175). -/
  total  : Nat := 0
  /-- Of a collective: 0 its descriptor is not yet read, 1 it reads its source, 2 it waits for the other members, 3 it
  writes its result (R202, R203). -/
  phase  : Nat := 0
  /-- The core of issue, where a command that goes on detached stays (R263, R329). -/
  core   : Nat := 0
  /-- Of a window command: the import entry as it stood at issue (R199, R359). -/
  peer   : BitVec 192 := 0
  /-- Die cycle of issue, for the monitors (R386). -/
  t0     : W64 := 0
  deriving DecidableEq, Repr

/-- A matrix call queued or running (R217, R218, R240): what it captured at issue. -/
structure Call where
  pc      : W64
  seq     : W32
  lvl     : Nat
  routine : Nat
  nocorr  : Bool
  limc    : Bool
  e5      : Bool
  ceil    : Nat
  start   : Nat
  prof    : Nat
  sr      : W64
  p       : FMap W64
  needs   : List Need := []
  /-- Die cycle of issue, for the monitors (R386). -/
  t0      : W64 := 0
  /-- Its place in the order in which calls were issued (R218). -/
  ord     : Nat := 0
  deriving DecidableEq, Repr

/-- A stationary plane of the array (R212, R226): where it came from, the rung and format of its elements, and the
elements' codes and scales by column n, each along its PE rows. -/
structure Plane where
  ring   : Bool
  num    : Nat
  ent    : Nat
  sp     : Bool
  metaSlot : Nat
  climb  : Bool
  /-- The source, and the slot of selections, have not been popped (R231). -/
  kept   : Bool
  metaKept : Bool := true
  rung   : Nat
  fmt    : Nat
  data   : List (List Nat)
  scale  : List (List Nat)
  /-- Logical K of every PE row, by column; empty for a dense plane. -/
  sel    : List (List Nat) := []
  /-- Elements clamped by the downcast, until a step on the plane has counted them (R99). -/
  sat    : Nat := 0
  used   : Bool := false
  deriving DecidableEq, Repr

/-- A source tile of a stream step: a slot or a ring entry. -/
structure TileRef where
  ring : Bool
  num  : Nat
  ent  : Nat
  deriving DecidableEq, Repr

/-- The row registers of the array as an `mmv` holds its resident vectors in them (R212, R229): whether they climb, their rung
and format, the codes and scales of each vector, the elements clamped, and the largest exponent of the operand tile (R88). -/
structure RowRegs where
  climb : Bool
  rung  : Nat
  fmt   : Nat
  data  : List (List Nat)
  scale : List (List Nat)
  sat   : Nat
  top   : Int
  deriving DecidableEq, Repr

/-- A stream step in a step buffer (R228, R229, R232), with the ladder, budgets and policy it started with. -/
structure StepRec where
  /-- `none` for `mstrm`; for `mmv` the weight tile's number, count, address, format code and glove. -/
  mmv    : Option (Nat × Nat × W64 × Nat × Bool)
  pa     : Nat := 0
  vec    : Nat := 0
  nv     : Nat := 0
  srcs   : List TileRef
  blk    : Nat
  tiles  : Nat
  pop    : Bool
  index  : Nat
  start  : Nat
  ceil   : Nat
  e5     : Bool
  limc   : Bool
  corr   : Bool
  bud    : List Nat
  rung   : Option Nat := none
  tries  : Nat := 0
  limit  : Bool := false
  /-- The row registers of an `mmv` (R212, R229). -/
  rows   : Option RowRegs := none
  deriving DecidableEq, Repr

/-- A drain in progress (R230). -/
structure DrainRec where
  blk   : Nat
  dst   : TileRef
  rnd   : Nat
  clr   : Bool
  draw  : Nat
  index : Nat
  corr  : Bool
  deriving DecidableEq, Repr

/-- The call the array runs: call state of R218, microword index, microloop stack and work in progress. -/
structure ArrayRun where
  ctx    : Nat
  call   : Call
  idx    : Nat
  loops  : List (Nat × Nat) := []
  start  : Nat
  ceil   : Nat
  e5     : Bool
  limc   : Bool
  corr   : Bool
  bud    : List Nat := [65535, 65535, 65535, 63]
  active : Option Plane := none
  shadow : Option Plane := none
  /-- The shadow plane's load has not finished. -/
  loading : Bool := false
  steps  : List StepRec := []
  drains : List DrainRec := []
  draw   : Nat := 0
  /-- The reason, index, rung, row and column of a stop (R220), or completion. -/
  stop   : Option (Nat × Nat × Nat × Nat × Nat × Nat) := none
  returned : Bool := false
  /-- An exchange asks for a stop before the next microword (R240). -/
  park   : Bool := false
  reload : Bool := false
  /-- Memory bytes read for the weight tile of the step in progress failed verification once (R229). -/
  wtries : Nat := 0
  deriving DecidableEq, Repr

/-- What the words of the bundle in issue have asked to happen at its end. -/
inductive EndFx where
  | reserve (q : Nat) (e : QEntry)
  | mts (reg : Nat) (v : W64)
  | spill (id : Nat) (e : SpillEntry)
  | filled (id : Nat)
  | frame
  | stride (c1 : Bool) (reg lvl : Nat) (v : W32)
  | tfree (slot : Nat)
  | smap (idx n : Nat) (va : W64)
  | sinv (va : W64) (n : Nat) (discard : Bool)
  | oob (a : W64)
  | lexit (lvl : Nat)
  | loopOpen (lvl : Nat) (l : LoopLvl)
  | loopSkip (to_ : W64)
  | exit
  | tret
  | fwcall (service : W64)
  | pbar (after : List Need)
  | yield
  deriving DecidableEq, Repr

/-- A branch of the bundle in issue (R29, R30). -/
structure Branch where
  target : Option W64
  bubble : Bool
  deriving DecidableEq, Repr

/-- The bundle in issue: its address, its words and what its slots have done so far. -/
structure Issue where
  pc     : W64 := 0
  len    : Nat := 4
  hdr    : W32 := 0
  text   : List W32 := []
  fx     : List EndFx := []
  sruses : Nat := 0
  br     : Option Branch := none
  /-- The slot instructions of the bundle, decoded. -/
  ins    : List Instr := []
  /-- Raised by C0's durable write, for a `pbar` in C1 (R187). -/
  dur    : List Need := []
  deriving DecidableEq, Repr

/-- Debug control of a bank (R335). -/
structure Debug where
  st    : Nat := 0
  att   : Bool := false
  steph : Bool := false
  err   : Bool := false
  /-- A stop at the next boundary is asked for. -/
  ask   : Bool := false
  /-- Stopped by a launch stop (R333), and whether the cut milestone was the last bundle issued. -/
  at_   : Bool := false
  cut   : BitVec 9 := 0
  missed : Bool := false
  /-- Die cycle from which STOPLIM counts for this context (R334). -/
  since : W64 := 0
  /-- The last bundle issued was a milestone at program level (R333). -/
  mile  : Bool := false
  /-- A step in progress has issued its bundle, or entered a handler. -/
  stepTraps : Nat := 0
  deriving DecidableEq, Repr

/-- Persist-barrier state of a context (R187, R282). -/
structure Persist where
  slot  : Option Nat := none
  seq   : W64 := 0
  /-- MSORD and the walker position at a `pbar` that has not completed (R282). -/
  msord : W64 := 0
  cur   : Nat := 0
  /-- A `pbar` whose bundle has issued and that waits for a write of C0. -/
  wait  : List Need := []
  armed : Bool := false
  deriving DecidableEq, Repr

/-- What the image of a context holds of its core (R245, R331): its accumulator blocks with their check pairs and sums. The
bytes of its share stand in memory under a core number of the context's own. -/
structure CtxImage where
  acc   : FMap W32
  chk   : FMap W32
  tol   : FMap Nat
  deriving DecidableEq, Repr

/-- A seat context: what a bank holds (R9), saved ones included. -/
structure Ctx where
  regs   : Regs := {}
  sys    : Sys := {}
  ctr    : Ctrs := {}
  flow   : Flow := {}
  q      : Queues := {}
  tiles  : Tiles := {}
  run    : Run := {}
  iss    : Issue := {}
  dbg    : Debug := {}
  per    : Persist := {}
  bar    : Option BarRec := none
  barFault : Option W64 := none
  barPhase : Nat := 0
  reports : List Report := []
  /-- The reports of a halted seat, which are never delivered (R322). -/
  haltRec : List Report := []
  nrep   : Nat := 0
  cmds   : List Cmd := []
  call   : Option Call := none
  savedCall : Option ArrayRun := none
  remote : Bool := false
  /-- The share and blocks of a saved context that another context needed (R245). -/
  img    : Option CtxImage := none
  /-- Its share went into its image after the spill engine wrote the image: it is to be written again (R245, R328). -/
  stale  : Bool := false
  deriving DecidableEq, Repr

/-- A write in flight (R264 to R266): its bytes by physical key, the stage it has reached (0 seat to 4 applied on every
die), the dies that have applied it, its place in the coherence order once it has one, and what must go before it. -/
structure WriteRec where
  id     : Nat
  agent  : Nat
  core   : Nat
  die    : Nat
  home   : Nat
  cells  : List Host.Cell
  stage  : Nat := 0
  /-- Order of becoming visible at the stage reached. -/
  vis    : Nat := 0
  /-- Place in the coherence order (R266), given at the point of coherence: when its home die applies it. -/
  coh    : Option Nat := none
  /-- The places in time at which it passed stage 1 to 3, and at 16 + d at which die d applied it (R264). -/
  times  : FMap Nat := []
  applied : BitVec 32 := 0
  clock  : FMap Nat := []
  needs  : List Need := []
  /-- Earlier writes that happen before it (R272). -/
  preds  : List Nat := []
  /-- The context, sequence number, bundle and level of the command that made it. -/
  ctx    : Nat := 0
  seq    : W32 := 0
  pc     : W64 := 0
  lvl    : Nat := 0
  /-- The instruction word of a store (R331). -/
  word   : W32 := 0
  /-- Counted by st and not yet completed (R28, R179). -/
  store  : Bool := false
  durable : Bool := false
  persisted : Bool := false
  /-- Held dirty in stash entry (context, index), with the linear index of its step (R258 to R260). -/
  stash  : Option (Nat × Nat) := none
  /-- Left the stash by a write-back (R260, R275), and the die in whose die store the line then sits (R260). -/
  wb     : Bool := false
  sits   : Nat := 0
  /-- A release or fence at device scope has come after it: it goes past the stash (R259). -/
  noStash : Bool := false
  /-- The launch, and the linear index of the tile step that last dirtied it; none for a spawned context (R260). -/
  launch : Nat := 0
  step   : Option Nat := none
  /-- Made by another device or by the companion processor (R274, R278). -/
  sys    : Bool := false
  /-- Virtual address of the first byte, and the address space, for reports and shootdowns. -/
  va     : W64 := 0
  space  : Nat := 0
  host   : Bool := false
  /-- The address of a granule whose error it could not replace (R350). -/
  bad    : Option W64 := none
  /-- Persists only after every other write of its command (R280). -/
  last   : Bool := false
  /-- Die cycle of issue, for the monitors (R386). -/
  t0     : W64 := 0
  deriving DecidableEq, Repr

/-- What a load-queue reservation waits for (R176 to R178, R183, R167, R207, R209). -/
inductive LoadKind where
  /-- Bytes to be read: for each byte of the entry, its physical key and address, or nothing for a zero byte; then sign
  extension from that many bits, 0 for none. -/
  | read (cells : List (Option (Nat × W64))) (sext : Nat)
  /-- Opcode, physical key (none: out of range), leaf of a global address, operand, and the new value of `acas`. -/
  | atomic (op : Nat) (key : Option Nat) (leaf : W64) (v e : W64)
  | barTst (core bar scope : Nat)
  | enq (va : W64) (lq : Nat)
  /-- An answer that stands ready (R207). -/
  | answer (v : W64)
  | cnt (ident : W64) (level : Nat) (failed : Bool)
  /-- A management core's read of `n` bytes of its control window, sign-extended from that many bits, 0 for none (R402). -/
  | ctl (off n sext : Nat)
  deriving DecidableEq, Repr

/-- A load, atomic or reserved answer in flight (R22). -/
structure LoadRec where
  id    : Nat
  agent : Nat
  core  : Nat
  die   : Nat
  ctx   : Nat
  q     : Nat
  kind  : LoadKind
  needs : List Need := []
  counted : Bool
  va    : W64 := 0
  space : Nat := 0
  scope : Nat := 0
  host  : Bool := false
  /-- Die cycle of issue, for the monitors (R386). -/
  t0    : W64 := 0
  deriving DecidableEq, Repr

/-- A write that memory has taken, kept for a time with the bytes it replaced: a read that no order ties to the present may
still have been performed before it (R267; log entry 92). -/
structure Past where
  w   : WriteRec
  old : List Host.Cell
  deriving DecidableEq, Repr

/-- A named barrier (R164). -/
structure Barrier where
  init  : Bool := false
  n     : Nat := 0
  count : Nat := 0
  phase : Nat := 0
  /-- Seats whose arrival the phase has counted. -/
  arrived : List Nat := []
  /-- The writes that those arrivals have ordered (R273). -/
  obs   : List Nat := []
  deriving DecidableEq, Repr

/-- A barrier message in flight (R164 to R166, R364). -/
inductive BarMsg where
  | init (id home bar scope n from_ : Nat)
  /-- An arrival that leaves once its needs are met. -/
  | arrive (id home bar scope from_ : Nat) (needs : List Need)
  /-- The answer to message `arr`: a fault, or the phases before and after the arrival. -/
  | reply (id to_ home bar scope arr : Nat) (fault : Option W64) (p q : Nat) (obs : List Nat)
  | complete (id to_ home bar phase : Nat) (obs : List Nat)
  deriving DecidableEq, Repr

/-- A cached translation (R345, R347): the leaf of a block of 2^bits bytes at `va` in a space. -/
structure TlbEntry where
  space : Nat
  va    : W64
  bits  : Nat
  leaf  : W64
  deriving DecidableEq, Repr

/-- A seat exchange in progress (R10, R327). -/
structure Exchange where
  seat : Nat
  left : Nat
  deriving DecidableEq, Repr

/-- A table entry held by a walk cache (R347). -/
structure WalkEntry where
  space : Nat
  level : Nat
  va    : W64
  pte   : W64
  deriving DecidableEq, Repr

/-- An entry of the checksum log (R374): the CKLOG word and the context, physical column and detail it names. -/
structure CkEntry where
  lo : W64
  hi : W64
  ctx : Nat
  deriving DecidableEq, Repr

/-- A microprogram image (R300): the store index of its first word, its words, and its table entries with their indices. -/
structure MicroImage where
  first   : Nat
  words   : List W64
  entries : List (Nat × W32)
  deriving DecidableEq, Repr

/-- One core (R7, R9, R212, R222, R238). -/
structure CoreSt where
  starve1 : Nat := 0
  ckinj   : W64 := 0
  exch    : Option Exchange := none
  /-- A seat asked to exchange, by `yield` or the dispatcher (R327). -/
  want    : Option Nat := none
  /-- Accumulator word h or l of row r, column c: key 256·r + 2·c + (0 or 1). -/
  acc     : FMap W32 := []
  /-- Check pairs of block b, line i (rows 0-127, columns 128-255): key 3·(256·b + i) + (0 h, 1 l, 2 bound). -/
  chk     : FMap W32 := []
  /-- Drain tolerance sums of block b, line i, as exact dyadics scaled by 2^-1074. -/
  tol     : FMap Nat := []
  run     : Option ArrayRun := none
  /-- Calls queued in issue order, by context. -/
  calls   : List Nat := []
  ustore  : FMap W64 := []
  rtab    : FMap W32 := []
  /-- The microprogram image that is loaded, if any (R222, R300). -/
  image   : Option MicroImage := none
  /-- The duplicated downcast units have disagreed over an element of the attempt under way (R213). A fault of the hardware sets
  it, which is no step of the machine (log entry 96). -/
  disagree : Bool := false
  bars    : FMap Barrier := []
  busyMap : Nat := 0
  tlb     : List TlbEntry := []
  /-- The domain each bank last served, by bank (R16, R338). -/
  domains : FMap Nat := []
  deriving DecidableEq, Repr

/-- The reliability block of a physical core (R373 to R378). -/
structure Phys where
  /-- Checksum-log entries by index 0 to 63 (R374). -/
  cklog  : FMap CkEntry := []
  /-- Entries written so far (R373). -/
  written : Nat := 0
  /-- Column evidence and row mark bytes by line (R375). -/
  evid   : FMap (BitVec 8) := []
  erow   : FMap (BitVec 8) := []
  retire : W64 := 0
  /-- The retire map in effect, loaded at the last idle point (R214, R376). -/
  mapped : W64 := 0
  /-- Die cycle at which the lost-cycle counter of requester q at bank b, at key 32·q + b, was last cleared (R387). -/
  lost   : FMap W64 := []
  deriving DecidableEq, Repr

/-- A message a unit sends outside the device or to the management core: an interrupt, a log record, a refusal. -/
inductive Message where
  | errorRecord (rec : BitVec 256)
  | interrupt (kind : Nat) (detail : W64)
  | haltReport (core seat : Nat) (cause : TrapCode) (epc0 epc1 epc2 : W64)
  | reportFault (ctx : Nat) (addr : W64)
  | addFault (launch : Nat) (addr : W64)
  | securityEvent (kind port : Nat) (owner : Nat)
  | stopReport (launch : Nat) (t : W64) (cuts : List (Nat × Nat × Bool × Nat)) (consistent : Bool)
  | frameOut (port : Nat) (frame : Frame)
  | companionOut (data : List Byte)
  | attest (statement : List Byte)
  | triggerPin (pin : Nat)
  | recovery (home version verdict : Nat)
  | revoked (index : Nat)
  | groupMismatch (group : Nat)
  deriving DecidableEq, Repr

/-- A monitor unit (R385). -/
structure Monitor where
  cfg   : W64 := 0
  flt   : W64 := 0
  count : W64 := 0
  sum   : W64 := 0
  min   : W64 := BitVec.allOnes 64
  max   : W64 := 0
  bins  : FMap W64 := []
  /-- Spans of 64 die cycles for which a level has been sampled (R386). -/
  spans : W64 := 0
  deriving DecidableEq, Repr

/-- A trace session (R389). -/
structure TraceSes where
  ctl  : W64 := 0
  base : W64 := 0
  size : W64 := 0
  head : W64 := 0
  lost : W64 := 0
  deriving DecidableEq, Repr

/-- A shootdown in progress (R349): the accesses and commands that a dropped entry translated. -/
structure Shoot where
  busy  : Bool := false
  ids   : List Nat := []
  deriving DecidableEq, Repr

/-- A bias flip in progress (R353). -/
structure Flip where
  space : Nat
  va    : W64
  bits  : Nat
  pteKey : Nat
  new   : Bool
  deriving DecidableEq, Repr

/-- A scan in progress (R382, R383): the physical core under test, the state it had, the logical core bound to it, the bin
and priority of the command, and whether the patterns run. -/
structure Scan where
  pcore : Nat
  prev  : Nat
  lcore : Option Nat
  bin   : Nat
  runs  : Bool
  deriving DecidableEq, Repr

/-- One die (R8, R335, R347, R349, R353, R373 to R391). Registers of the control window that only hold their value stand
in `ctl` by offset (R335). -/
structure DieSt where
  cycle  : W64 := 0
  ctl    : FMap W64 := []
  tlb    : List TlbEntry := []
  walks  : List WalkEntry := []
  clock  : FMap Nat := []
  shoot  : Shoot := {}
  flip   : Option Flip := none
  scan   : Option Scan := none
  phys   : FMap Phys := []
  mons   : FMap Monitor := []
  /-- Source events that a trigger line has yet to assert for, by line (R388). -/
  lines  : FMap W32 := []
  /-- Device-wide assertions of other dies on their way here, as lines (R388). -/
  remote : List Nat := []
  /-- Cores whose issue is withheld (R399). -/
  throttled : W64 := 0
  /-- LCMAP writes that wait for their cores, by logical core: the spare (R379). -/
  rebind : FMap Nat := []
  trace  : FMap TraceSes := []
  errlog : List (BitVec 256) := []
  msgs   : List Message := []
  /-- Image-pool slots in use, and the context each holds (R328). -/
  pool   : FMap Nat := []
  /-- Contexts saved, oldest exchange first (R313). -/
  savedq : List Nat := []
  deriving DecidableEq, Repr

/-- A launch record as accepted (R296, R297), with its partition and map (R299, R301). -/
structure LaunchRec where
  kind   : Nat := 0
  prio   : Nat := 0
  job    : Nat := 0
  phase  : Nat := 0
  graph  : Nat := 0
  det    : Bool := false
  stmp   : Bool := false
  pre    : Bool := false
  seats  : Nat := 0
  route  : Nat := 0
  ndims  : Nat := 0
  exts   : List Nat := []
  n      : Nat := 0
  entry  : W64 := 0
  args   : W64 := 0
  handler : W64 := 0
  micro  : W64 := 0
  seed   : W64 := 0
  inmask : Nat := 0
  outen  : Nat := 0
  outslot : List Nat := []
  profiles : W64 := 0
  after0 : Nat := 0
  after1 : Nat := 0
  doneaddr : W64 := 0
  failaddr : W64 := 0
  share0 : Share := {}
  share1 : Share := {}
  space  : Nat := 0
  queue  : Nat := 0
  deriving DecidableEq, Repr

/-- A pool of a placement-map entry (R301, R306): its unclaimed range and who has claimed. -/
structure Pool where
  a     : Nat
  b     : Nat
  lo    : Nat
  hi    : Nat
  die   : Nat
  cores : W64
  claimed : List Nat
  /-- Under DET: the static ranges not yet started, by logical core (R306). -/
  static : List (Nat × Nat × Nat)
  deriving DecidableEq, Repr

/-- The life of a launch (R310 to R312). -/
inductive LaunchState where
  | queued | running | ended (failed : Bool)
  deriving DecidableEq, Repr

/-- A launch: its record, its pools and its counters (R310). -/
structure Launch where
  rec_   : LaunchRec := {}
  st     : LaunchState := .queued
  pools  : List Pool := []
  done   : W64 := 0
  failed : W64 := 0
  cancelled : Bool := false
  /-- A stop in progress or complete (R333): the target T once it is known. -/
  stopping : Option (Option W64) := none
  /-- The stop is complete: the launch is stopped until it is run on or cancelled (R333, R334, R337). -/
  stopped : Bool := false
  /-- Writes of its ended contexts that were in flight when they ended (R310). -/
  writes : List Nat := []
  /-- Where its indices have been placed (R318): the order of the placement among all of the device, its range and its die. -/
  placed : List (Nat × Nat × Nat × Nat) := []
  /-- Its microprogram image as read at acceptance (R300; log entry 97). -/
  image  : Option MicroImage := none
  deriving DecidableEq, Repr

/-- An import-table entry (R359). -/
abbrev WinEntry := BitVec 192

/-- An owner admitted on a port group, at key 65,536·group + owner: its two key slots and the one in use (R355, R356). -/
structure KeySlot where
  cur : Nat := 0
  k0  : Option Nat := none
  k1  : Option Nat := none
  /-- Cycle of die 0 at which the slot in use was loaded (R356; log entry 107). -/
  since : W64 := 0
  deriving DecidableEq, Repr

/-- What another device's member has sent for a round: its descriptor and operation, its contribution in parts by element
offset, and its failure (R203, R354; log entry 29). -/
structure RankPart where
  desc : BitVec 512 := 0
  op   : Nat := 0
  data : List (Nat × List Byte) := []
  fail : Option (Nat × W64) := none
  deriving DecidableEq, Repr

/-- A group of the driver's group table (R202, R203): its size, the device of each rank that is not on this one, the
contributions that other devices' members have sent, by round and rank, the rounds done, and the failure that ranks still to
come to a failed round meet. -/
structure Group where
  size : Nat
  devs : FMap Nat := []
  got  : FMap RankPart := []
  round : Nat := 0
  late : FMap (Nat × W64) := []
  deriving DecidableEq, Repr

/-- An access that aborted because a function that it needs is not ready: the record that the controller is yet to write (R350,
R362). -/
structure Abort where
  die    : Nat
  source : Nat
  key    : Nat
  va     : W64
  seq    : W32
  lcore  : Nat
  deriving DecidableEq, Repr

/-- A steal in progress (R307, R308): the thief's seat, its victim, and the range granted once the victim has split. -/
structure Steal where
  id     : Nat
  core   : Nat
  seat   : Nat
  victim : Nat
  launch : Nat
  range  : Option (Nat × Nat) := none
  /-- Victims that have refused. -/
  tried  : List Nat := []
  deriving DecidableEq, Repr

/-- Who moves next when the agenda is empty (log entry 4): a core's seats, its array, or a unit of the device. -/
inductive Turn where
  | issue (core : Nat)
  | micro (core : Nat)
  | units (core : Nat)
  deriving DecidableEq, Repr

/-- The device outside its dies and cores. -/
structure DevSt where
  /-- Registers applied to every die's copy (R341, R361), by offset. -/
  ctl     : FMap W64 := []
  queues  : FMap (List Nat) := []
  launches : FMap Launch := []
  nextLaunch : Nat := 1
  /-- Counters of graphs, phases and jobs: level, identifier, completed, failed (R310). -/
  counts  : List (Nat × Nat × W64 × W64) := []
  lqst    : FMap W64 := []
  /-- Doorbells rung and not yet answered, oldest first: name, queue and address (R352). -/
  bells   : List (Nat × Nat × W64) := []
  exports : FMap WinEntry := []
  imports : FMap WinEntry := []
  keys    : FMap KeySlot := []
  /-- Last SEQ sent and accepted, by 65,536·port + owner (R354, R355). -/
  sent    : FMap Nat := []
  accepted : FMap Nat := []
  /-- Frames accepted at a port for this device and not yet judged. -/
  inbox   : List Frame := []
  /-- Accepted write chunks whose writes are not yet performed, and those writes (R201, R360). -/
  served  : List (Frame × List Nat) := []
  drops   : FMap W64 := []
  portDown : List Nat := []
  /-- Revokes in progress: entry and the writes of accepted chunks that must be performed first (R360). -/
  revokes : FMap (List Nat) := []
  steals  : List Steal := []
  groups  : FMap Group := []
  records : FMap Nat := []
  owner   : Nat := 0
  /-- The dies whose management core has authenticated its firmware image (R361). -/
  auth    : W32 := 0
  /-- Functions removed until the module is serviced: die, readiness register, bit (R396). -/
  removed : List (Nat × Nat × Nat) := []
  powered : Bool := true
  /-- Writes of the companion processor not yet performed everywhere, and those that its last release waits for (R278). -/
  compWrites : List Nat := []
  compWait : List Nat := []
  /-- Aborts of accesses to functions that are not ready, whose records are yet to be written (R350, R362; log entry 74). -/
  found   : List Abort := []
  deriving DecidableEq, Repr

/-- The state of the device. From `ticks` on the fields are the model's own (log entry 78): the counters of free values and
of the names of accesses, the seat whose bundle is in issue, the steps that come next, and what the last word met. -/
structure State where
  ctxs   : FMap Ctx := []
  /-- The context in bank b of core c, at key 3·c + b; unlisted: context 3·c + b itself. -/
  banks  : FMap Nat := []
  cores  : FMap CoreSt := []
  dies   : FMap DieSt := []
  dev    : DevSt := {}
  mem    : List Host.Cell := []
  /-- The bytes of the persist domain (R279). -/
  nv     : List Host.Cell := []
  /-- Granules with an uncorrectable error, by physical key (R350). -/
  poison : List Nat := []
  writes : List WriteRec := []
  /-- Writes that memory took lately, oldest first. -/
  past   : List Past := []
  loads  : List LoadRec := []
  bmsgs  : List BarMsg := []
  out    : List Message := []
  ticks  : Nat := 0
  nextId : Nat := 1
  me     : Nat := 0
  agenda : List Instr := []
  turn   : Turn := .issue 0
  /-- Which of the units' events comes next, by turns (log entry 4). -/
  phase  : Nat := 0
  raised : Option TrapRec := none
  held   : Option Hold := none
  deriving DecidableEq, Repr

/-- The machine right after reset: every field at its reset value, nothing running, memory with nothing listed. -/
def State.reset : State := {}

end Sys2Proof.Machine
end

