-- ==== Sys2Proof/Machine/Ops.lean ====
section
/-! DEFINITION. The operations every meaning is written over: contexts and their registers (R14, R15), pending writes
(R18 to R20), load- and store-queue heads (R22 to R27), TAKING A TRAP and entering a level (R320 to R322), returning from
one (R125), and halting. -/
namespace Sys2Proof.Machine

/-- How a word of the bundle in issue fails to complete: a trap of R323, a hold of R44, or a model fault. -/
inductive Stop where
  | trap (t : TrapRec)
  | hold (h : Hold)
  | fault (f : Fault)
  deriving DecidableEq, Repr

/-- The result of a word's own effect. -/
abbrev Res (α : Type) := Except Stop α

/-- Raise a trap of rank `rank` from a word of class `cls` (R323). -/
def trapOf {α : Type} (rank cls : Nat) (code : TrapCode) (tval : W64) : Res α :=
  .error (.trap { rank := rank, cls := cls, code := code, tval := tval })

/-- Hold the bundle (R44). -/
def holdOf {α : Type} (h : Hold) : Res α := .error (.hold h)

/-- Two operands read together: a hold of either comes before a trap of either, and of two traps the one of lower rank
(R44, R323). -/
def both {α β : Type} (a : Res α) (b : Res β) : Res (α × β) :=
  match a, b with
  | .ok x, .ok y => .ok (x, y)
  | .error (.hold h), _ => .error (.hold h)
  | _, .error (.hold h) => .error (.hold h)
  | .error (.trap t), .error (.trap u) => .error (.trap (if u.rank < t.rank then u else t))
  | .error e, _ => .error e
  | _, .error e => .error e

/-- A trap that a word meets whatever its operands give: a hold or a model fault of the operands comes before it, and of it
and a trap of the operands the one of lower rank is taken (R44, R323). -/
def trapFirst {α : Type} (t : Option TrapRec) (r : Res α) : Res α :=
  match t, r with
  | none, r => r
  | some t, .ok _ => .error (.trap t)
  | some t, .error (.trap u) => .error (.trap (if u.rank < t.rank then u else t))
  | some _, .error e => .error e

/-! Contexts -/

/-- The context with key `k`. -/
def State.ctx (s : State) (k : Nat) : Ctx := fget {} s.ctxs k
/-- The context of the bundle in issue. -/
def State.my (s : State) : Ctx := s.ctx s.me
/-- The state with context `k` replaced. -/
def State.setCtx (s : State) (k : Nat) (c : Ctx) : State := { s with ctxs := fset s.ctxs k c }
/-- The state with the issuing context replaced. -/
def State.setMy (s : State) (c : Ctx) : State := s.setCtx s.me c
/-- The context in bank `b` of core `c`. -/
def State.bankOf (s : State) (c b : Nat) : Nat := fget (3 * c + b) s.banks (3 * c + b)
/-- Core `c`. -/
def State.core (s : State) (c : Nat) : CoreSt := fget {} s.cores c
/-- The state with core `c` replaced. -/
def State.setCore (s : State) (c : Nat) (x : CoreSt) : State := { s with cores := fset s.cores c x }
/-- Die `d`. -/
def State.die (s : State) (d : Nat) : DieSt := fget {} s.dies d
/-- The state with die `d` replaced. -/
def State.setDie (s : State) (d : Nat) (x : DieSt) : State := { s with dies := fset s.dies d x }
/-- The launch with identifier `l`. -/
def State.launch (s : State) (l : Nat) : Launch := fget {} s.dev.launches l
/-- The state with launch `l` replaced. -/
def State.setLaunch (s : State) (l : Nat) (x : Launch) : State :=
  { s with dev := { s.dev with launches := fset s.dev.launches l x } }
/-- The state with a message added for the management cores and the driver. -/
def State.tell (s : State) (m : Message) : State := { s with out := s.out ++ [m] }

/-- The die of a core: logical cores 64 to a die; the management core of die d is core 2,048 + d (R1, R402). -/
def dieOf (core : Nat) : Nat := if core < 2048 then core / 64 else (core - 2048) % 32
/-- The quad of a core (R7); a management core is alone in its own. -/
def quadOf (core : Nat) : Nat := if core < 2048 then core / 4 else core

/-- The privilege level of a STATUS value: 0 program, 1 handler, 2 firmware (R120). -/
def lvlOf (status : W64) : Nat := status.toNat % 4
/-- The level a context runs at. -/
def Ctx.lvl (c : Ctx) : Nat := lvlOf c.sys.status
/-- Watchpoints armed (R120). -/
def Ctx.wen (c : Ctx) : Bool := bit c.sys.status 6
/-- Runs by issue stamps now: a stamped context at program level (R315). -/
def Ctx.stamped (c : Ctx) : Bool := c.run.stmp && decide (c.lvl = 0)

/-- STATUS of a level with a context's launch flags (R120): bits 3 DET, 4 STMP, 5 PRE, 6 WEN, 1:0 LVL. -/
def statusOf (r : Run) (lvl : Nat) (wen : Bool) : W64 :=
  BitVec.ofNat 64 (lvl % 4 + 8 * b2n r.det + 16 * b2n r.stmp + 32 * b2n r.pre + 64 * b2n wen)

/-! Registers -/

/-- A 64-bit value as the low part of a register. -/
def wide64 (v : W64) : Wide := v.setWidth 1024
/-- Bits 63:0 of a register. -/
def lo64 (v : Wide) : W64 := v.setWidth 64

/-- The head of load queue `q`, read or popped by a word of class `cls` (R22, R23, R26). -/
def headOf (c : Ctx) (cls q : Nat) : Res Wide :=
  match fget [] c.q.lq q with
  | [] => trapOf 12 cls 0x05 (BitVec.ofNat 64 q)
  | e :: _ =>
    match e.st with
    | .reserved => holdOf .head
    | .faulted => trapOf 11 cls 0x13 e.faddr
    | .arrived => .ok e.data

/-- An S-register operand (R102): s0 reads 0, fields 56 to 63 read heads. -/
def rdS (c : Ctx) (cls i : Nat) : Res W64 :=
  if i = 0 then .ok 0
  else if 56 ≤ i then (headOf c cls (i - 56)).map lo64
  else .ok (fget 0 c.regs.s i)

/-- The class of a vector slot (R47). -/
def VSlot.cls : VSlot → Nat
  | .v0 => 2
  | .v1 => 3
/-- The class of a copy slot (R47). -/
def CSlot.cls : CSlot → Nat
  | .c0 => 5
  | .c1 => 6

/-- A vector operand (R23): fields 24 to 31 read heads. -/
def rdV (c : Ctx) (sl : VSlot) (i : Nat) : Res Wide :=
  if 24 ≤ i then headOf c (VSlot.cls sl) (i - 24)
  else .ok (match sl with | .v0 => fget 0 c.regs.va i | .v1 => fget 0 c.regs.vb i)

/-- A mask operand: k0 reads all true (R14). -/
def rdK (c : Ctx) (sl : VSlot) (i : Nat) : W32 :=
  if i = 0 then BitVec.allOnes 32
  else match sl with | .v0 => fget 0 c.regs.ka i | .v1 => fget 0 c.regs.kb i

/-- An address register of a copy slot. -/
def rdC (c : Ctx) (sl : CSlot) (i : Nat) : W64 :=
  match sl with | .c0 => fget 0 c.regs.ca i | .c1 => fget 0 c.regs.cb i

/-- The pending writes of the level a context runs at (R20). -/
def Ctx.pend (c : Ctx) : List Pend :=
  if c.lvl = 0 then c.flow.pend0 else if c.lvl = 1 then c.flow.pend1 else c.flow.pend2

/-- The context with the pending writes of its level replaced. -/
def Ctx.setPend (c : Ctx) (p : List Pend) : Ctx :=
  if c.lvl = 0 then { c with flow := { c.flow with pend0 := p } }
  else if c.lvl = 1 then { c with flow := { c.flow with pend1 := p } }
  else { c with flow := { c.flow with pend2 := p } }

/-- Two pending writes that would land together on one register (R19). -/
def Pend.clash (a b : Pend) : Bool :=
  decide (a.cls = b.cls) && decide (a.reg = b.reg) && decide (a.kind = b.kind) && decide (a.delay = b.delay)

/-- TVAL of a same-cycle write (R19, R46). -/
def clashTval (p : Pend) : W64 := BitVec.ofNat 64 (p.cls % 8 + p.reg % 256 * 8 + p.kind % 4 * 2048)

/-- The same-cycle write that a write of register `reg` with latency `lat` would be (R19). -/
def clashTrap (c : Ctx) (cls kind reg lat : Nat) : Option TrapRec :=
  let p : Pend := { cls := cls, reg := reg, kind := kind, delay := lat, value := 0 }
  if c.pend.any (Pend.clash p) then some { rank := 7, cls := cls, code := 0x02, tval := clashTval p } else none

/-- The same-cycle write of a scalar destination; s0 has none (R19). -/
def clashS (c : Ctx) (d lat : Nat) : Option TrapRec := if d = 0 then none else clashTrap c 1 0 d lat

/-- The same-cycle write of a vector destination (R19). -/
def clashV (c : Ctx) (sl : VSlot) (d lat : Nat) : Option TrapRec := clashTrap c (VSlot.cls sl) 0 d lat

/-- The same-cycle write of a mask destination; k0 has none (R19). -/
def clashK (c : Ctx) (sl : VSlot) (d lat : Nat) : Option TrapRec := if d = 0 then none else clashTrap c (VSlot.cls sl) 1 d lat

/-- A pending write added to the issuing context's level, unless it clashes (R18, R19). -/
def addPend (c : Ctx) (p : Pend) : Res Ctx :=
  if c.pend.any (Pend.clash p) then trapOf 7 p.cls 0x02 (clashTval p)
  else .ok (c.setPend (c.pend ++ [p]))

/-- A register write of class `cls` with latency `lat` from the bundle in issue (R18). -/
def putReg (s : State) (cls kind reg lat : Nat) (v : Wide) : Res State :=
  (addPend s.my { cls := cls, reg := reg, kind := kind, delay := lat, value := v }).map s.setMy

/-- A write of a scalar register; s0 drops it (R15). -/
def putS (s : State) (d lat : Nat) (v : W64) : Res State :=
  if d = 0 then .ok s else putReg s 1 0 d lat (wide64 v)

/-- A write of a vector register. -/
def putV (s : State) (sl : VSlot) (d lat : Nat) (v : Wide) : Res State := putReg s (VSlot.cls sl) 0 d lat v

/-- A write of a mask; k0 drops it (R15). -/
def putK (s : State) (sl : VSlot) (d lat : Nat) (v : W32) : Res State :=
  if d = 0 then .ok s else putReg s (VSlot.cls sl) 1 d lat (v.setWidth 1024)

/-- A write of an x register. -/
def putX (s : State) (d lat : Nat) (v : Wide) : Res State := putReg s 7 0 d lat v
/-- A write of a scale register. -/
def putE (s : State) (d lat : Nat) (v : BitVec 256) : Res State := putReg s 7 2 d lat (v.setWidth 1024)
/-- A write of an address register. -/
def putC (s : State) (sl : CSlot) (d lat : Nat) (v : W64) : Res State := putReg s (CSlot.cls sl) 0 d lat (wide64 v)
/-- A write of a shadow parameter register (R216). -/
def putP (s : State) (d lat : Nat) (v : W64) : Res State := putReg s 4 0 d lat (wide64 v)

/-- One pending write lands (R18). -/
def landOne (r : Regs) (p : Pend) : Regs :=
  if p.cls = 1 then { r with s := fset r.s p.reg (lo64 p.value) }
  else if p.cls = 2 then
    (if p.kind = 1 then { r with ka := fset r.ka p.reg (p.value.setWidth 32) } else { r with va := fset r.va p.reg p.value })
  else if p.cls = 3 then
    (if p.kind = 1 then { r with kb := fset r.kb p.reg (p.value.setWidth 32) } else { r with vb := fset r.vb p.reg p.value })
  else if p.cls = 4 then { r with psh := fset r.psh p.reg (lo64 p.value) }
  else if p.cls = 5 then { r with ca := fset r.ca p.reg (lo64 p.value) }
  else if p.cls = 6 then { r with cb := fset r.cb p.reg (lo64 p.value) }
  else if p.kind = 2 then { r with e := fset r.e p.reg (p.value.setWidth 256) }
  else { r with x := fset r.x p.reg p.value }

/-- The pending writes that land at the end of this seat cycle. -/
def duePend (ps : List Pend) : List Pend := ps.filter (fun p => decide (p.delay ≤ 1))
/-- The pending writes that stay, one seat cycle nearer. -/
def laterPend (ps : List Pend) : List Pend :=
  (ps.filter (fun p => decide (¬ p.delay ≤ 1))).map (fun p => { p with delay := p.delay - 1 })

/-- One seat cycle of the register schedule: due writes land, the others come one cycle nearer (R17, R18). -/
def Ctx.cyclePend (c : Ctx) : Ctx :=
  ({ c with regs := (duePend c.pend).foldl landOne c.regs }).setPend (laterPend c.pend)

/-! Issue-scratch helpers -/

/-- An effect for the end of the bundle in issue. -/
def atEnd (s : State) (fx : EndFx) : State :=
  let c := s.my
  s.setMy { c with iss := { c.iss with fx := c.iss.fx ++ [fx] } }

/-- TVAL of an issue-time ILLEGAL_OP with bit 17 set (R46). -/
def opTval (reason cls detail : Nat) : W64 :=
  BitVec.ofNat 64 (0x20000 + reason % 16 * 4096 + cls % 8 * 512 + detail % 256)

/-- Store queue `w` after an entry is appended (R27). -/
def pushEntry (s : State) (w : Nat) (e : WEntry) : State :=
  let c := s.my
  s.setMy { c with q := { c.q with sq := fset c.q.sq w (fget [] c.q.sq w ++ [e]) } }

/-- Take `n` entries from the head of store queue `w` (R27): QUEUE_UNDERFLOW when it holds fewer. -/
def takeEntries (s : State) (cls w n : Nat) : Res (List WEntry × State) :=
  let c := s.my
  let es := fget [] c.q.sq w
  if es.length < n then trapOf 12 cls 0x05 (BitVec.ofNat 64 (8 + w))
  else .ok (es.take n, s.setMy { c with q := { c.q with sq := fset c.q.sq w (es.drop n) } })

/-- The bytes of a store-queue entry read as `n` bits at bit `lo`: bytes it does not hold are 0 (R179). -/
def WEntry.bytes (e : WEntry) : Wide := BitVec.ofNat 1024 (e.data.toNat % 2 ^ (8 * e.count))

/-- The next sequence number of the issuing context, and the state after taking it (R174). -/
def takeSeq (s : State) : W32 × State :=
  let c := s.my
  (c.ctr.seqno, s.setMy { c with ctr := { c.ctr with seqno := c.ctr.seqno + 1 } })

/-- The SRSTATE value a stochastic instruction draws from, and the state with its use counted (R87, R122). -/
def takeSr (s : State) : W64 × State :=
  let c := s.my
  (c.ctr.srstate + BitVec.ofNat 64 c.iss.sruses, s.setMy { c with iss := { c.iss with sruses := c.iss.sruses + 1 } })

/-- A name for an access, write or message in flight. -/
def takeId (s : State) : Nat × State := (s.nextId, { s with nextId := s.nextId + 1 })

/-- A stored barrier fault is raised by a word of class `cls` (R168). -/
def barStored (c : Ctx) (cls : Nat) : Res Unit :=
  match c.barFault with
  | some t => trapOf 16 cls 0x16 t
  | none => .ok ()

/-! Units of work -/

/-- `n` units of launch `l` counted failed (R305, R310). -/
def failUnits (s : State) (l n : Nat) : State :=
  let x := s.launch l
  s.setLaunch l { x with failed := x.failed + BitVec.ofNat 64 n }

/-- `n` units of launch `l` counted completed. -/
def doneUnits (s : State) (l n : Nat) : State :=
  let x := s.launch l
  s.setLaunch l { x with done := x.done + BitVec.ofNat 64 n }

/-- A range given back by a core to the pool of its map entry; under DET it stays that core's. Of a cancelled launch it is
counted failed (R305, R306, R322). -/
def giveBack (s : State) (l core a b : Nat) : State :=
  if b ≤ a then s
  else
    let x := s.launch l
    if x.cancelled then failUnits s l (b - a)
    else
      match x.pools.find? (fun p => decide (p.lo ≤ a ∧ a < p.hi)) with
      | some p =>
        s.setLaunch l { x with pools := x.pools ++ [if x.rec_.det then { p with a := b, b := b, static := [(core, a, b)] }
          else { p with a := a, b := b, static := [] }] }
      | none => failUnits s l (b - a)

/-! Levels -/

/-- The chain written at an entry: the bundle next to issue and the two after it (R32). -/
def Ctx.enter (c : Ctx) (T : Nat) (code : W64) (tval : W64) (n0 n1 n2 : W64) : Ctx :=
  let st := putFld (putFld c.sys.status 6 (0 : BitVec 1)) 0 (BitVec.ofNat 2 T)
  let sys := if T = 1 then
      { c.sys with
        estatus := c.sys.status, epc0 := n0, epc1 := n1, epc2 := n2, tcause := code, tval := tval, status := st }
    else
      { c.sys with
        fstatus := c.sys.status, fepc0 := n0, fepc1 := n1, fepc2 := n2, fcause := code, fval := tval, status := st }
  { c with
    sys := sys
    remote := false
    iss := {}
    flow := { c.flow with
      npc0 := if T = 1 then c.sys.tvec else c.sys.ftvec
      npc1 := 1, npc2 := 1, delay := 0, bubble := 0, bubnext := 0, framing := 0, framed := false, holding := false, idle := false, wake := false } }

/-- HALT (R322): the seat issues nothing more; its step is counted failed and the rest of its range goes back to the
pool; undelivered reports go only into the halt record, and the management core reports the halt with the seat, the cause
and the PC chain. -/
def haltCtx (s : State) (k : Nat) (cause : TrapCode) : State :=
  let c := s.ctx k
  let s1 := s.setCtx k { c with
    remote := false
    run := { c.run with halted := true, wst := .none }
    dbg := { c.dbg with st := 5, ask := false }
    iss := {}
    reports := []
    haltRec := c.reports }
  let s2 := s1.tell (.haltReport c.run.lcore c.run.bank cause c.flow.npc0 c.flow.npc1 c.flow.npc2)
  if c.run.wst = .none then s2
  else giveBack (failUnits s2 c.run.launch 1) c.run.launch c.run.lcore (c.run.cur + 1) c.run.hi

/-- The level a trap arising at `lvl` goes to: 3 stands for a halt (R320). -/
def trapTarget (lvl : Nat) (code : TrapCode) (att : Bool) : Nat :=
  if lvl = 0 then (if code = 0x0C ∧ att then 2 else 1) else if lvl = 1 then 2 else 3

/-- TAKING A TRAP at context `k` (R320, R321, R45): the bundle is squashed; due pending writes land and the others
freeze. R20 and R45 do not say whether those others come one seat cycle nearer in the trapping cycle before they freeze: here they
do, for a trap of any stage (DESIGN CHOICE, log entry 101). The chain and the cause are saved at the target level; fetch goes on at its vector. At firmware level the seat
halts. BARRIER_FAULT takes the fault stored in the context with it (R168). -/
def takeTrapAt (s : State) (k : Nat) (code : TrapCode) (tval : W64) (cycle : Bool) : State :=
  let c := s.ctx k
  let T := trapTarget c.lvl code c.dbg.att
  let c0 := if code = 0x16 then { c with barFault := none } else c
  let c1 := if cycle then c0.cyclePend else c0
  let s1 := s.setCtx k c1
  if T = 3 then haltCtx s1 k code
  else s1.setCtx k (c1.enter T (code.setWidth 64) tval c1.flow.npc0 c1.flow.npc1 c1.flow.npc2)

/-- Taking a synchronous trap at the issuing context; `raised` tells the bundle what its word met. -/
def takeTrap (s : State) (t : TrapRec) : State :=
  { takeTrapAt s s.me t.code t.tval true with raised := some t }

/-- TVAL of STAMP_OVERRUN (R315). -/
def stampTval (c : Ctx) (code : Nat) : W64 :=
  let form := (hdrForm c.iss.hdr).toNat
  let stamp := if form = 1 then (hdrStamp c.iss.hdr).toNat else 0
  BitVec.ofNat 64 (stamp + form * 512 + code % 8 * 4096 + c.ctr.frame.toNat % 2 ^ 48 * 65536)

/-- The hold code of R315. -/
def holdCode : Hold → Nat
  | .head => 1
  | .waitCount => 2
  | .counterFull => 3
  | .callQueue => 4
  | .tile => 5
  | .barrier => 6
  | .other | .drain | .idle => 7
  | .framing _ => 0

/-- What a hold becomes: in a stamped context at program level STAMP_OVERRUN, framing holds apart (R44, R315). The hold of
`tret` overruns in a stamped context at the level it returns from (R125; log entry 80). -/
def holdOrOverrun (s : State) (h : Hold) : Option TrapRec :=
  match h with
  | .framing _ => none
  | h => if s.my.stamped || (decide (h = .drain) && s.my.run.stmp) then some { rank := 5, cls := 0, code := 0x10, tval := stampTval s.my (holdCode h) } else none

/-- The outcome of a word run by itself: its own next state, the trap it takes, or the hold it meets. -/
def complete (s : State) (r : Res State) : Host.Outcome State Fault Refusal :=
  match r with
  | .ok s' => .next s'
  | .error (.trap t) => .next (takeTrap s t)
  | .error (.hold h) =>
    match holdOrOverrun s h with
    | some t => .next (takeTrap s t)
    | none => .next { s with held := some h }
  | .error (.fault f) => .fault f

end Sys2Proof.Machine
end

