-- ==== Sys2Proof/Machine/Units.lean ====
section
/-! DEFINITION. Units of a die that other steps reach: the logical core map and the reliability blocks (R373, R378), the
readiness of functions (R8, R361, R362), the monitors' samples (R385, R386) and the trigger sources (R388). -/
namespace Sys2Proof.Machine

/-- A register of a die's control window that only holds its value (R335). -/
def dieReg (s : State) (d off : Nat) (reset : W64) : W64 := fget reset (s.die d).ctl off
/-- That register written. -/
def setDieReg (s : State) (d off : Nat) (v : W64) : State :=
  let x := s.die d
  s.setDie d { x with ctl := fset x.ctl off v }
/-- A register applied to every die's copy (R341, R361). -/
def devReg (s : State) (off : Nat) (reset : W64) : W64 := fget reset s.dev.ctl off
/-- That register written. -/
def setDevReg (s : State) (off : Nat) (v : W64) : State := { s with dev := { s.dev with ctl := fset s.dev.ctl off v } }

/-! Logical and physical cores (R378) -/

/-- LCMAPc of a die (R378). -/
def lcmapOf (s : State) (d c : Nat) : W64 := dieReg s d (0x4600 + 8 * c) (BitVec.ofNat 64 (0x80 + c))
/-- The physical core bound to a core (R378); a management core has a number of its own. -/
def physOf (s : State) (core : Nat) : Nat :=
  if core < 2048 then (fld (lcmapOf s (core / 64) (core % 64)) 0 7).toNat else 127
/-- The logical core of a die that a physical core serves (R378). -/
def logicalOf (s : State) (d p : Nat) : Option Nat :=
  (List.range 64).find? (fun c => bit (lcmapOf s d c) 7 && decide ((fld (lcmapOf s d c) 0 7).toNat = p))
/-- PCSTATp of a die (R378). -/
def pcstat (s : State) (d p : Nat) : W64 := dieReg s d (0x4800 + 8 * p) (if p < 64 then 0 else 1)
/-- STATE of PCSTAT: 0 in service, 1 spare, 2 retest, 3 failed, 4 scanning. -/
def pcState (v : W64) : Nat := (fld v 0 3).toNat
/-- BIN of PCSTAT. -/
def pcBin (v : W64) : Nat := (fld v 4 2).toNat
/-- The reliability block of a physical core (R373). -/
def physAt (s : State) (d p : Nat) : Phys := fget {} (s.die d).phys p
/-- That block replaced. -/
def setPhysAt (s : State) (d p : Nat) (x : Phys) : State :=
  let y := s.die d
  s.setDie d { y with phys := fset y.phys p x }
/-- The reliability block of the core that runs as `core`. -/
def relOf (s : State) (core : Nat) : Phys := physAt s (dieOf core) (physOf s core)
/-- That block replaced. -/
def setRel (s : State) (core : Nat) (x : Phys) : State := setPhysAt s (dieOf core) (physOf s core) x

/-! Readiness (R8, R361, R362) -/

/-- DRDY of a die. -/
def drdy (s : State) (d : Nat) : W64 := dieReg s d 0x4500 0
/-- A logical core is ready: its die, its bit of CRDY, and a core bound to it (R361, R379). -/
def coreReady (s : State) (core : Nat) : Bool :=
  let d := core / 64
  bit (drdy s d) 0 && bit (dieReg s d 0x4508 0) (core % 64) && bit (lcmapOf s d (core % 64)) 7
/-- The Alvel link is ready. -/
def linkReady (s : State) : Bool := bit (devReg s 0x4528 0) 0

/-- The bridge of a die towards a neighbour, as its bit of DRDY: bits 6:3 are north, south, west and east (R8; log entry
89). -/
def bridgeBit (a b : Nat) : Nat := if b + 8 = a then 6 else if b = a + 8 then 5 else if b + 1 = a then 4 else 3
/-- A bit of DRDY names a function that the die has: a bridge needs its neighbour (R8). -/
def hasFunction (d i : Nat) : Bool :=
  match i with
  | 3 => decide (d % 8 ≠ 7)
  | 4 => decide (d % 8 ≠ 0)
  | 5 => decide (d < 24)
  | 6 => decide (8 ≤ d)
  | _ => true
/-- The next die on the way from one die to another: along the row first, then along the column (R8). -/
def nextDie (a b : Nat) : Nat :=
  if a % 8 < b % 8 then a + 1 else if b % 8 < a % 8 then a - 1 else if a < b then a + 8 else a - 8
/-- Every bridge on the way from a die to another is ready at both ends (R8, R362). -/
def bridged (s : State) : (fuel : Nat) → (a b : Nat) → Bool
  | 0, a, b => decide (a = b)
  | fuel + 1, a, b =>
    if a = b then true
    else
      let n := nextDie a b
      bit (drdy s a) (bridgeBit a n) && bit (drdy s n) (bridgeBit n a) && bridged s fuel n b

/-- The HBM stack of byte `o` of a die's HBM, and the NV stack of byte `o` of the NV tier (R1; log entry 25). -/
def hbmStack (o : Nat) : Nat := o * 2 / Config.hbmSize
/-- The NV stack of byte `o`. -/
def nvStack (o : Nat) : Nat := o * 16 / Config.nvSize

/-- The functions an access of a die needs are ready: the bridges to the home die, the home die and the stack that holds
the byte, or the Alvel link (R362). `tgt` and `o` are the target and byte offset of R343. -/
def reaches (s : State) (d home tgt o : Nat) (host : Bool) : Bool :=
  bridged s 10 d home && bit (drdy s home) 0
    && (if tgt = 0 then bit (drdy s home) (1 + min (hbmStack o) 1)
        else if tgt = 1 then bit (devReg s 0x4510 0) (min (nvStack o) 15)
        else linkReady s)
    && (!host || linkReady s)

/-! Lost cycles (R387) -/

/-- A lost-cycle counter as it stands (R387): requester 0 never waits (R243), and what another has waited since its counter was
cleared is free (log entry 46). -/
def lostCount (s : State) (d p i : Nat) : W16 :=
  let t := fget 0 (physAt s d p).lost i
  let n := (s.die d).cycle
  if i < 32 ∨ t = n then 0 else Config.lostCycles (128 * d + p) i t n

/-! Trigger sources (R388) -/

/-- A source event of a die: every line that selects the source has it to assert (R388). -/
def raiseSource (s : State) (d k : Nat) : State :=
  let x := s.die d
  let ls := x.ctl.filter (fun (p : Nat × W64) => decide (0x6000 ≤ p.1 ∧ p.1 < 0x6200) && bit p.2 k && decide (k < 29))
  s.setDie d { x with
    lines := ls.foldl (fun (m : FMap W32) (p : Nat × W64) =>
      let l := (p.1 - 0x6000) / 8
      fset m l (fget 0 m l ||| BitVec.ofNat 32 (2 ^ k))) x.lines }

/-! Monitors (R385, R386) -/

/-- The histogram bin of a sample (R385). -/
def monBin (v : W64) : Nat := if v = 0 then 0 else min 31 (Nat.log2 v.toNat + 1)

/-- One sample taken by a unit (R385). -/
def takeSample (m : Monitor) (v : W64) : Monitor :=
  let b := monBin v
  { m with
    count := m.count + 1
    sum := m.sum + v
    min := if v.toNat < m.min.toNat then v else m.min
    max := if m.max.toNat < v.toNat then v else m.max
    bins := fset m.bins b (if (fget 0 m.bins b).toNat = 2 ^ 32 - 1 then fget 0 m.bins b else fget 0 m.bins b + 1) }

/-- What a sample comes from: its core of the die, its seat and its launch. -/
structure From where
  core   : Nat
  seat   : Nat
  launch : Nat

/-- A unit's filter passes a sample (R385). -/
def monPasses (m : Monitor) (f : From) : Bool :=
  match (fld m.cfg 48 2).toNat with
  | 0 => true
  | 1 => decide ((fld m.flt 0 6).toNat = f.core % 64)
  | 2 => decide ((fld m.flt 0 6).toNat = f.core % 64) && decide ((fld m.flt 6 1).toNat = f.seat)
  | _ => decide ((fld m.flt 32 32).toNat = f.launch % 2 ^ 32)

/-- A unit samples a source, for what its filter passes (R385). -/
def monTakes (m : Monitor) (src : Nat) (f : From) : Bool := bit m.cfg 63 && decide ((fld m.cfg 50 6).toNat = src) && monPasses m f

/-- A unit that samples a level (R386). -/
def monLevel (cfg : W64) : Bool := bit cfg 63 && decide (10 ≤ (fld cfg 50 6).toNat) && decide ((fld cfg 50 6).toNat ≤ 12)

/-- Spans of 64 die cycles that are over (R386). -/
def spansOver (s : State) (d : Nat) : Nat := (s.die d).cycle.toNat / 64

/-- A unit has a level to sample: one more span of 64 die cycles is over (R386). -/
def levelDue (s : State) (d u : Nat) : Bool :=
  let m := fget {} (s.die d).mons u
  monLevel m.cfg && decide (m.spans.toNat < spansOver s d)

/-- One unit of a die samples an event of a source (R385). -/
def sampleUnit (s : State) (d u src : Nat) (f : From) (v : W64) : State :=
  let x := s.die d
  let m := fget {} x.mons u
  if monTakes m src f then
    let s1 := s.setDie d { x with mons := fset x.mons u (takeSample m v) }
    let thr := (fld m.cfg 43 5).toNat
    if thr ≠ 0 ∧ thr ≤ monBin v then raiseSource s1 d u else s1
  else s

/-- Every unit of a die that samples a source does so (R385). -/
def sample (s : State) (d src : Nat) (f : From) (v : W64) : State :=
  ((s.die d).mons.map (·.1)).foldl (fun s u => sampleUnit s d u src f v) s

/-- An access asks the die stores of some dies for a line: whether it misses there, and how long the data then take, is free
(R347, R386; log entry 46). `stamp` and `part` name the access. -/
def sampleMisses (s : State) (dies : List Nat) (f : From) (stamp part : Nat) : State :=
  dies.eraseDups.foldl (fun s d => ((s.die d).mons.map (·.1)).foldl (fun s u =>
    if monTakes (fget {} (s.die d).mons u) 7 f && Config.dieMiss stamp part d then sampleUnit s d u 7 f (Config.missCycles stamp part d)
    else s) s) s

/-- The seat of context `k`, for a filter. -/
def fromCtx (s : State) (k : Nat) : From :=
  let r := (s.ctx k).run
  { core := r.lcore, seat := r.bank, launch := r.launch }

/-- Cycle count of the die of a core (R391). -/
def nowAt (s : State) (core : Nat) : W64 := (s.die (dieOf core)).cycle

/-- A latency sampled for a command or access of context `k` that was issued at `t0` (R386). -/
def sampleFor (s : State) (k src : Nat) (t0 : W64) : State :=
  let core := (s.ctx k).run.lcore
  sample s (dieOf core) src (fromCtx s k) (nowAt s core - t0)

end Sys2Proof.Machine
end

