-- ==== Sys2Proof/Machine/CtlRead.lean ====
section
/-! DEFINITION. Reads of a die's control window (R335, R341, R349, R353, R361, R373 to R390, R396, R402): every register by its
offset, in 8-byte words. -/
namespace Sys2Proof.Machine

/-- ST of a bank (R335): 6 while it exchanges, 5 halted; 0 with no context that it runs, as in standby. -/
def stOf (s : State) (core bank : Nat) : Nat :=
  let c := s.ctx (s.bankOf core bank)
  let ex := match (s.core core).exch with | some e => decide (e.seat = bank) | none => false
  if ex then 6 else if c.run.halted then 5 else if c.run.live && !c.run.saved && decide (bank < 2) then c.dbg.st else 0

/-- SCTL of a bank (R335): CMD reads 0. -/
def sctlWord (s : State) (core bank : Nat) : W64 :=
  let c := s.ctx (s.bankOf core bank)
  let st := stOf s core bank
  BitVec.ofNat 64 (st % 16 * 2 ^ 24 + b2n c.dbg.att * 2 ^ 23 + b2n c.dbg.steph * 2 ^ 22 + b2n c.dbg.err * 2 ^ 21)

/-- Eight byte registers as one word. -/
def bytesWord (f : Nat → BitVec 8) : W64 := BitVec.ofNat 64 (joinLanes 8 ((List.range 8).map (fun i => (f i).toNat)))

/-- A monitor unit's word (R385). -/
def monWord (m : Monitor) (o : Nat) : W64 :=
  if o = 0x00 then putFld m.cfg 62 (0 : BitVec 1)
  else if o = 0x08 then m.flt
  else if o = 0x10 then m.count
  else if o = 0x18 then m.sum
  else if o = 0x20 then m.min
  else if o = 0x28 then m.max
  else if 0x40 ≤ o ∧ o < 0xC0 then
    BitVec.ofNat 64 ((fget 0 m.bins ((o - 0x40) / 4)).toNat % 2 ^ 32
      + 2 ^ 32 * ((fget 0 m.bins ((o - 0x40) / 4 + 1)).toNat % 2 ^ 32))
  else 0

/-- A trace session's word (R389). -/
def traceWord (t : TraceSes) (o : Nat) : W64 :=
  if o = 0 then t.ctl else if o = 8 then t.base else if o = 16 then t.size else t.head

/-- A word of a reliability block (R373 to R376, R387). -/
def relWord (s : State) (d p o : Nat) : W64 :=
  let x := physAt s d p
  if o < 0x400 then
    (match fget? x.cklog (o / 16) with
     | some e => if o % 16 < 8 then e.lo else e.hi
     | none => 0)
  else if o = 0x400 then BitVec.ofNat 64 (x.written % 64 + 2 ^ 32 * (x.written % 2 ^ 32))
  else if o = 0x408 then x.retire
  else if 0x440 ≤ o ∧ o < 0x4C8 then bytesWord (fun i => fget 0 x.evid (o - 0x440 + i))
  else if 0x500 ≤ o ∧ o < 0x588 then bytesWord (fun i => fget 0 x.erow (o - 0x500 + i))
  else if 0x600 ≤ o ∧ o < 0x800 then
    BitVec.ofNat 64 (joinLanes 16 ((List.range 4).map (fun i => (lostCount s d p ((o - 0x600) / 2 + i)).toNat)))
  else 0

/-- The 8-byte word at an 8-byte-aligned offset of a die's control window; an offset that names no register reads 0
(R335). -/
def ctlWord (s : State) (d off : Nat) : W64 :=
  if off < 0x3000 then (if off % 0x40 = 0 then sctlWord s (64 * d + off / 0x40 / 3) (off / 0x40 % 3) else 0)
  else if 0x4100 ≤ off ∧ off < 0x4300 then devReg s off 0
  else if 0x4300 ≤ off ∧ off < 0x4340 then devReg s off 0
  else if off = 0x4340 then BitVec.ofNat 64 Config.hbmSize
  else if off = 0x4348 then BitVec.ofNat 64 Config.nvSize
  else if off = 0x4430 then devReg s off 120000
  else if 0x4510 ≤ off ∧ off < 0x4530 then devReg s off 0
  else if 0x4600 ≤ off ∧ off < 0x4800 then lcmapOf s d ((off - 0x4600) / 8)
  else if 0x4800 ≤ off ∧ off < 0x4A20 then pcstat s d ((off - 0x4800) / 8)
  else if off = 0x4A40 then dieReg s d off (BitVec.ofNat 64 (4 * 2 ^ 52))
  else if 0x5000 ≤ off ∧ off < 0x6000 then monWord (fget {} (s.die d).mons ((off - 0x5000) / 0x100)) (off % 0x100)
  else if 0x6800 ≤ off ∧ off < 0x6900 then traceWord (fget {} (s.die d).trace ((off - 0x6800) / 0x20)) (off % 0x20)
  else if 0x8000 ≤ off ∧ off < 0x8000 + 68 * 0x1000 then
    relWord s d ((off - 0x8000) / 0x1000) ((off - 0x8000) % 0x1000)
  else if off < 0x7000 then dieReg s d off 0
  else 0

/-- A read of `n` bytes at an offset, sign-extended from `sext` bits, 0 for none (R402). -/
def ctlValue (s : State) (d off n sext : Nat) : W64 :=
  let v := (ctlWord s d (off / 8 * 8)).toNat / 2 ^ (8 * (off % 8)) % 2 ^ (8 * n)
  if sext = 0 then BitVec.ofNat 64 v else sext64 sext v

end Sys2Proof.Machine
end

