-- ==== Sys2Proof/Machine/View.lean ====
section
/-! DEFINITION. What an agent reads (R264 to R266): memory overlaid by the writes in flight that the agent sees, the latest
in the coherence order of each byte. -/
namespace Sys2Proof.Machine

/-- An agent of the device and where it runs (R263). -/
structure Viewer where
  agent : Nat
  core  : Nat
  die   : Nat
  deriving DecidableEq, Repr

/-- The agent of path `p` of context `k`: 0 access, 1 copy, 2 matrix, 3 collective, 4 window, 5 spill and stash (R186,
R263). -/
def agentOf (k p : Nat) : Nat := 8 * k + p + 1

/-- Path `p` of context `k`, on the core it runs on. -/
def viewerOf (s : State) (k p : Nat) : Viewer :=
  let c := (s.ctx k).run.lcore
  { agent := agentOf k p, core := c, die := dieOf c }

/-- An agent of a die that is no seat: its MMU, its dispatcher, its management processes. -/
def dieViewer (d : Nat) : Viewer := { agent := 0, core := 2048 + d, die := d }

/-- A write in flight that the agent sees (R264): its own, or one that has passed a stage that includes the agent. -/
def WriteRec.seenBy (w : WriteRec) (v : Viewer) : Bool :=
  (decide (w.agent = v.agent) && decide (v.agent ≠ 0))
  || (decide (1 ≤ w.stage) && decide (w.core = v.core))
  || (decide (2 ≤ w.stage) && decide (quadOf w.core = quadOf v.core))
  || (decide (3 ≤ w.stage) && decide (w.die = v.die))
  || w.applied.toNat.testBit v.die

/-- The place of a write among the writes of a byte: its coherence place, or after all that have one; a write at an
earlier stage comes after one at a later stage (R264, R266). -/
def WriteRec.place (w : WriteRec) : Nat :=
  match w.coh with
  | some n => n
  | none => (4 - w.stage) * 2 ^ 64 + w.vis

/-- The byte a write stores at a key. -/
def cellAt (cells : List Host.Cell) (key : Nat) : Option Byte :=
  cells.foldl (fun r c => if c.1 = key then some c.2 else r) none

/-- The later of two candidate writes of a byte. -/
def laterOf (key : Nat) (best : Option (Nat × Byte)) (w : WriteRec) : Option (Nat × Byte) :=
  match cellAt w.cells key with
  | none => best
  | some b =>
    match best with
    | none => some (w.place, b)
    | some (p, _) => if p ≤ w.place then some (w.place, b) else best

/-- The byte at `key` among the listed writes, else memory's. -/
def overlayByte (ws : List WriteRec) (m : List Host.Cell) (key : Nat) : Byte :=
  match ws.foldl (laterOf key) none with
  | some (_, b) => b
  | none => memGet m key

/-- The byte an agent reads at physical key `key`, where its own writes from access `before` on are not yet there
(R182). -/
def viewByte (s : State) (v : Viewer) (before : Nat) (key : Nat) : Byte :=
  overlayByte (s.writes.filter (fun w => w.seenBy v && (decide (w.id < before) || decide (w.agent ≠ v.agent)))) s.mem key

/-- `n` bytes an agent reads from `key` upward. -/
def viewBytes (s : State) (v : Viewer) (before : Nat) (key : Nat) : Nat → List Byte
  | 0 => []
  | n + 1 => viewByte s v before key :: viewBytes s v before (key + 1) n

/-! Reads that no order ties to the present (R267, R292; log entry 92) -/

/-- How far back a read may be performed, in places in time. -/
def readSpan : Nat := 4096

/-- A write that was visible to the agent at a place in time: `t` for writes of this device, `ts` for those of others (R264,
R274). -/
def WriteRec.seenAt (w : WriteRec) (v : Viewer) (t ts : Nat) : Bool :=
  let by_ := fun (i : Nat) => match fget? w.times i with | some n => decide (n ≤ (if w.sys then ts else t)) | none => false
  (decide (w.agent = v.agent) && decide (v.agent ≠ 0)) || (by_ 1 && decide (w.core = v.core))
    || (by_ 2 && decide (quadOf w.core = quadOf v.core)) || (by_ 3 && decide (w.die = v.die)) || by_ (16 + v.die)

/-- The writes that memory took lately, then those in flight. -/
def allWrites (s : State) : List WriteRec := s.past.map (·.w) ++ s.writes

/-- A byte as it was before every write that is still remembered. -/
def oldByte (s : State) (key : Nat) : Byte :=
  match s.past.findSome? (fun p => cellAt p.old key) with
  | some b => b
  | none => memGet s.mem key

/-- The byte an agent would have read at a place in time (R264, R266). -/
def viewAt (s : State) (v : Viewer) (before t ts key : Nat) : Byte :=
  match ((allWrites s).filter (fun w => w.seenAt v t ts && (decide (w.id < before) || decide (w.agent ≠ v.agent)))).foldl
      (laterOf key) none with
  | some (_, b) => b
  | none => oldByte s key

/-- A write of a byte became visible somewhere after a place in time. -/
def changedSince (s : State) (key t : Nat) : Bool :=
  (allWrites s).any (fun w => (cellAt w.cells key).isSome && w.times.any (fun p => decide (t < p.2)))

/-- The earliest place in time at which path `p` of context `k` may read a granule: neither before its orders nor before its
last read of the granule (R266, R270); for writes of other devices where `p` is 8 more. -/
def readFloor (s : State) (k p key : Nat) : Nat :=
  let q := (s.ctx k).q
  max (max (fget 0 q.floor p) (fget 0 q.last (16 * (key / 64) + p))) (s.ticks - readSpan)

/-- The place in time at which path `p` of context `k` reads a byte: the present, unless nothing ties the read to it and the
byte has changed since the earliest place allowed (log entry 92). -/
def readTime (s : State) (k p unit key : Nat) : Nat :=
  let lo := readFloor s k p key
  if changedSince s key lo then lo + Config.readAge (s.ticks + unit) % (s.ticks + 1 - lo) else s.ticks

/-- The byte that path `p` of context `k` reads; `free` where no order ties the read to the present. -/
def readByte (s : State) (v : Viewer) (k p before unit : Nat) (free : Bool) (key : Nat) : Byte :=
  if free && !isCoreKey key then viewAt s v before (readTime s k p unit key) (readTime s k (p + 8) unit key) key
  else viewByte s v before key

/-- The paths of a context may read no earlier than now: a read ordered after what has happened (R270, R275, R276); those of
writes of other devices only where the order is one of sys scope (R274). -/
def raiseFloor (s : State) (k : Nat) (ps : List Nat) (sys : Bool) : State :=
  let c := s.ctx k
  let is := if sys then ps ++ ps.map (· + 8) else ps
  s.setCtx k { c with q := { c.q with floor := is.foldl (fun m p => fset m p s.ticks) c.q.floor } }

/-- Path `p` of context `k` has read bytes, each in a unit of its own moment: a later read of their granules is not performed
before it (R266). -/
def noteTimes (s : State) (k p : Nat) (free : Bool) (read : List (Nat × Nat)) : State :=
  let hit := read.filter (fun r => !isCoreKey r.2
    && (changedSince s r.2 (readFloor s k p r.2) || changedSince s r.2 (readFloor s k (p + 8) r.2)))
  if hit = [] then s
  else
    let c := s.ctx k
    let kept := c.q.last.filter (fun (e : Nat × Nat) => decide (s.ticks < e.2 + readSpan))
    let m := hit.foldl (fun m r => [p, p + 8].foldl (fun m p =>
      let i := 16 * (r.2 / 64) + p
      fset m i (max (fget 0 m i) (if free then readTime s k p r.1 r.2 else s.ticks))) m) kept
    { s.setCtx k { c with q := { c.q with last := m } } with ticks := s.ticks + 1 }

/-- The byte at the point of coherence: the latest in the coherence order, wherever it has been applied (R261, R266). -/
def cohByte (s : State) (key : Nat) : Byte :=
  overlayByte (s.writes.filter (fun w => w.coh.isSome)) s.mem key

/-- A key that stands for a byte whose bridge, stack or link is not ready: every access to it aborts (R350, R362). -/
def deadKey (key : Nat) : Nat := 2 ^ 63 + key
/-- Such a key. -/
def isDead (key : Nat) : Bool := decide (2 ^ 63 ≤ key)

/-- A granule of 64 bytes whose error cannot be corrected holds this key, or nothing that is ready does (R350, R362). -/
def poisoned (s : State) (key : Nat) : Bool := isDead key || s.poison.contains (key / 64)

end Sys2Proof.Machine
end

