-- ==== Sys2Proof/Machine/Mmu.lean ====
section
/-! DEFINITION. Translation (R341 to R348): the walk of five levels with its checks, the permission checks, and the
core TLB, die TLB and walk caches that keep what a walk read. -/
namespace Sys2Proof.Machine

/-- How a translation fails: a trap code of R344 or R350, or memory that does not exist. -/
inductive XErr where
  | code (c : TrapCode)
  | fault (f : Fault)
  deriving DecidableEq, Repr

/-- A translation: the leaf, the size of its block in address bits, and the physical key of the byte asked for. -/
structure Xl where
  leaf : W64
  bits : Nat
  key  : Nat
  deriving DecidableEq, Repr

/-- Field accessors of an entry (R343). -/
def pteV (e : W64) : Bool := bit e 0
/-- LEAF. -/
def pteLeaf (e : W64) : Bool := bit e 1
/-- HOME. -/
def pteHome (e : W64) : Nat := (fld e 55 5).toNat
/-- TGT. -/
def pteTgt (e : W64) : Nat := (fld e 53 2).toNat
/-- DUR. -/
def pteDur (e : W64) : Bool := bit e 52
/-- FRAME. -/
def pteFrame (e : W64) : Nat := (fld e 12 40).toNat
/-- BIAS. -/
def pteBias (e : W64) : Bool := bit e 11
/-- CONT. -/
def pteCont (e : W64) : Bool := bit e 10

/-- The index of a virtual address at a level 1 to 5 (R342). -/
def vaIndex (va : W64) (lvl : Nat) : Nat := va.toNat / 2 ^ (12 + 9 * (5 - lvl)) % 512

/-- The frame limits of R343. -/
def frameBad (tgt frame : Nat) : Bool :=
  (decide (tgt = 0) && decide (Config.hbmSize ≤ frame * 4096)) || (decide (tgt = 1) && decide (Config.nvMapped ≤ frame * 4096))

/-- `reserved(pte, lvl, va)` of R344, for an entry with V = 1. -/
def pteReserved (e : W64) (lvl : Nat) (va : W64) : Bool :=
  if pteLeaf e then
    decide ((fld e 60 4).toNat ≠ 0) || decide ((fld e 7 3).toNat ≠ 0) || bit e 2
    || decide (pteTgt e = 3) || decide (lvl ≤ 3)
    || (decide (lvl = 4) && (pteCont e || decide (pteFrame e % 512 ≠ 0)))
    || decide (pteDur e ≠ decide (pteTgt e = 1)) || (pteDur e && pteBias e)
    || frameBad (pteTgt e) (pteFrame e)
    || (decide (lvl = 5) && pteCont e && decide (pteFrame e % 16 ≠ (fld va 12 4).toNat))
  else
    decide ((fld e 60 4).toNat ≠ 0) || decide ((fld e 52 3).toNat ≠ 0) || decide ((fld e 2 10).toNat ≠ 0)
    || decide (lvl = 5) || frameBad 0 (pteFrame e)

/-- Register ASROOTa (R341). -/
def asRoot (s : State) (a : Nat) : W64 := fget 0 s.dev.ctl (0x4100 + 8 * a)

/-- The entry of level `lvl` read through the table that `e` names, by an agent of die `d` (R344, R348). -/
def readPte (s : State) (d : Nat) (e : W64) (lvl : Nat) (va : W64) : Except XErr W64 :=
  let o := pteFrame e * 4096 + 8 * vaIndex va lvl
  let key := keyHbm (pteHome e) o
  if Config.hbmSize ≤ o then .error (.fault (.noSuchMemory key))
  else if poisoned s key || !reaches s d (pteHome e) 0 o false then .error (.code 0x13)
  else .ok (BitVec.ofNat 64 (ofBytes (viewBytes s (dieViewer d) (s.nextId) key 8)))

/-- The bits of a block a leaf maps at a level (R342, R345). -/
def leafBits (e : W64) (lvl : Nat) : Nat := if lvl = 4 then 21 else if pteCont e then 16 else 12

/-- A leaf as a TLB holds it: under CONT, FRAME with its low four bits cleared (R345). -/
def leafKept (e : W64) (lvl : Nat) : W64 :=
  if lvl = 5 ∧ pteCont e = true then putFld e 12 (0 : BitVec 4) else e

/-- The walk from the table `e` at level `lvl` on: the leaf and the bits of its block (R344). -/
def walkFrom (s : State) (d : Nat) (va : W64) : (fuel : Nat) → (lvl : Nat) → (e : W64) → Except XErr (W64 × Nat)
  | 0, _, _ => .error (.code 0x07)
  | fuel + 1, lvl, e =>
    match readPte s d e lvl va with
    | .error x => .error x
    | .ok pte =>
      if !pteV pte then .error (.code 0x07)
      else if pteReserved pte lvl va then .error (.code 0x09)
      else if pteLeaf pte then .ok (leafKept pte lvl, leafBits pte lvl)
      else walkFrom s d va fuel (lvl + 1) pte

/-- The table entries of levels 1 to 3 that this walk reads above the level at which it ends, by a leaf or by a fault: the walk
caches keep them (R347). -/
def walkRead (s : State) (d space : Nat) (va : W64) : (fuel : Nat) → (lvl : Nat) → (e : W64) → List WalkEntry
  | 0, _, _ => []
  | fuel + 1, lvl, e =>
    match readPte s d e lvl va with
    | .error _ => []
    | .ok pte =>
      if pteV pte && !pteReserved pte lvl va && !pteLeaf pte && decide (lvl ≤ 3) then
        { space := space, level := lvl, va := va, pte := pte } :: walkRead s d space va fuel (lvl + 1) pte
      else []

/-- A TLB entry that covers an address. -/
def TlbEntry.covers (t : TlbEntry) (space : Nat) (va : W64) : Bool :=
  decide (t.space = space) && decide (t.va.toNat / 2 ^ t.bits = va.toNat / 2 ^ t.bits)

/-- A walk-cache hit at a level (R347). -/
def walkHit (ws : List WalkEntry) (space lvl : Nat) (va : W64) : Option WalkEntry :=
  ws.find? (fun w => decide (w.space = space) && decide (w.level = lvl)
    && decide (w.va.toNat / 2 ^ (12 + 9 * (5 - lvl)) = va.toNat / 2 ^ (12 + 9 * (5 - lvl))))

/-- Where a walk of an address starts: behind the deepest walk-cache hit, else at the root (R344, R347). -/
def walkStart (s : State) (d space : Nat) (va : W64) : Nat × W64 :=
  let ws := (s.die d).walks
  match walkHit ws space 3 va, walkHit ws space 2 va, walkHit ws space 1 va with
  | some w, _, _ => (4, w.pte)
  | none, some w, _ => (3, w.pte)
  | none, none, some w => (2, w.pte)
  | none, none, none => (1, asRoot s space)

/-- The TLB entry that serves an address: of the core's TLB, else of its die's (R347). -/
def tlbHit (s : State) (core space : Nat) (va : W64) : Option TlbEntry :=
  ((s.core core).tlb ++ (s.die (dieOf core)).tlb).find? (fun t => t.covers space va)

/-- The leaf for an address, with the bits of its block: of a TLB, else of a walk; an invalid space translates nothing, whatever
its TLBs hold (R341, R344, R347). -/
def leafOf (s : State) (core space : Nat) (va : W64) : Except XErr (W64 × Nat) :=
  if !bit (asRoot s space) 0 then .error (.code 0x07)
  else
    match tlbHit s core space va with
    | some t => .ok (t.leaf, t.bits)
    | none =>
      let w := walkStart s (dieOf core) space va
      walkFrom s (dieOf core) va (6 - w.1) w.1 w.2

/-- The physical key of an address under a leaf (R343). -/
def leafKey (leaf : W64) (bits : Nat) (va : W64) : Nat :=
  let o := pteFrame leaf * 4096 + va.toNat % 2 ^ bits
  if pteTgt leaf = 0 then keyHbm (pteHome leaf) o else if pteTgt leaf = 1 then keyNv o else keyComp o

/-- An agent of die `d` reaches the byte that a leaf maps (R362). -/
def leafReaches (s : State) (d : Nat) (leaf : W64) (bits : Nat) (va : W64) : Bool :=
  reaches s d (pteHome leaf) (pteTgt leaf) (pteFrame leaf * 4096 + va.toNat % 2 ^ bits) (pteBias leaf)

/-- What an access asks of a leaf (R346). -/
structure Need5 where
  r : Bool := false
  w : Bool := false
  x : Bool := false
  /-- The level of the access; program level needs PRIV = 0. -/
  lvl : Nat := 0
  deriving DecidableEq, Repr

/-- The permission check of R346. -/
def leafAllows (leaf : W64) (n : Need5) : Bool :=
  (!n.r || bit leaf 3) && (!n.w || bit leaf 4) && (!n.x || bit leaf 5) && (decide (n.lvl ≠ 0) || !bit leaf 6)

/-- The translation of a virtual address in a space by an agent of a core (R344, R346): codes 0x07 TRANSLATION,
0x09 RESERVED_PTE, 0x08 PERMISSION, 0x13 DATA_ABORT. -/
def xlate (s : State) (core space : Nat) (va : W64) (n : Need5) : Except XErr Xl :=
  if 2 ^ 57 ≤ va.toNat then .error (.code 0x07)
  else
    match leafOf s core space va with
    | .error e => .error e
    | .ok (leaf, bits) =>
      if leafAllows leaf n then
        let key := leafKey leaf bits va
        .ok { leaf := leaf, bits := bits
              key := if leafReaches s (dieOf core) leaf bits va then key else deadKey key }
      else .error (.code 0x08)

/-- A TLB of `n` entries with one more: a full one replaces an entry that the manual leaves open (R347; log entry 11). -/
def tlbPut (n stamp : Nat) (t : TlbEntry) (l : List TlbEntry) : List TlbEntry :=
  if l.length < n then t :: l else t :: l.eraseIdx (Config.tlbVictim stamp % l.length)

/-- The walk caches of a die with the table entries that a walk of an address reads (R347). -/
def noteWalk (s : State) (d space : Nat) (va : W64) : State :=
  let w := walkStart s d space va
  let x := s.die d
  s.setDie d { x with walks := walkRead s d space va (6 - w.1) w.1 w.2 ++ x.walks }

/-- The state after an access to an address has translated it: the walk caches hold the table entries that its walk read, also
where it faulted; the TLBs hold the leaf, whatever it allows (R347). -/
def noteXl (s : State) (core space : Nat) (va : W64) : State :=
  let d := dieOf core
  if !bit (asRoot s space) 0 || decide (2 ^ 57 ≤ va.toNat) || (s.core core).tlb.any (fun t => t.covers space va) then s
  else
    let walked := (s.die d).tlb.all (fun t => !t.covers space va)
    let s0 := if walked then noteWalk s d space va else s
    match leafOf s core space va with
    | .error _ => s0
    | .ok (leaf, bits) =>
      let t : TlbEntry := { space := space, va := BitVec.ofNat 64 (va.toNat / 2 ^ bits * 2 ^ bits), bits := bits, leaf := leaf }
      let c := s0.core core
      let s1 := { s0.setCore core { c with tlb := tlbPut 512 s.ticks t c.tlb } with ticks := s.ticks + 1 }
      if walked then
        let x := s1.die d
        let s2 := s1.setDie d { x with tlb := tlbPut 16384 s1.ticks t x.tlb }
        let f : From := { core := core, seat := 2, launch := 0 }
        let s3 := sample { s2 with ticks := s2.ticks + 1 } d 8 f (Config.walkCycles s2.ticks)
        sampleMisses s3 [d, pteHome (asRoot s space)] f s2.ticks 0
      else s1

/-- An address form (R172). -/
inductive AddrForm where
  | global | local_ (o : Nat) | invalid
  deriving DecidableEq, Repr

/-- The form of an address (R172). -/
def addrForm (a : W64) : AddrForm :=
  if a.toNat < 2 ^ 57 then .global
  else if a.toNat / 2 ^ 22 = 2 ^ 41 then .local_ (a.toNat % 2 ^ 22)
  else .invalid

/-- The local form of core-store offset `o` (R172). -/
def localAddr (o : Nat) : W64 := BitVec.ofNat 64 (2 ^ 63 + o % 2 ^ 22)

/-! Aborts of accesses to functions that are not ready (R350, R362) -/

/-- The controller that aborts an access of die `d`: 1 core store, 3 die store, 4 HBM, 5 NV, 6 die bridge, 7 Alvel link, the first
that is not ready on the way (R350, R362; log entry 74). -/
def abortSource (s : State) (d key : Nat) : Nat :=
  let o := key % 2 ^ 52
  let h := key / 2 ^ 52 % 32
  if isCoreKey key then 1
  else if isCompKey key then 7
  else if isNvKey key then (if bit (devReg s 0x4510 0) (min (nvStack o) 15) then 6 else 5)
  else if !bridged s 10 d h then 6
  else if !bit (drdy s h) 0 then 3
  else if !bit (drdy s h) (1 + min (hbmStack o) 1) then 4
  else 7

/-- The table entry at which a walk aborts because a function on its way is not ready. -/
def walkAbort (s : State) (d : Nat) (va : W64) : (fuel : Nat) → (lvl : Nat) → (e : W64) → Option Nat
  | 0, _, _ => none
  | fuel + 1, lvl, e =>
    let o := pteFrame e * 4096 + 8 * vaIndex va lvl
    match readPte s d e lvl va with
    | .error _ => if Config.hbmSize ≤ o ∨ reaches s d (pteHome e) 0 o false = true then none else some (keyHbm (pteHome e) o)
    | .ok pte => if !pteV pte || pteReserved pte lvl va || pteLeaf pte then none else walkAbort s d va fuel (lvl + 1) pte

/-- An access of an agent of a core that aborts because its table entry or its byte is not ready leaves a record to be written:
VADDR and SEQ are 0 for a walk (R350, R362). -/
def noteAbort (s : State) (core space : Nat) (va : W64) (seq : W32) : State :=
  let d := dieOf core
  let add := fun (key : Nat) (va : W64) (seq : W32) =>
    let a : Abort := { die := d, source := abortSource s d key, key := key, va := va, seq := seq, lcore := core }
    { s with dev := { s.dev with found := s.dev.found ++ [a] } }
  if 2 ^ 57 ≤ va.toNat then s
  else
    match leafOf s core space va with
    | .ok (leaf, bits) => if leafReaches s d leaf bits va then s else add (leafKey leaf bits va) va seq
    | .error _ =>
      if !bit (asRoot s space) 0 then s
      else
        let w := walkStart s d space va
        match walkAbort s d va (6 - w.1) w.1 w.2 with
        | some key => add key 0 0
        | none => s

/-- An access asks the die store of its own die and that of each line's home for the line, and may miss there (R347, R386; log
entry 46). -/
def askStores (s : State) (core space : Nat) (vas : List W64) (f : From) (stamp : Nat) : State :=
  (((vas.filter (fun a => decide (a.toNat < 2 ^ 57))).map (fun a => a.toNat / 256)).eraseDups).foldl (fun s l =>
    match leafOf s core space (BitVec.ofNat 64 (256 * l)) with
    | .ok (leaf, _) => sampleMisses s [dieOf core, pteHome leaf] f stamp l
    | .error _ => s) s

/-! Fetch -/

/-- A fetched word, or the trap code and the word's address (R50). Bits 1:0 of the address are taken as 0 (log entry
12). -/
def fetchWord (s : State) (k : Nat) (addr : W64) : Except (XErr × W64) W32 :=
  let c := s.ctx k
  let a := BitVec.ofNat 64 (addr.toNat / 4 * 4)
  match xlate s c.run.lcore c.run.space a { x := true, lvl := c.lvl } with
  | .error e => .error (e, a)
  | .ok x =>
    if poisoned s x.key then .error (.code 0x13, a)
    else .ok (BitVec.ofNat 32 (ofBytes (viewBytes s (viewerOf s k 0) s.nextId x.key 4)))

/-- The state after a bundle of `n` words at an address has been fetched: fetch shares the core's TLB (R347). -/
def noteFetch (s : State) (k : Nat) (addr : W64) (n : Nat) : State :=
  let c := s.ctx k
  let last := addr + BitVec.ofNat 64 (4 * (n - 1))
  let s1 := noteXl (noteXl s c.run.lcore c.run.space addr) c.run.lcore c.run.space last
  askStores s1 c.run.lcore c.run.space [addr, last] (fromCtx s k) (nowAt s c.run.lcore).toNat

/-- The framing of the bundle at an address (R48, R50). -/
def frameAt (s : State) (k : Nat) (addr : W64) : Framed (XErr × W64) :=
  frameBundle (fun n => fetchWord s k (addr + BitVec.ofNat 64 (4 * n)))

/-- The words of the loop buffer's copy of the bundle at an address, where an active body holds it: the copy of the innermost,
which was framed last (R33). -/
def loopCopy (c : Ctx) (addr : W64) : Option (Framed Unit) :=
  match c.flow.loops.reverse.findSome? (fun l => l.buf.find? (fun b => decide (b.addr = addr))) with
  | some b => b.text
  | none => none

/-- The framing of the bundle that the context would issue at an address: from its loop buffer or from memory (R33). -/
def frameFor (s : State) (k : Nat) (addr : W64) : Framed (XErr × W64) :=
  match loopCopy (s.ctx k) addr with
  | some (.bundle ws) => .bundle ws
  | some (.bad r i) => .bad r i
  | _ => frameAt s k addr

/-- The length in words of a bundle that has not issued: 4 where it does not frame (R404). -/
def bundleLen (s : State) (k : Nat) (addr : W64) : Nat :=
  match frameFor s k addr with
  | .bundle ws => ws.length
  | _ => 4

/-- The address after the bundle at an address. -/
def nextAddr (s : State) (k : Nat) (addr : W64) : W64 := addr + BitVec.ofNat 64 (4 * bundleLen s k addr)

end Sys2Proof.Machine
end

