-- ==== Sys2Proof/Machine/Operands.lean ====
section
/-! DEFINITION. Operand forms of the S slot (R102, R103, R108, R110) and the spill map (R42, R43). -/
namespace Sys2Proof.Machine

/-- The operand width of an SA word: 64 for w = 00, else 32 (R103). -/
def saBits (w : BitVec 2) : Nat := if w = 0 then 64 else 32

/-- The extension of an SA result: sign for w = 01, zero otherwise (R103). -/
def saExt (w : BitVec 2) (r : Nat) : W64 := if w = 1 then sext64 32 r else BitVec.ofNat 64 (r % 2 ^ saBits w)

/-- An SA word: operands cut to n bits, `op` modulo 2^n, extended into d with latency `lat` (R103). -/
def saWord (lat : Nat) (d a b : BitVec 6) (w : BitVec 2) (op : Nat → Nat → Nat → Nat) (s : State) : Res State :=
  trapFirst (clashS s.my d.toNat lat)
    (match both (rdS s.my 1 a.toNat) (rdS s.my 1 b.toNat) with
    | .error e => .error e
    | .ok (x, y) =>
      putS s d.toNat lat (saExt w (op (saBits w) (x.toNat % 2 ^ saBits w) (y.toNat % 2 ^ saBits w))))

/-- An SB word with its sign-extended immediate, 64 bits, latency 1 (R103, R107, R108). -/
def sbWord (d a : BitVec 6) (imm : BitVec 8) (op : W64 → W64 → W64) (s : State) : Res State :=
  trapFirst (clashS s.my d.toNat 1)
    (match rdS s.my 1 a.toNat with
    | .error e => .error e
    | .ok x => putS s d.toNat 1 (op x (imm.signExtend 64)))

/-- 1 when the relation holds, else 0 (R107). -/
def boolWord (b : Bool) : W64 := BitVec.ofNat 64 (b2n b)

/-- Rotation left by k < n within n bits. -/
def rolNat (n x k : Nat) : Nat := x * 2 ^ k % 2 ^ n + x * 2 ^ k / 2 ^ n

/-- Bits 2n−1:n of the signed product (R106). -/
def mulHigh (n x y : Nat) : Nat := wrapInt n ((asInt n x * asInt n y) / (2 : Int) ^ n)

/-- The signed quotient truncated toward zero; all ones for a zero divisor (R106). -/
def divSigned (n x y : Nat) : Nat :=
  if y = 0 then 2 ^ n - 1 else wrapInt n ((asInt n x).tdiv (asInt n y))

/-- A − B · q, with the sign of A; A for a zero divisor (R106). -/
def remSigned (n x y : Nat) : Nat :=
  if y = 0 then x else wrapInt n ((asInt n x).tmod (asInt n y))

/-- Leading zero bits among n. -/
def leadZeros (n x : Nat) : Nat := if x = 0 then n else n - 1 - Nat.log2 x

/-- One bits among n. -/
def oneBits (n x : Nat) : Nat := ((List.range n).filter (fun i => x.testBit i)).length

/-- Trailing zero bits among n. -/
def trailZeros (n x : Nat) : Nat :=
  match (List.range n).find? (fun i => x.testBit i) with
  | some i => i
  | none => n

/-- 64 bits of a register by lane. -/
def lane64 (v : Wide) (i : Nat) : W64 := BitVec.ofNat 64 (lane 64 v i)

/-- The sources of `get` (R110): files 0 va, 1 vb, 2 ca, 3 cb, 4 p, 5 x. -/
def getSource (c : Ctx) (file idx ln : Nat) : W64 :=
  match file with
  | 0 => lane64 (fget 0 c.regs.va idx) ln
  | 1 => lane64 (fget 0 c.regs.vb idx) ln
  | 2 => if ln = 0 then fget 0 c.regs.ca idx else (fget 0 c.regs.sa (8 * idx + (ln - 1))).signExtend 64
  | 3 => if ln = 0 then fget 0 c.regs.cb idx else (fget 0 c.regs.sb (8 * idx + (ln - 1))).signExtend 64
  | 4 => if ln = 0 then fget 0 c.regs.p idx else fget 0 c.regs.psh idx
  | _ => lane64 (fget 0 c.regs.x idx) ln

/-! The spill map (R42, R43) -/

/-- Bytes of a spilled value: 8 from S, 128 from V (R42). -/
def SpillEntry.size (e : SpillEntry) : Nat := if e.wide then 128 else 8

/-- Bytes that the entries of a spill map take at a place. -/
def placedIn (m : FMap SpillEntry) (p : SpillPlace) : Nat :=
  ((m.filter (fun e => decide (e.2.place = p))).map (fun e => e.2.size)).sum

/-- Bytes of the spill area in use: values placed there and parked deferral entries of 16 bytes (R38, R42). -/
def areaUsed (q : Queues) : Nat := placedIn q.spill .area + 16 * (q.defer.length - 64)

/-- A share's range holds accumulator block `b` (R244, R299). -/
def Share.holdsBlock (sh : Share) (b : Nat) : Bool := decide (sh.accFirst ≤ b) && decide (b < sh.accFirst + sh.accCnt)

/-- Bytes of the accumulator blocks of a core that no seat's range holds, in the launch partition of `c` or in the share of a
context on the core; one block holds 128 rows of 1,024 bytes (R42, R244). -/
def freeAccBytes (s : State) (core : Nat) (c : Ctx) : Nat :=
  let r := (s.launch c.run.launch).rec_
  let taken := fun b => r.share0.holdsBlock b || r.share1.holdsBlock b || c.tiles.share.holdsBlock b ||
    [0, 1].any (fun k => (s.ctx (s.bankOf core k)).tiles.share.holdsBlock b)
  ((List.range 16).filter (fun b => !taken b)).length * 131072

/-- Bytes the running contexts of a core have spilled to a place, context `s.me` being as `c`. -/
def placedBytes (s : State) (core : Nat) (c : Ctx) (p : SpillPlace) : Nat :=
  placedIn c.q.spill p +
    (([0, 1].filter (fun b => decide (s.bankOf core b ≠ s.me))).map (fun b => placedIn (s.ctx (s.bankOf core b)).q.spill p)).sum

/-- The standby bank of a core holds no context (R9, R42). -/
def standbyFree (s : State) (core : Nat) : Bool :=
  let c := s.ctx (s.bankOf core 2)
  !c.run.live && !c.run.halted

/-- Bytes of the standby bank's register files usable for parked values: 24 + 24 vector and 16 x registers of 128 bytes
(R14, R42; log entry 13). -/
def standbyBytes : Nat := 64 * 128

/-- The first place of R42 that has room for `n` more bytes, the map of the context `c` being without the value. -/
def spillPlace (s : State) (c : Ctx) (n : Nat) : Option SpillPlace :=
  let core := c.run.lcore
  if placedBytes s core c .accumulator + n ≤ freeAccBytes s core c then some .accumulator
  else if standbyFree s core ∧ placedBytes s core c .standby + n ≤ standbyBytes then some .standby
  else if areaUsed c.q + n ≤ c.tiles.share.spillLen then some .area
  else none

/-- The spill map with an entry in place of whatever the identifier held (R42). -/
def Ctx.putSpill (c : Ctx) (id : Nat) (e : SpillEntry) : Ctx := { c with q := { c.q with spill := fset c.q.spill id e } }

/-- The entry that a spill makes, where it finds a place once the identifier's earlier value is gone (R42). -/
def spillEntry (s : State) (c : Ctx) (id : Nat) (v : Wide) (wide : Bool) : Option SpillEntry :=
  (spillPlace s { c with q := { c.q with spill := fdel c.q.spill id } } (if wide then 128 else 8)).map
    (fun p => { value := v, wide := wide, place := p, burst := some c.lvl })

/-- The context as the spills asked for so far by this bundle leave it (R43). -/
def stagedSpills (c : Ctx) : Ctx :=
  c.iss.fx.foldl (fun c' fx => match fx with
    | .spill id e => c'.putSpill id e
    | _ => c') c

/-- `spill` and `vspill` at issue: SPILL_EXHAUSTED when the value finds no place after the bundle's earlier spills
(R43). -/
def spillWord (s : State) (cls id : Nat) (v : Wide) (wide : Bool) : Res State :=
  match spillEntry s (stagedSpills s.my) id v wide with
  | none => trapOf 14 cls 0x0F (BitVec.ofNat 64 id)
  | some e => .ok (atEnd s (.spill id e))

/-- A value that a fill has returned no longer keeps the standby bank (R42; log entry 82). -/
def noteFill (s : State) (id : Nat) : State :=
  match fget? s.my.q.spill id with
  | some e => if e.place = .standby then atEnd s (.filled id) else s
  | none => s

/-- The values that a context has parked in the standby bank and that its spill area has room for move there (R42). -/
def leaveStandby (c : Ctx) : Ctx :=
  c.q.spill.foldl (fun c' p =>
    if p.2.place = .standby ∧ areaUsed c'.q + p.2.size ≤ c'.tiles.share.spillLen then c'.putSpill p.1 { p.2 with place := .area }
    else c') c

/-- A context has a value in the standby bank that no fill has returned (R42). -/
def keepsStandby (c : Ctx) : Bool := c.q.spill.any (fun p => decide (p.2.place = .standby) && !p.2.filled)

/-- The value a `fill` or `vfill` returns: ILLEGAL_OP reason 5 when absent or of the other width (R42, R46). -/
def spillFound (c : Ctx) (cls id : Nat) (wide : Bool) : Res Wide :=
  match fget? c.q.spill id with
  | some e => if e.wide = wide then .ok e.value else trapOf 7 cls 0x02 (opTval 5 cls id)
  | none => trapOf 7 cls 0x02 (opTval 5 cls id)

end Sys2Proof.Machine
end

