-- ==== Sys2Proof/Machine/Float.lean ====
section
/-! DEFINITION. Number formats and their arithmetic (R76 to R87, R101): exact values as dyadic numbers, the one rounding of
R85, the conversions of R86, the functions of R139 and R140, and the random numbers of R87. -/
namespace Sys2Proof.Machine

/-- A floating format (R77): exponent and fraction bits, bias, the largest finite pattern, infinity, the canonical NaN. -/
structure FFmt where
  eb   : Nat
  p    : Nat
  bias : Nat
  maxb : Nat
  infb : Option Nat
  nanb : Option Nat
  deriving DecidableEq, Repr

/-- FP32. -/
def ff32 : FFmt := { eb := 8, p := 23, bias := 127, maxb := 0x7F7FFFFF, infb := some 0x7F800000, nanb := some 0x7FC00000 }
/-- FP16. -/
def ff16 : FFmt := { eb := 5, p := 10, bias := 15, maxb := 0x7BFF, infb := some 0x7C00, nanb := some 0x7E00 }
/-- BF16. -/
def fbf16 : FFmt := { eb := 8, p := 7, bias := 127, maxb := 0x7F7F, infb := some 0x7F80, nanb := some 0x7FC0 }
/-- E4M3: no infinity. -/
def fe4m3 : FFmt := { eb := 4, p := 3, bias := 7, maxb := 0x7E, infb := none, nanb := some 0x7F }
/-- E5M2. -/
def fe5m2 : FFmt := { eb := 5, p := 2, bias := 15, maxb := 0x7B, infb := some 0x7C, nanb := some 0x7E }
/-- E2M1: neither infinity nor NaN. -/
def fe2m1 : FFmt := { eb := 2, p := 1, bias := 1, maxb := 7, infb := none, nanb := none }

/-- The floating format of a V format code (R58, R77). -/
def ffOf (code : Nat) : Option FFmt :=
  match code with
  | 6 => some ff16 | 7 => some fbf16 | 8 => some ff32 | 9 => some fe4m3 | 10 => some fe5m2 | 11 => some fe2m1
  | _ => none

/-- The width of a format. -/
def FFmt.w (f : FFmt) : Nat := 1 + f.eb + f.p

/-- A value: NaN, an infinity, or (−1)^neg · m · 2^e exactly. -/
inductive FVal where
  | nan
  | inf (neg : Bool)
  | fin (neg : Bool) (m : Nat) (e : Int)
  deriving DecidableEq, Repr

/-- The value of a pattern (R77). -/
def decF (f : FFmt) (b : Nat) : FVal :=
  let neg := decide (b / 2 ^ (f.eb + f.p) % 2 = 1)
  let mag := b % 2 ^ (f.eb + f.p)
  let E := mag / 2 ^ f.p
  let fr := mag % 2 ^ f.p
  if f.infb = some mag then .inf neg
  else if f.nanb.isSome ∧ f.maxb < mag then .nan
  else if E = 0 then .fin neg fr (1 - (f.bias : Int) - f.p)
  else .fin neg (2 ^ f.p + fr) ((E : Int) - f.bias - f.p)

/-- Rounding modes of R85; stochastic rounding carries its 16-bit random number. -/
inductive Rnd where
  | rne | rz | sr (r : Nat)
  deriving DecidableEq, Repr

/-- m · 2^e over 2^k rounded to an integer by a mode (R85): the spacing is 2^k. -/
def roundUnits (mode : Rnd) (m : Nat) (e k : Int) : Nat :=
  if k ≤ e then m * 2 ^ (e - k).toNat
  else
    let d := (k - e).toNat
    let lo := m / 2 ^ d
    let rem := m % 2 ^ d
    match mode with
    | .rz => lo
    | .rne => if 2 * rem < 2 ^ d then lo else if 2 ^ d < 2 * rem then lo + 1 else if lo % 2 = 0 then lo else lo + 1
    | .sr r => if r * 2 ^ d < rem * 65536 then lo + 1 else lo

/-- floor(log2 of m · 2^e) for m ≠ 0. -/
def log2D (m : Nat) (e : Int) : Int := (Nat.log2 m : Int) + e

/-- The magnitude pattern of m · 2^e rounded into a format, possibly beyond its largest (R85). -/
def roundMag (f : FFmt) (mode : Rnd) (m : Nat) (e : Int) : Nat :=
  if m = 0 then 0
  else
    let emin : Int := 1 - (f.bias : Int)
    let k := max (log2D m e) emin - f.p
    let n := roundUnits mode m e k
    if n < 2 ^ f.p then n else (k + f.p + f.bias).toNat * 2 ^ f.p + (n - 2 ^ f.p)

/-- The sign bit of a format. -/
def signBit (f : FFmt) (neg : Bool) : Nat := if neg then 2 ^ (f.eb + f.p) else 0

/-- The canonical NaN; +0 where there is none (R85). -/
def nanOf (f : FFmt) : Nat := f.nanb.getD 0

/-- THE CONVERSION of R85: a value into a floating format. -/
def encF (f : FFmt) (mode : Rnd) (sat : Bool) (v : FVal) : Nat :=
  match v with
  | .nan => nanOf f
  | .inf neg =>
    match f.infb with
    | some b => signBit f neg + b
    | none => if sat ∨ f.nanb = none then signBit f neg + f.maxb else nanOf f
  | .fin neg m e =>
    let b := roundMag f mode m e
    if f.maxb < b then
      if mode = .rz ∨ sat ∨ f.nanb = none then signBit f neg + f.maxb
      else
        match f.infb with
        | some i => signBit f neg + i
        | none => nanOf f
    else signBit f neg + b

/-! Exact arithmetic on values (R79, R80) -/

/-- The signed integer of a dyadic at a lower exponent. -/
def atExp (neg : Bool) (m : Nat) (e k : Int) : Int :=
  let n : Int := (m * 2 ^ (e - k).toNat : Nat)
  if neg then -n else n

/-- An integer times 2^k as a value; an exact zero takes the sign given. -/
def ofInt (zneg : Bool) (n k : Int) : FVal :=
  if n = 0 then .fin zneg 0 0 else .fin (decide (n < 0)) n.natAbs k

/-- Exact sum: an exact zero sum is +0 except (−0) + (−0) (R80). -/
def addV (a b : FVal) : FVal :=
  match a, b with
  | .nan, _ => .nan
  | _, .nan => .nan
  | .inf s, .inf t => if s = t then .inf s else .nan
  | .inf s, .fin _ _ _ => .inf s
  | .fin _ _ _, .inf t => .inf t
  | .fin s m e, .fin t n g =>
    let k := min e g
    ofInt (s && t && decide (m = 0) && decide (n = 0)) (atExp s m e k + atExp t n g k) k

/-- Exact product. -/
def mulV (a b : FVal) : FVal :=
  match a, b with
  | .nan, _ => .nan
  | _, .nan => .nan
  | .inf s, .inf t => .inf (s != t)
  | .inf s, .fin t m _ => if m = 0 then .nan else .inf (s != t)
  | .fin s m _, .inf t => if m = 0 then .nan else .inf (s != t)
  | .fin s m e, .fin t n g => .fin (s != t) (m * n) (e + g)

/-- Negation. -/
def negV : FVal → FVal
  | .nan => .nan
  | .inf s => .inf (!s)
  | .fin s m e => .fin (!s) m e

/-- Magnitude. -/
def absV : FVal → FVal
  | .nan => .nan
  | .inf _ => .inf false
  | .fin _ m e => .fin false m e

/-- The value times 2^k. -/
def scaleV (v : FVal) (k : Int) : FVal :=
  match v with
  | .fin s m e => .fin s m (e + k)
  | x => x

/-- Ordering of numbers by value, zeros equal; false with a NaN. -/
def ltV (a b : FVal) : Bool :=
  match a, b with
  | .nan, _ => false
  | _, .nan => false
  | .inf s, .inf t => s && !t
  | .inf s, .fin _ _ _ => s
  | .fin _ _ _, .inf t => !t
  | .fin s m e, .fin t n g => decide (atExp s m e (min e g) < atExp t n g (min e g))

/-- Equality of numbers by value; false with a NaN. -/
def eqV (a b : FVal) : Bool :=
  match a, b with
  | .nan, _ => false
  | _, .nan => false
  | .inf s, .inf t => s == t
  | .fin s m e, .fin t n g => decide (atExp s m e (min e g) = atExp t n g (min e g))
  | _, _ => false

/-- Whether a value is a NaN. -/
def isNan : FVal → Bool
  | .nan => true
  | _ => false

/-- Whether a value is finite. -/
def isFin : FVal → Bool
  | .fin _ _ _ => true
  | _ => false

/-- The sign of a value. -/
def negOf : FVal → Bool
  | .nan => false
  | .inf s => s
  | .fin s _ _ => s

/-- `vmin` and `vmax` on values: −0 below +0, a NaN wins (R136). -/
def minV (a b : FVal) : FVal :=
  if isNan a || isNan b then .nan
  else if ltV a b then a else if ltV b a then b else if negOf a then a else b
/-- The larger. -/
def maxV (a b : FVal) : FVal :=
  if isNan a || isNan b then .nan
  else if ltV a b then b else if ltV b a then a else if negOf a then b else a

/-! Functions (R139, R140) -/

/-- floor(√n) by `fuel` binary digits: `r` is the root so far, `b` the next power of two. -/
def isqrtFrom (n : Nat) : (fuel : Nat) → (r : Nat) → Nat
  | 0, r => r
  | fuel + 1, r => if (r + 2 ^ fuel) * (r + 2 ^ fuel) ≤ n then isqrtFrom n fuel (r + 2 ^ fuel) else isqrtFrom n fuel r

/-- floor(√n). -/
def isqrt (n : Nat) : Nat := isqrtFrom n (Nat.log2 n / 2 + 1) 0

/-- An irrational or inexact magnitude between m and m + 1 units of 2^e, as a dyadic strictly between; m itself when
exact. -/
def sticky (exact : Bool) (m : Nat) (e : Int) : Nat × Int := if exact then (m, e) else (2 * m + 1, e - 1)

/-- A function result: rounded toward zero, but beyond the largest finite value an infinity (R139). -/
def truncF (f : FFmt) (neg : Bool) (m : Nat) (e : Int) : Nat :=
  let beyond := decide (f.maxb < roundMag f .rz m e) ||
    (match decF f f.maxb with
     | .fin _ mm me => ltV (.fin false mm me) (.fin false m e)
     | _ => false)
  if beyond then encF f .rne false (.inf neg) else signBit f neg + roundMag f .rz m e

/-- `vrcp`: 1/a. -/
def rcpF (f : FFmt) (b : Nat) : Nat :=
  match decF f b with
  | .nan => nanOf f
  | .inf s => signBit f s
  | .fin s m e =>
    if m = 0 then encF f .rne false (.inf s)
    else
      let q := 2 ^ 256 / m
      let x := sticky (decide (q * m = 2 ^ 256)) q (-256 - e)
      truncF f s x.1 x.2

/-- A positive dyadic with an even exponent. -/
def evenExp (m : Nat) (e : Int) : Nat × Int := if e % 2 = 0 then (m, e) else (2 * m, e - 1)

/-- `vrsq`: 1/√a. -/
def rsqF (f : FFmt) (b : Nat) : Nat :=
  match decF f b with
  | .nan => nanOf f
  | .inf s => if s then nanOf f else 0
  | .fin s m e =>
    if m = 0 then encF f .rne false (.inf s)
    else if s then nanOf f
    else
      let y := evenExp m e
      let r := isqrt (2 ^ 256 / y.1)
      let x := sticky (decide (r * r * y.1 = 2 ^ 256)) r (-128 - y.2 / 2)
      truncF f false x.1 x.2

/-- `vsqrt`: √a rounded to nearest (R140). -/
def sqrtF (f : FFmt) (b : Nat) : Nat :=
  match decF f b with
  | .nan => nanOf f
  | .inf s => if s then nanOf f else encF f .rne false (.inf false)
  | .fin s m e =>
    if m = 0 then signBit f s
    else if s then nanOf f
    else
      let y := evenExp m e
      let n := y.1 * 2 ^ 256
      let r := isqrt n
      let x := sticky (decide (r * r = n)) r (y.2 / 2 - 128)
      encF f .rne false (.fin false x.1 x.2)

/-- Bits of the fixed point in which exponentials and logarithms are summed (log entry 9). -/
def fxBits : Nat := 256

/-- Σ z^(2k+1)/(2k+1) over `fuel` terms in fixed point: `t` is the present power of z, `zz` is z². -/
def atanhSum (zz : Nat) : (fuel k t acc : Nat) → Nat
  | 0, _, _, acc => acc
  | fuel + 1, k, t, acc => atanhSum zz fuel (k + 1) (t * zz / 2 ^ fxBits) (acc + t / (2 * k + 1))

/-- ln(n/d) in fixed point for d ≤ n ≤ 2d: 2 · atanh((n − d)/(n + d)). -/
def lnRatio (n d : Nat) : Nat :=
  let z := (n - d) * 2 ^ fxBits / (n + d)
  2 * atanhSum (z * z / 2 ^ fxBits) 128 0 z 0

/-- ln 2 in fixed point. -/
def ln2Fx : Nat := lnRatio 2 1

/-- Σ x^k/k! in fixed point. -/
def expSum (x : Nat) : (fuel k t acc : Nat) → Nat
  | 0, _, _, acc => acc
  | fuel + 1, k, t, acc => expSum x fuel (k + 1) (t * x / 2 ^ fxBits / (k + 1)) (acc + t)

/-- `vexp2`: 2^a (R139; log entry 9). -/
def exp2F (f : FFmt) (b : Nat) : Nat :=
  match decF f b with
  | .nan => nanOf f
  | .inf s => if s then 0 else encF f .rne false (.inf false)
  | .fin s m e =>
    if m = 0 then encF f .rne false (.fin false 1 0)
    else if 10 < log2D m e then (if s then 0 else encF f .rne false (.inf false))
    else
      -- a · 2^fxBits, exact: formats have no bit below 2^-149
      let fx := atExp s m e (-(fxBits : Int))
      let n := fx / (2 ^ fxBits : Nat)
      let fr := (fx % (2 ^ fxBits : Nat)).toNat
      let y := expSum (fr * ln2Fx / 2 ^ fxBits) 96 0 (2 ^ fxBits) 0
      let x := sticky (decide (fr = 0)) y (n - fxBits)
      truncF f false x.1 x.2

/-- `vlog2`: log2 a (R139; log entry 9). -/
def log2F (f : FFmt) (b : Nat) : Nat :=
  match decF f b with
  | .nan => nanOf f
  | .inf s => if s then nanOf f else encF f .rne false (.inf false)
  | .fin s m e =>
    if m = 0 then encF f .rne false (.inf true)
    else if s then nanOf f
    else
      let E := log2D m e
      let top := 2 ^ Nat.log2 m
      if m = top then encF f .rz false (ofInt false E 0)
      else
        let fr := lnRatio m top * 2 ^ fxBits / ln2Fx
        let v := E * (2 ^ fxBits : Nat) + fr
        let x := sticky false v.natAbs (-(fxBits : Int))
        truncF f (decide (v < 0)) x.1 x.2

/-- `vflr`: the largest integral value not above a (R140). -/
def flrF (f : FFmt) (b : Nat) : Nat :=
  match decF f b with
  | .nan => nanOf f
  | .inf _ => b
  | .fin s m e =>
    if 0 ≤ e ∨ m = 0 then b
    else encF f .rz false (ofInt s (atExp s m e e / (2 ^ (-e).toNat : Nat)) 0)

/-! Integer formats, DS8, E8M0 and conversion (R76, R78, R81, R86) -/

/-- The element width of a format code (R132). -/
def fmtW (code : Nat) : Nat :=
  if code = 11 then 4 else if code = 0 ∨ code = 1 ∨ code = 9 ∨ code = 10 ∨ code = 12 ∨ code = 13 then 8
  else if code = 2 ∨ code = 3 ∨ code = 6 ∨ code = 7 then 16 else 32

/-- A signed integer format. -/
def fmtSigned (code : Nat) : Bool := code % 2 == 0
/-- An integer format (codes 0 to 5). -/
def isIntFmt (code : Nat) : Bool := decide (code < 6)

/-- The integer an element holds under an integer format (R76). -/
def intOf (code b : Nat) : Int := if fmtSigned code then asInt (fmtW code) b else (b % 2 ^ fmtW code : Nat)
/-- The least value of an integer format. -/
def intMin (code : Nat) : Int := if fmtSigned code then -(2 ^ (fmtW code - 1) : Nat) else 0
/-- The greatest value of an integer format. -/
def intMax (code : Nat) : Int :=
  if fmtSigned code then (2 ^ (fmtW code - 1) : Nat) - 1 else (2 ^ fmtW code : Nat) - 1

/-- The value of a DS8 element without its scale (R81). -/
def ds8V (b : Nat) : FVal :=
  let ta : Int := atExp (decide (b / 128 % 2 = 1)) 1 (7 - (b / 16 % 8 : Nat)) 0
  let tb : Int := atExp (decide (b / 8 % 2 = 1)) 1 (7 - (b % 8 : Nat)) 0
  ofInt false (ta + tb) (-7)

/-- The value of an E8M0 byte (R78). -/
def e8V (b : Nat) : FVal := if b % 256 = 255 then .nan else .fin false 1 ((b % 256 : Nat) - 127)

/-- The value of an element of any format but b. -/
def elemV (code b : Nat) : FVal :=
  if isIntFmt code then ofInt false (intOf code b) 0
  else if code = 12 then ds8V b
  else if code = 13 then e8V b
  else match ffOf code with | some f => decF f b | none => .nan

/-- The rounding-mode field (R58): 00 RNE, 01 RZ, 10 stochastic with the lane's random number. -/
def rndOf (code r : Nat) : Rnd := if code = 1 then .rz else if code = 2 then .sr r else .rne

/-- A value into an integer format: rounded on the grid 1, then clamped; a NaN is 0 (R86). -/
def toIntFmt (code : Nat) (mode : Rnd) (v : FVal) : Nat :=
  match v with
  | .nan => 0
  | .inf neg => wrapInt (fmtW code) (if neg then intMin code else intMax code)
  | .fin neg m e =>
    let n : Int := roundUnits mode m e 0
    wrapInt (fmtW code) (clampInt (intMin code) (intMax code) (if neg then -n else n))

/-- A value into an E8M0 scale (R86). -/
def toE8 (v : FVal) : Nat :=
  match v with
  | .nan => 255
  | .inf _ => 255
  | .fin _ m e => if m = 0 then 0 else (clampInt 0 254 (log2D m e + 127)).toNat

/-- One element of a conversion (R82, R85, R86, R151). -/
def convertElem (fd fs : Nat) (mode : Rnd) (sat : Bool) (b : Nat) : Nat :=
  if isIntFmt fs ∧ isIntFmt fd then
    let x := intOf fs b
    if fmtW fs < fmtW fd then wrapInt (fmtW fd) x
    else if sat then wrapInt (fmtW fd) (clampInt (intMin fd) (intMax fd) x)
    else b % 2 ^ fmtW fd
  else if fd = fs ∧ fs = 13 then b
  else if isIntFmt fd then toIntFmt fd mode (elemV fs b)
  else if fd = 13 then toE8 (elemV fs b)
  else
    match ffOf fd with
    | some f => if fd = fs then (if isNan (decF f b) then nanOf f else b) else encF f mode sat (elemV fs b)
    | none => 0

/-- The random number of lane `i` (R87). -/
def srRandom (sr : W64) (i : Nat) : Nat :=
  let z := sr + BitVec.ofNat 64 ((i + 1) * 0x9E3779B97F4A7C15)
  let z := (z ^^^ (z >>> 30)) * 0xBF58476D1CE4E5B9
  let z := (z ^^^ (z >>> 27)) * 0x94D049BB133111EB
  (z ^^^ (z >>> 31)).toNat % 65536

/-- The ranking key of R101. -/
def rankKey (code b : Nat) : Int :=
  match ffOf code with
  | none => intOf code b
  | some f =>
    let w := f.w
    if isNan (decF f b) then (2 ^ w + 2 * (b % 2 ^ f.p) + (1 - b / 2 ^ (w - 1) % 2) : Nat)
    else if b / 2 ^ (w - 1) % 2 = 0 then (2 ^ (w - 1) + b % 2 ^ (w - 1) : Nat)
    else (2 ^ (w - 1) - 1 - b % 2 ^ (w - 1) : Nat)

/-! MX blocks (R83, R84) -/

/-- An element of a packed MX format as a value: format i8 is MXINT8, int · 2^-6 with 0x80 read as −127 (R83). -/
def mxElemV (code b : Nat) : FVal :=
  if code = 0 then
    let n := asInt 8 b
    ofInt false (if n = -128 then -127 else n) (-6)
  else elemV code b

/-- emax of an element format (R84). -/
def mxEmax (code : Nat) : Int := if code = 9 then 8 else if code = 10 then 15 else if code = 11 then 2 else 0

/-- The larger magnitude. -/
def maxAbs (vs : List FVal) : FVal := vs.foldl (fun m v => if ltV m (absV v) then absV v else m) (.fin false 0 0)

/-- The scale of a block (R84). -/
def mxScale (code : Nat) (vs : List FVal) : Nat :=
  if vs.any (fun v => !isFin v) then 255
  else
    match maxAbs vs with
    | .fin _ m e => if m = 0 then 0 else (clampInt 0 254 (log2D m e - mxEmax code + 127)).toNat
    | _ => 255

/-- A value into an MX element: the conversion of R85 with sat = 1; MXINT8 on the grid 2^-6, clamped to ±127 (R84). -/
def mxConvert (code : Nat) (mode : Rnd) (v : FVal) : Nat :=
  if code = 0 then
    match v with
    | .fin neg m e =>
      let n : Int := roundUnits mode m e (-6)
      wrapInt 8 (clampInt (-127) 127 (if neg then -n else n))
    | _ => 0
  else match ffOf code with | some f => encF f mode true v | none => 0

/-- Whether the conversion of a value clamps to ±MAX (R99). -/
def mxClamps (code : Nat) (mode : Rnd) (v : FVal) : Bool :=
  match v with
  | .fin _ m e =>
    if code = 0 then decide (127 < roundUnits mode m e (-6))
    else match ffOf code with | some f => decide (f.maxb < roundMag f mode m e) | none => false
  | _ => false

/-- A block formed by R84: its scale and its elements, with the rounding mode of each lane. -/
def mxBlock (code : Nat) (mode : Nat → Rnd) (vs : List FVal) : Nat × List Nat :=
  let S := mxScale code vs
  if vs.any (fun v => !isFin v) then (255, vs.map (fun _ => 0))
  else (S, vs.zipIdx.map (fun p => mxConvert code (mode p.2) (scaleV p.1 (127 - (S : Int)))))

/-- The value of an element under its scale byte (R78, R161). -/
def mxValue (code S b : Nat) : FVal := if S % 256 = 255 then .nan else scaleV (mxElemV code b) ((S % 256 : Nat) - 127)

end Sys2Proof.Machine
end

