-- ==== Sys2Proof/Machine/TileFmt.lean ====
section
/-! DEFINITION. Tile formats, footprints and the regions of a share (R244, R246, R248 to R251). -/
namespace Sys2Proof.Machine

/-- Assigned tile format codes (R248). -/
def tfOk (fmt : Nat) : Bool := decide (1 ≤ fmt ∧ fmt ≤ 6) || decide (0x10 ≤ fmt ∧ fmt ≤ 0x14)
/-- Formats with a scale block (R248). -/
def tfScaled (fmt : Nat) : Bool := decide (0x10 ≤ fmt ∧ fmt ≤ 0x14)
/-- The MX formats. -/
def tfMx (fmt : Nat) : Bool := decide (0x10 ≤ fmt ∧ fmt ≤ 0x13)
/-- Integer tiles, whose checksums are modular (R95, R250). -/
def tfInt (fmt : Nat) : Bool := decide (fmt = 4 ∨ fmt = 5 ∨ fmt = 6)

/-- Element width in bits (R132, R248). -/
def tfW (fmt : Nat) : Nat :=
  if fmt = 1 ∨ fmt = 4 then 32 else if fmt = 2 ∨ fmt = 3 then 16 else if fmt = 0x12 then 4 else 8

/-- The format code of R132 whose elements a tile format holds. -/
def tfElem (fmt : Nat) : Nat :=
  match fmt with
  | 1 => 8 | 2 => 7 | 3 => 6 | 4 => 4 | 5 => 0 | 6 => 1 | 0x10 => 9 | 0x11 => 10 | 0x12 => 11 | 0x13 => 0 | _ => 12

/-- Bytes of a tile's data (R248). -/
def tfData (fmt : Nat) : Nat := 2048 * tfW fmt
/-- Bytes of a scale block (R249). -/
def tfScaleBytes (fmt : Nat) : Nat := if tfScaled fmt then 512 else 0
/-- Bytes of a tile in core store (R248). -/
def tfFoot (fmt : Nat) (gloved : Bool) : Nat := if gloved then tfData fmt + 1280 + tfScaleBytes fmt else tfData fmt
/-- SOFF of the standard place (R249). -/
def tfSoff (fmt : Nat) : Nat := if tfScaled fmt then tfData fmt + 1280 else 0

/-- Bytes of a declared slot, or of one entry of a declared ring. -/
def TileDecl.foot (d : TileDecl) : Nat := tfFoot d.fmt d.gloved
/-- Bytes of a declared slot or of a whole ring. -/
def TileDecl.span (d : TileDecl) : Nat := d.depth * d.foot
/-- The local start of entry `i`. -/
def TileDecl.entry (d : TileDecl) (i : Nat) : Nat := d.base + i * d.foot

/-- A local byte in one of the seat's slots or ring entries (R246). -/
def inRange (h : Share) (o : Nat) : Bool :=
  (h.slots ++ h.rings).any (fun p => decide (p.2.base ≤ o) && decide (o < p.2.base + p.2.span))

/-- The CHK word over the first seven words of a block, by the constant of the block (R251, R282). -/
def chkWord (k : W64) (ws : List W64) : W64 :=
  ((ws.zipIdx).foldl (fun (acc : W64) (p : W64 × Nat) => acc + rol64 p.1 (9 * p.2)) 0) ^^^ k

/-- The eight words of a 64-byte block. -/
def wordsOf64 : Nat → Nat → List W64
  | 0, _ => []
  | n + 1, x => BitVec.ofNat 64 x :: wordsOf64 n (x / 2 ^ 64)

/-- A cuff whose CHK is written over its other fields (R251). -/
def cuffOf (fmt gen soff : Nat) : BitVec 512 :=
  let w0 : W64 := BitVec.ofNat 64 (fmt + gen % 2 ^ 32 * 2 ^ 32)
  let w1 : W64 := BitVec.ofNat 64 (soff % 2 ^ 32)
  let w2 : W64 := 16384
  let chk := chkWord 0x5A5A5A5A5A5A5A5A [w0, w1, w2]
  BitVec.ofNat 512 (w0.toNat + 2 ^ 64 * w1.toNat + 2 ^ 128 * w2.toNat + 2 ^ 192 * (2 ^ 256 * chk.toNat))

/-- SOFF of a cuff as a signed offset. -/
def cuffSoff (c : BitVec 512) : Int := asInt 32 (fld c 64 32).toNat

/-- The cuff check (R251). -/
def cuffOk (c : BitVec 512) : Bool :=
  let fmt := (fld c 0 8).toNat
  tfOk fmt && decide (fld c 128 32 = (16384 : BitVec 32))
    && (if tfScaled fmt then decide (cuffSoff c ≠ 0) && decide (cuffSoff c % 256 = 0) else decide (cuffSoff c = 0))
    && decide (fld c 8 24 = (0 : BitVec 24)) && decide (fld c 96 32 = (0 : BitVec 32))
    && decide (fld c 160 248 = (0 : BitVec 248)) && decide (fld c 408 40 = (0 : BitVec 40))
    && decide (fld c 448 64 = chkWord 0x5A5A5A5A5A5A5A5A ((wordsOf64 8 c.toNat).take 7))

/-- A cuff with another SOFF and a CHK to match (R249). -/
def cuffMoved (c : BitVec 512) (soff : Nat) : BitVec 512 := cuffOf (fld c 0 8).toNat (fld c 32 32).toNat soff

/-- Element `e` of a tile's data, counted 128·i + j (R247). -/
def tileElem (fmt : Nat) (data : List Byte) (e : Nat) : Nat :=
  if fmt = 0x12 then (data.getD (e / 2) 0).toNat / 16 ^ (e % 2) % 16
  else ofBytes ((data.drop (tfW fmt / 8 * e)).take (tfW fmt / 8))

/-- The data bytes of a tile whose elements are listed (R247). -/
def packElems (fmt : Nat) : List Nat → List Byte
  | [] => []
  | x :: xs =>
    if fmt = 0x12 then
      match xs with
      | y :: ys => BitVec.ofNat 8 (x % 16 + 16 * (y % 16)) :: packElems fmt ys
      | [] => [BitVec.ofNat 8 (x % 16)]
    else bytesOf (tfW fmt / 8) x ++ packElems fmt xs

/-- The real value of an element under its scale byte (R77 to R84, R95). -/
def tileValue (fmt scale x : Nat) : FVal :=
  if fmt = 0x13 then mxValue 0 scale x
  else if fmt = 0x14 then (if scale % 256 = 255 then .nan else scaleV (ds8V x) ((scale % 256 : Nat) - 127))
  else if tfScaled fmt then mxValue (tfElem fmt) scale x
  else elemV (tfElem fmt) x

/-- The scale byte of element (i, j): byte 4·i + ⌊j/32⌋ of the scale block (R249). -/
def tileScale (scales : List Byte) (i j : Nat) : Nat := (scales.getD (4 * i + j / 32) 0).toNat

/-- The checksum of a list of elements with their scales (R95). -/
def checksum (fmt : Nat) (xs : List (Nat × Nat)) : W32 :=
  if tfInt fmt then
    BitVec.ofNat 32 (wrapInt 32 (xs.map (fun (p : Nat × Nat) => intOf (tfElem fmt) p.1)).sum)
  else
    let t := xs.foldl (fun (a : FVal) (p : Nat × Nat) => addV a (tileValue fmt p.2 p.1)) (.fin false 0 0)
    let t := match t with | .fin _ 0 _ => FVal.fin false 0 0 | v => v
    BitVec.ofNat 32 (encF ff32 .rne false t)

/-- The 256 checksums of a tile: 128 rows, then 128 columns (R250). -/
def tileSums (fmt : Nat) (data scales : List Byte) : List W32 :=
  let el := fun i j => (tileElem fmt data (128 * i + j), tileScale scales i j)
  (List.range 128).map (fun i => checksum fmt ((List.range 128).map (fun j => el i j)))
    ++ (List.range 128).map (fun j => checksum fmt ((List.range 128).map (fun i => el i j)))

/-- A glove region of 1,280 bytes (R250). -/
def gloveOf (cuff : BitVec 512) (sums : List W32) : List Byte :=
  bytesOf 64 cuff.toNat ++ sums.flatMap (fun v => bytesOf 4 v.toNat) ++ List.replicate 192 0

/-- The cuff of a glove region. -/
def gloveCuff (g : List Byte) : BitVec 512 := BitVec.ofNat 512 (ofBytes (g.take 64))

/-- The tile verifies: its cuff check holds, its format is the declared one, and every checksum agrees (R191). -/
def tileVerifies (fmt : Nat) (data glove scales : List Byte) : Bool :=
  cuffOk (gloveCuff glove) && decide ((fld (gloveCuff glove) 0 8).toNat = fmt)
    && decide ((glove.drop 64).take 1024 = (tileSums fmt data scales).flatMap (fun v => bytesOf 4 v.toNat))

end Sys2Proof.Machine
end

