-- ==== Sys2Proof/Machine/Access.lean ====
section
/-! DEFINITION. The access path (R172, R173, R176 to R184, R246): the atomic units of an access with their checks,
watchpoints (R393), out-of-range recording, the orders that earlier fences put on an access (R268 to R270, R275), and the
start of loads, stores and atomics. -/
namespace Sys2Proof.Machine

/-- An atomic unit of an access (R266): `n` bytes at `va`, at physical key `key`, or out of range (R246). `leaf` is the leaf
of a global address, 0 for core store. -/
structure Part where
  va   : W64
  n    : Nat
  key  : Option Nat
  leaf : W64
  deriving DecidableEq, Repr

/-- All results, or the trap of lowest rank, the first of its rank (R323). -/
def allRes {α : Type} : List (Res α) → Res (List α)
  | [] => .ok []
  | r :: rs => (both r (allRes rs)).map (fun p => p.1 :: p.2)

/-- A failed translation as a trap of a word (R323, ranks 9 and 11). -/
def xlTrap {α : Type} (cls : Nat) (va : W64) : XErr → Res α
  | .code c => trapOf (if c = 0x13 then 11 else 9) cls c va
  | .fault f => .error (.fault f)

/-- The offset in the control window of its die that an address of a management core names (R402). -/
def windowOff (core : Nat) (va : W64) : Option Nat :=
  if 2048 ≤ core ∧ va.toNat / 2 ^ 19 = 0x00F0000000000000 / 2 ^ 19 then some (va.toNat % 2 ^ 19) else none

/-- Width in bytes of the register at an offset of the control window, 0 where none is named (R335, R373, R402). -/
def windowWidth (off : Nat) : Nat :=
  let o := (off - 0x8000) % 0x1000
  if off < 0x3000 then (if off % 0x40 < 8 then 8 else 0)
  else if 0x4300 ≤ off ∧ off < 0x4340 then 1
  else if 0x8000 ≤ off ∧ off < 0x8000 + 68 * 0x1000 then
    (if o < 0x410 then 8 else if 0x440 ≤ o ∧ o < 0x4C4 then 1 else if 0x500 ≤ o ∧ o < 0x584 then 1
     else if 0x600 ≤ o ∧ o < 0x800 then 2 else 0)
  else if 0x5000 ≤ off ∧ off < 0x6000 then
    (if off % 0x100 < 0x30 then 8 else if 0x40 ≤ off % 0x100 ∧ off % 0x100 < 0xC0 then 4 else 0)
  else if 0x4000 ≤ off ∧ off < 0x6970 then 8
  else 0

/-- An access of `n` bytes to the control window is one of R402. -/
def windowFits (off n : Nat) : Bool :=
  decide (off % n = 0) && (decide (n = 8) || decide (windowWidth off = n) || decide (windowWidth off = 0))

/-- One unit of an access, checked at issue (R172, R173, R346); only a scalar load or store reaches the control window
(R402). -/
def partOf (s : State) (c : Ctx) (cls align : Nat) (need : Need5) (va : W64) (n : Nat) : Res Part :=
  if va.toNat % align ≠ 0 then trapOf 8 cls 0x0A va
  else if (windowOff c.run.lcore va).isSome then trapOf (if c.lvl = 0 then 9 else 8) cls (if c.lvl = 0 then 0x08 else 0x0A) va
  else
    match addrForm va with
    | .invalid => trapOf 9 cls 0x07 va
    | .local_ o =>
      .ok { va := va, n := n, key := if inRange c.tiles.share o then some (keyCore c.run.lcore o) else none, leaf := 0 }
    | .global =>
      match xlate s c.run.lcore c.run.space va { need with lvl := c.lvl } with
      | .error e => xlTrap cls va e
      | .ok x => .ok { va := va, n := n, key := some x.key, leaf := x.leaf }

/-- The units of an access (R176, R266): whole up to 8 bytes, else words of 4. -/
def unitsOf (va : W64) (n : Nat) : List (W64 × Nat) :=
  if n ≤ 8 then [(va, n)] else (List.range (n / 4)).map (fun j => (va + BitVec.ofNat 64 (4 * j), 4))

/-- The watched bytes that units touch, as bits of MASK (R392, R393). -/
def watchBits (c : Ctx) (us : List (W64 × Nat)) : Nat :=
  if addrForm c.ctr.watcha = .invalid then 0
  else joinLanes 1 ((List.range 16).map (fun k =>
    let a := c.ctr.watcha + BitVec.ofNat 64 k
    b2n (bit c.ctr.watchm k && us.any (fun u => decide ((a - u.1).toNat < u.2)))))

/-- WATCH on an access-path word (R393). -/
def watchCheck (c : Ctx) (cls : Nat) (rd wr : Bool) (us : List (W64 × Nat)) : Res Unit :=
  let m := watchBits c us
  if c.lvl = 0 ∧ c.wen = true ∧ bit c.ctr.watchm 23 = false
      ∧ ((rd && bit c.ctr.watchm 16) || (wr && bit c.ctr.watchm 17)) = true ∧ m ≠ 0 then
    trapOf 17 cls 0x0B (BitVec.ofNat 64 (m + 65536 * b2n wr + 131072 * cls))
  else .ok ()

/-- The checks of an access: alignment, form, translation and permission of every unit, then the watch. -/
def checkUnits (s : State) (cls align : Nat) (need : Need5) (us : List (W64 × Nat)) : Res (List Part) :=
  let c := s.my
  (both (allRes (us.map (fun u => partOf s c cls align need u.1 u.2))) (watchCheck c cls need.r need.w us)).map (·.1)

/-- The lowest out-of-range byte of an access (R246). -/
def lowestOob (ps : List Part) : Option W64 :=
  (ps.filter (fun p => p.key == none)).foldl (fun (m : Option W64) (p : Part) =>
    match m with
    | none => some p.va
    | some a => if p.va.toNat < a.toNat then some p.va else some a) none

/-- OOBADDR and OOBFLAG at the end of the bundle (R119, R246). -/
def noteOob (s : State) (ps : List Part) : State :=
  match lowestOob ps with
  | some a => atEnd s (.oob a)
  | none => s

/-- The pages of an access enter the TLBs (R347). -/
def notePages (s : State) (ps : List Part) : State :=
  ((ps.filter (fun p => addrForm p.va == .global)).map (fun p => p.va.toNat / 4096)).eraseDups.foldl
    (fun s a => noteXl s s.my.run.lcore s.my.run.space (BitVec.ofNat 64 (a * 4096))) s

/-! Orders -/

/-- What a later read of the access path waits for (R268 to R270, R275). -/
def readNeeds (c : Ctx) : List Need :=
  c.q.fences.flatMap (fun f =>
    if f.toRead then f.reads.map (fun i => { id := i, k := 0, scope := f.scope })
      ++ (if f.full then f.writes.map (fun i => { id := i, k := 2, scope := f.scope }) else [])
    else [])

/-- What a later write of the access path waits for. -/
def writeNeeds (c : Ctx) : List Need :=
  c.q.fences.flatMap (fun f =>
    if f.toWrite then f.reads.map (fun i => { id := i, k := 0, scope := f.scope })
      ++ f.writes.map (fun i => { id := i, k := if f.strict then 2 else 1, scope := f.scope })
    else [])

/-- What a later operation of path `p` waits for (R275). -/
def pathNeeds (c : Ctx) (p : Nat) : List Need :=
  c.q.pfences.flatMap (fun f =>
    if f.to_ = some p then f.ids.map (fun i => { id := i, k := 2, scope := f.scope })
      ++ f.cmds.map (fun i => { id := i, k := 3, scope := f.scope })
    else [])

/-- A write in flight is performed at a scope (R264, R270). -/
def WriteRec.performedAt (w : WriteRec) (scope : Nat) : Bool :=
  match scope with
  | 0 => decide (1 ≤ w.stage)
  | 1 => decide (2 ≤ w.stage)
  | 2 => decide (3 ≤ w.stage)
  | _ => decide (4 ≤ w.stage) && w.stash.isNone

/-- Loads of a context in flight (R267). -/
def loadsOf (s : State) (k : Nat) : List Nat := (s.loads.filter (fun l => decide (l.ctx = k))).map (·.id)
/-- An atomic of context `k` in flight: its write takes its name. -/
def LoadRec.isAtomic (l : LoadRec) (k : Nat) : Bool :=
  match l.kind with
  | .atomic _ _ _ _ _ => decide (l.ctx = k)
  | _ => false
/-- Access-path writes of a context in flight, those of atomics not yet performed included (R268 to R270). -/
def writesOf (s : State) (k : Nat) : List Nat :=
  (s.writes.filter (fun w => decide (w.agent = agentOf k 0))).map (·.id) ++ (s.loads.filter (·.isAtomic k)).map (·.id)

/-- Writes of others that a context has read and that are still in flight (R270). -/
def observedOf (s : State) (k : Nat) : List Nat :=
  (s.ctx k).q.observed.filter (fun i => s.writes.any (fun w => decide (w.id = i)))

/-- The orders that `fence.S.o` puts on later accesses (R268): o is 1 acquire, 2 release, 3 both. -/
def fenceOf (s : State) (k scope order : Nat) : List Fence :=
  let r := loadsOf s k
  let w := writesOf s k
  let o := observedOf s k
  if order = 1 then [{ reads := r, writes := o, toRead := true, toWrite := true, scope := scope, full := false }]
  else if order = 2 then [{ reads := r, writes := w ++ o, toRead := false, toWrite := true, scope := scope, full := false }]
  else [{ reads := r, writes := w, toRead := true, toWrite := true, scope := scope, full := true },
        { reads := [], writes := o, toRead := false, toWrite := true, scope := scope, full := false }]

/-- An order that something may still wait for. -/
def Fence.live (s : State) (f : Fence) : Bool :=
  f.reads.any (fun i => s.loads.any (fun l => decide (l.id = i)))
    || f.writes.any (fun i => s.writes.any (fun w => decide (w.id = i)) || s.loads.any (fun l => decide (l.id = i)))

/-- A context with orders added and spent ones dropped; its later reads come after what the orders on them name, also where
that has already happened (R270). -/
def addFences (s : State) (k : Nat) (fs : List Fence) : State :=
  let c := s.ctx k
  let gone := fs ++ c.q.fences.filter (fun f => !f.live s)
  let s1 := s.setCtx k { c with q := { c.q with fences := (c.q.fences ++ fs).filter (Fence.live s) } }
  if gone.any (·.toRead) then raiseFloor s1 k [0] (gone.any (fun f => f.toRead && decide (4 ≤ f.scope))) else s1

/-! Starting accesses -/

/-- A counted command fits its 8-bit counter (R28). -/
def counterFits (n : Nat) : Res Unit := if 255 ≤ n then holdOf .counterFull else .ok ()

/-- A management core's scalar load of its control window (R402): performed in issue order, right after its bundle. -/
def windowLoad (s : State) (cls q off n sext : Nat) (va : W64) : Res State :=
  if s.my.lvl = 0 then trapOf 9 cls 0x08 va
  else if !windowFits off n then trapOf 8 cls 0x0A va
  else
    let c := s.my
    let id := s.nextId
    let l : LoadRec :=
      { id := id, agent := agentOf s.me 0, core := c.run.lcore, die := dieOf c.run.lcore, ctx := s.me, q := q,
        kind := .ctl off n sext, counted := true, va := va, space := c.run.space, t0 := nowAt s c.run.lcore }
    let s2 := s.setMy { c with q := { c.q with ld := c.q.ld + 1 } }
    .ok (atEnd { s2 with nextId := id + 1, loads := s2.loads ++ [l], agenda := s2.agenda ++ [.loadQueueArrival id] }
      (.reserve q { acc := id }))

/-- A load of the listed units into queue `q` from translated memory; a unit without address is a word of zeros (R176 to
R178). -/
def memoryLoad (s : State) (cls q align sext : Nat) (us : List (Option W64 × Nat)) : Res State :=
  let named : List (W64 × Nat) := us.filterMap (fun (u : Option W64 × Nat) => u.1.map (fun a => (a, u.2)))
  match both (counterFits s.my.q.ld) (checkUnits s cls align { r := true } named) with
  | .error e => .error e
  | .ok (_, ps) =>
    let c := s.my
    let id := s.nextId
    let cells := us.flatMap (fun u =>
      match u.1 with
      | none => List.replicate u.2 none
      | some a =>
        match ps.find? (fun p => decide (p.va = a)) with
        | some { key := some key, .. } => (List.range u.2).map (fun i => some (key + i, a + BitVec.ofNat 64 i))
        | _ => List.replicate u.2 none)
    let l : LoadRec :=
      { id := id, agent := agentOf s.me 0, core := c.run.lcore, die := dieOf c.run.lcore, ctx := s.me, q := q,
        kind := .read cells sext, needs := readNeeds c ++ pathNeeds c 0, counted := true,
        va := (named.headD (0, 0)).1, space := c.run.space, host := ps.any (fun p => pteBias p.leaf)
        t0 := nowAt s c.run.lcore }
    let s1 := notePages (noteOob s ps) ps
    let c1 := s1.my
    let s2 := s1.setMy { c1 with q := { c1.q with ld := c1.q.ld + 1 } }
    .ok (atEnd { s2 with nextId := id + 1, loads := s2.loads ++ [l] } (.reserve q { acc := id }))

/-- A load of the listed units into queue `q`: of the control window where a management core's scalar load names it, else of
memory (R176 to R178, R402). -/
def startLoad (s : State) (cls q align sext : Nat) (us : List (Option W64 × Nat)) : Res State :=
  match us with
  | [(some va, n)] =>
    match windowOff s.my.run.lcore va with
    | some off =>
      if 8 < n then memoryLoad s cls q align sext us
      else (both (counterFits s.my.q.ld) (windowLoad s cls q off n sext va)).map (·.2)
    | none => memoryLoad s cls q align sext us
  | _ => memoryLoad s cls q align sext us

/-- The word of the bundle that stands in a class. -/
def wordOfClass (c : Ctx) (cls : Nat) : W32 :=
  match c.iss.text.drop 1 |>.find? (fun w => decide ((fld w 28 3).toNat = cls)) with
  | some w => w
  | none => 0

/-- The write record of one unit of a store of context `k`. -/
def storeRec (t0 : W64) (word : W32) (c : Ctx) (k id : Nat) (seq : W32) (p : Part) (key : Nat) (bytes : List Byte) : WriteRec :=
  { id := id, agent := agentOf k 0, core := c.run.lcore, die := dieOf c.run.lcore, home := pteHome p.leaf,
    cells := (bytes.zipIdx).map (fun (b : Byte × Nat) => (key + b.2, b.1)), vis := id,
    needs := writeNeeds c ++ pathNeeds c 0, preds := (writeNeeds c).map (·.id),
    ctx := k, seq := seq, pc := c.iss.pc, word := word, lvl := c.lvl, store := true,
    durable := pteDur p.leaf, host := pteBias p.leaf, launch := c.run.launch,
    step := if c.run.spawned then none else some c.run.cur, va := p.va, space := c.run.space, t0 := t0 }

/-- The write records of a store: one for each unit in range, or one without bytes, which only completes. -/
def storeRecs (t0 : W64) (word : W32) (c : Ctx) (k : Nat) (seq : W32) : (id : Nat) → List (Part × List Byte) → List WriteRec
  | _, [] => []
  | id, (p, bs) :: rest =>
    match p.key with
    | some key => storeRec t0 word c k id seq p key bs :: storeRecs t0 word c k seq (id + 1) rest
    | none => storeRecs t0 word c k seq id rest

/-- A management core's scalar store to its control window (R402): the register takes the write right after the bundle, and
the store is then complete. -/
def windowStore (s : State) (cls off : Nat) (va : W64) (bs : List Byte) : Res State :=
  if s.my.lvl = 0 then trapOf 9 cls 0x08 va
  else if !windowFits off bs.length then trapOf 8 cls 0x0A va
  else
    let (seq, s0) := takeSeq s
    let c := s0.my
    let rec_ := { storeRec (nowAt s0 c.run.lcore) (wordOfClass c cls) c s0.me s0.nextId seq { va := va, n := 0, key := some 0, leaf := 0 } 0 [] with
      stage := 4, needs := [] }
    let s1 := s0.setMy { c with q := { c.q with st := c.q.st + 1 } }
    .ok { s1 with
      nextId := s1.nextId + 1
      writes := s1.writes ++ [rec_]
      agenda := s1.agenda ++ [.controlRegisterWrite (dieOf c.run.lcore) off bs.length (BitVec.ofNat 64 (ofBytes bs)),
        .storeCompletion s0.nextId] }

/-- A store of the listed units to translated memory (R179 to R181): checks, sequence number, counter, and the writes set
out. -/
def memoryStore (s : State) (cls align : Nat) (us : List (W64 × List Byte)) : Res State :=
  match both (counterFits s.my.q.st)
      (checkUnits s cls align { w := true } (us.map (fun u => (u.1, u.2.length)))) with
  | .error e => .error e
  | .ok (_, ps) =>
    let (seq, s0) := takeSeq (notePages (noteOob s ps) ps)
    let c := s0.my
    let t0 := nowAt s0 c.run.lcore
    let made := storeRecs t0 (wordOfClass c cls) c s0.me seq s0.nextId (ps.zip (us.map (·.2)))
    let recs := if made = [] then
        [storeRec t0 (wordOfClass c cls) c s0.me s0.nextId seq { va := 0, n := 0, key := some 0, leaf := 0 } 0 []] else made
    let dur : List Need := (recs.filter (·.durable)).map (fun w => { id := w.id, k := 4 })
    let c1 := { c with
      q := { c.q with st := c.q.st + 1, durable := c.q.durable ++ dur }
      iss := { c.iss with dur := c.iss.dur ++ dur } }
    let s1 := s0.setMy c1
    .ok { s1 with nextId := s1.nextId + recs.length, writes := s1.writes ++ recs }

/-- A store of the listed units: to the control window where a management core's scalar store names it, else to memory (R179
to R181, R402). -/
def startStore (s : State) (cls align : Nat) (us : List (W64 × List Byte)) : Res State :=
  match us with
  | [(va, bs)] =>
    match windowOff s.my.run.lcore va with
    | some off =>
      if 8 < bs.length then memoryStore s cls align us
      else (both (counterFits s.my.q.st) (windowStore s cls off va bs)).map (·.2)
    | none => memoryStore s cls align us
  | _ => memoryStore s cls align us

/-- Scope of a release that must write stash lines back (R259). -/
def releases (scope order : Nat) : Bool := decide (3 ≤ scope) && decide (order ≥ 2)

/-- An atomic (R183, R184, R269): its operands taken, its address checked, its entry reserved. -/
def startAtomic (s : State) (cls op q scope order : Nat) (va : W64) : Res State :=
  let n := if op = 0x26 then 2 else 1
  match both (counterFits s.my.q.ld)
      (both (takeEntries s cls (q % 4) n) (checkUnits s cls 8 { r := true, w := true } [(va, 8)])) with
  | .error e => .error e
  | .ok (_, (es, s0), ps) =>
    let c := s0.my
    let id := s0.nextId
    let opnd := fun i => lo64 ((es.getD i { data := 0, count := 0 }).bytes)
    let p := ps.headD { va := va, n := 8, key := none, leaf := 0 }
    let early := if order ≥ 2 then fenceOf s0 s0.me scope 2 else []
    let early := if order = 3 then fenceOf s0 s0.me scope 3 else early
    let own := early.flatMap (fun f => f.reads.map (fun i => { id := i, k := 0, scope := scope })
      ++ f.writes.map (fun i => { id := i, k := if f.full then 2 else 1, scope := scope }))
    let l : LoadRec :=
      { id := id, agent := agentOf s0.me 0, core := c.run.lcore, die := dieOf c.run.lcore, ctx := s0.me, q := q,
        kind := .atomic op p.key p.leaf (opnd (n - 1)) (opnd 0),
        needs := readNeeds c ++ writeNeeds c ++ pathNeeds c 0 ++ own, counted := true, va := va, space := c.run.space,
        scope := scope, host := pteBias p.leaf, t0 := nowAt s0 c.run.lcore }
    let s1 := notePages (noteOob s0 ps) ps
    let c1 := s1.my
    let dur : List Need := if p.key.isSome ∧ pteDur p.leaf = true then [{ id := id, k := 4 }] else []
    let s2 := s1.setMy { c1 with
      q := { c1.q with ld := c1.q.ld + 1, durable := c1.q.durable ++ dur }
      iss := { c1.iss with dur := c1.iss.dur ++ dur } }
    let s3 := atEnd { s2 with nextId := id + 1, loads := s2.loads ++ [l] } (.reserve q { acc := id })
    if order = 1 ∨ order = 3 then
      .ok (addFences s3 s3.me
        [{ reads := [id], writes := [id], toRead := true, toWrite := true, scope := scope,
           full := decide (order = 3) }])
    else .ok s3

/-! The X slot's own accesses (R163) -/

/-- Core-store writes that have reached their core go to memory; their records stay without bytes until the store has
completed. -/
def settleCore (s : State) : State :=
  let go := s.writes.filter (fun w => decide (1 ≤ w.stage) && w.cells.any (fun c => isCoreKey c.1))
  { s with
    mem := go.foldl (fun m w => memWriteCells m w.cells) s.mem
    writes := s.writes.map (fun w =>
      if 1 ≤ w.stage ∧ w.cells.any (fun c => isCoreKey c.1) = true then { w with cells := [], stage := 4 } else w) }

/-- The checks of an X-slot access of 32 bytes: ALIGN, TRANSLATION, then the watch (R163, R393). -/
def scaleCheck (s : State) (addr : W64) (wr : Bool) : Res Part :=
  if addr.toNat % 32 ≠ 0 then trapOf 8 7 0x0A addr
  else
    match addrForm addr with
    | .local_ o =>
      (watchCheck s.my 7 (!wr) wr [(addr, 32)]).map (fun _ =>
        { va := addr, n := 32, key := if inRange s.my.tiles.share o then some (keyCore s.my.run.lcore o) else none,
          leaf := 0 })
    | _ => trapOf 9 7 0x07 addr

end Sys2Proof.Machine
end

