-- ==== Sys2Proof/Machine/Order.lean ====
section
/-! DEFINITION. When what an access waits for has happened (R270, R275), and the persist barrier (R187, R282). -/
namespace Sys2Proof.Machine

/-- A load with this name is in flight. -/
def loadAlive (s : State) (i : Nat) : Bool := s.loads.any (fun l => decide (l.id = i))

/-- An engine command of a context with this sequence number is in flight. -/
def cmdAlive (s : State) (k seq : Nat) : Bool := (s.ctx k).cmds.any (fun c => decide (c.seq.toNat = seq))

/-- The writes of a context's engine command. -/
def cmdWrites (s : State) (k seq : Nat) : List WriteRec :=
  s.writes.filter (fun w => decide (w.ctx = k) && decide (w.seq.toNat = seq) && decide (w.agent ≠ 0) && decide (w.agent ≠ agentOf k 0))

/-- Every write with this name that is still in flight passes a test. -/
def writeHas (s : State) (i : Nat) (p : WriteRec → Bool) : Bool := s.writes.all (fun w => decide (w.id ≠ i) || p w)

/-- A write has passed what an order at a scope lets a later write, about to reach stage `tgt`, not overtake: at each of the
stages core, quad and die that the scope includes (R270); at sys scope nothing of this device may be without it (R274, R278; log
entry 93). -/
def WriteRec.ahead (w : WriteRec) (scope tgt : Nat) : Bool :=
  if 4 ≤ scope ∧ 3 ≤ tgt then w.performedAt 3 else decide (min tgt (min scope 2 + 1) ≤ w.stage)

/-- A command that writes only to another device, and whose chunks have all been read and sent: within a scope of this device
nothing of it is left to perform (R186, R274, R294). -/
def Cmd.sentFar (x : Cmd) : Bool :=
  (match x.op with | .wput _ _ _ | .wadd _ _ _ _ => true | _ => false) && decide (0 < x.total) && decide (x.total ≤ x.chunks.length)

/-- The engine command of a context with this sequence number, if it is in flight, has performed its operations at a scope as far
as they concern this device (R275). -/
def cmdPast (s : State) (k seq scope : Nat) : Bool :=
  (s.ctx k).cmds.all (fun c => decide (c.seq.toNat ≠ seq) || (decide (scope < 4) && c.sentFar))

/-- A need of an operation of context `k` that is about to reach stage `tgt` is met (R270, R275, R187). A read stands in for the
write it observed (R270). A collective whose descriptor has been read and names no durable page has no durable write to come. -/
def needMet (s : State) (k tgt : Nat) (n : Need) : Bool :=
  match n.k with
  | 0 => !loadAlive s n.id
  | 1 => !loadAlive s n.id && writeHas s n.id (fun w => w.ahead n.scope tgt)
  | 2 => !loadAlive s n.id && writeHas s n.id (fun w => w.performedAt n.scope)
  | 3 => cmdPast s k n.id n.scope && (cmdWrites s k n.id).all (fun w => w.performedAt n.scope)
    && (s.ctx k).q.saw.all (fun p => decide (p.2.1 ≠ n.id) || writeHas s p.2.2 (fun w => w.performedAt n.scope))
  | 4 => !loadAlive s n.id && writeHas s n.id (fun w => w.persisted)
  | _ => (s.ctx k).cmds.all (fun c => decide (c.seq.toNat ≠ n.id) || (decide (c.path = 3) && decide (1 ≤ c.phase) && !c.dur))
    && (cmdWrites s k n.id).all (fun w => !w.durable || w.persisted)

/-- Every need is met. -/
def needsMet (s : State) (k tgt : Nat) (ns : List Need) : Bool := ns.all (needMet s k tgt)

/-! The persist barrier -/

/-- The lowest number that no key of a file holds. -/
def firstFree {α : Type} : FMap α → Nat → Nat
  | [], i => i
  | (k, _) :: r, i => if k = i then firstFree r (i + 1) else i

/-- The persist record of a context (R282). -/
def persistRecord (c : Ctx) (seq : W64) (msord : W64) (cur : Nat) : BitVec 512 :=
  let w0 := seq
  let w1 : W64 := BitVec.ofNat 64 (c.run.launch % 2 ^ 32 + 2 ^ 32 *
    (c.run.firstCore % 2048 + 2048 * (c.run.firstSeat % 2) + 4096 * b2n c.run.spawned))
  let w2 : W64 := BitVec.ofNat 64 (msord.toNat % 2 ^ 32)
  let w3 : W64 := if c.run.spawned then BitVec.allOnes 64 else BitVec.ofNat 64 cur
  let ws := [w0, w1, w2, w3, 0, 0, 0]
  BitVec.ofNat 512 (joinLanes 64 ((ws ++ [chkWord 0xC3C3C3C3C3C3C3C3 ws]).map (·.toNat)))

/-- The record slot of a context: its own, or the first free one of 16,384 (R282). -/
def recordSlot (s : State) (c : Ctx) : Option Nat :=
  match c.per.slot with
  | some i => some i
  | none => let i := firstFree s.dev.records 0; if i < 16384 then some i else none

/-- A `pbar` completes: the sequence number rises by one and the record is persisted with it, with MSORD and the walker position
that stood at the `pbar` (R187, R282). -/
def pbarDone (s : State) (k : Nat) (msord : W64) (cur : Nat) : State :=
  let c := s.ctx k
  match recordSlot s c with
  | none => s
  | some i =>
    let seq := c.per.seq + 1
    let bs := bytesOf 64 (persistRecord c seq msord cur).toNat
    let key := keyNv (Config.nvMapped + 64 * i)
    let s1 := s.setCtx k { c with
      per := { slot := some i, seq := seq }
      q := { c.q with durable := c.q.durable.filter (fun n => !needMet s k 0 n) } }
    { s1 with
      mem := memWrite s1.mem key bs
      nv := memWrite s1.nv key bs
      dev := { s1.dev with records := fset s1.dev.records i c.run.launch } }

/-- The need of a store, an atomic or a `tstore.dur` of the bundle, which a `pbar` in C1 covers (R187). -/
def Need.ofC0 (c : Ctx) (n : Need) : Bool :=
  decide (n.k = 4) || c.cmds.any (fun x => decide (x.path = 1) && decide (x.seq.toNat = n.id))

/-- The hold and the effect of a `pbar` in a slot (R187): writes of earlier bundles first, then, for C1, the durable write of
C0. -/
def pbarWord (s : State) (sl : CSlot) : Res State :=
  let c := s.my
  if (c.q.durable.filter (fun n => !c.iss.dur.contains n)).all (needMet s s.me 0) = false then holdOf .other
  else if recordSlot s c = none then holdOf .other
  else .ok (atEnd s (.pbar (match sl with | .c0 => [] | .c1 => c.iss.dur.filter (·.ofC0 c))))

end Sys2Proof.Machine
end

