-- ==== Sys2Proof/Machine/MemOps.lean ====
section
/-! DEFINITION. How writes pass their stages and loads are answered (R264 to R272, R259, R279, R280, R350): the shared
operations of the memory events and the engines. -/
namespace Sys2Proof.Machine

/-- The dies of the device (R1). -/
def dieList : List Nat := List.range 32
/-- Applied on every die. -/
def allDies : BitVec 32 := BitVec.allOnes 32

/-- The keys a write stores to. -/
def WriteRec.keys (w : WriteRec) : List Nat := w.cells.map (·.1)
/-- The keys a load or atomic reads. -/
def LoadRec.keys (l : LoadRec) : List Nat :=
  match l.kind with
  | .read cells _ => cells.filterMap (fun (c : Option (Nat × W64)) => c.map (·.1))
  | .atomic _ (some key) _ _ _ => (List.range 8).map (key + ·)
  | _ => []

/-- Two sets of keys share one. -/
def meet (a b : List Nat) : Bool := a.any (fun k => b.contains k)

/-- A bias flip holds back an access (R278, R353). -/
def flipBlocks (s : State) (space : Nat) (va : W64) : Bool :=
  s.dies.any (fun p => match p.2.flip with
    | some f => decide (f.space = space) && decide (va.toNat / 2 ^ f.bits = f.va.toNat / 2 ^ f.bits)
    | none => false)

/-- The next place in time (log entry 4). -/
def tick (s : State) : Nat × State := (s.ticks, { s with ticks := s.ticks + 1 })

/-- A write replaced by its next state. -/
def putWrite (s : State) (w : WriteRec) : State :=
  { s with writes := s.writes.map (fun x => if x.id = w.id then w else x) }

/-- The write with a name. -/
def writeOf (s : State) (id : Nat) : Option WriteRec := s.writes.find? (fun w => decide (w.id = id))

/-- An event reaches a seat that holds in `idle` (R128). -/
def wake (s : State) (k : Nat) : State :=
  let c := s.ctx k
  if c.flow.idle then s.setCtx k { c with flow := { c.flow with wake := true } } else s

/-- A seat resumes after an exchange or a debug stop: the event reaches an `idle` at which it stands (R128; log entry 88). -/
def resumed (c : Ctx) : Ctx := { c with flow := { c.flow with wake := true } }

/-! Reports (R174, R325) -/

/-- A report joins the undelivered ones of a context; a halted seat's goes only into the halt record (R322). -/
def addReport (s : State) (k : Nat) (r : Report) : State :=
  let c := s.ctx k
  if c.run.halted then s.setCtx k { c with haltRec := c.haltRec ++ [r] }
  else s.setCtx k { c with reports := c.reports ++ [r] }

/-! Settling -/

/-- Applied everywhere and known to all who wait for it. -/
def WriteRec.finished (w : WriteRec) : Bool :=
  decide (4 ≤ w.stage) && !w.store && w.stash.isNone && (!w.durable || w.persisted)

/-- Nothing of a remembered write matters to a read any more (log entry 92). -/
def Past.spent (p : Past) (now : Nat) : Bool := p.w.times.all (fun e => decide (e.2 + readSpan ≤ now))

/-- The writes remembered once memory has taken another. -/
def rememberWrite (s : State) (w : WriteRec) : List Past :=
  let cells := w.cells.filter (fun c => !isCoreKey c.1)
  (if cells = [] then s.past else s.past ++ [{ w := w, old := cells.map (fun c => (c.1, memGet s.mem c.1)) }]).dropWhile
    (fun p => p.spent s.ticks)

/-- A finished write goes to memory unless another in flight comes before it in the coherence order of a byte (R266), or
happens before it and has yet to be passed on by who reads it (R272). -/
def foldOne (s : State) (w : WriteRec) : State :=
  if w.finished && w.preds.all (fun i => s.writes.all (fun x => decide (x.id ≠ i)))
      && s.writes.all (fun x => decide (x.id = w.id) || decide (w.place ≤ x.place) || !meet x.keys w.keys) then
    { s with
      mem := memWriteCells s.mem w.cells
      past := rememberWrite s w
      writes := s.writes.filter (fun x => decide (x.id ≠ w.id)) }
  else s

/-- Every finished write that can go to memory goes. -/
def settle (s : State) : State := (settleCore s).writes.foldl foldOne (settleCore s)

/-! The die order and the crossing of the bridges (R264, R265) -/

/-- A die's clock of applied writes, by origin (R265). -/
def clockOf (s : State) (d o : Nat) : Nat := fget 0 (s.die d).clock o

/-- A die has applied the writes of an origin up to a number (R265). -/
def raiseClock (s : State) (d o n : Nat) : State :=
  let x := s.die d
  s.setDie d { x with clock := fset x.clock o (max (fget 0 x.clock o) n) }

/-- A write enters the die order of its origin, with its origin's clock (R265); at its home it takes its place in the coherence
order (R266). `atHome`: its home applies it in the same moment. A host-bias write is performed at the companion's point of
coherence, and every die counts it as applied (R278; log entry 23). -/
def stampWrite (s : State) (w : WriteRec) (atHome : Bool) : State :=
  let (n, s1) := tick s
  let m := clockOf s1 w.die w.die + 1
  let home := atHome || decide (w.home = w.die)
  let dies := if w.host then dieList else if home then [w.die, w.home] else [w.die]
  let s2 := dies.foldl (fun s d => raiseClock s d w.die m) s1
  putWrite s2
    { w with
      stage := if w.host then 4 else 3
      vis := n
      coh := if w.host || home then some n else none
      applied := dies.foldl (fun a d => a ||| BitVec.ofNat 32 (2 ^ d)) 0
      times := dies.foldl (fun m d => fset m (16 + d) n) (fset w.times 3 n)
      clock := fset (s1.die w.die).clock w.die m
      stash := none }

/-- Lines of 256 bytes that a set of keys touches. -/
def linesOf (ks : List Nat) : List Nat := (ks.map (· / 256)).eraseDups

/-- The lines of a stash entry that a test picks are no longer held (R258). -/
def StashEntry.without (e : StashEntry) (p : Nat → Bool) : StashEntry :=
  { e with held := (List.range 16).foldl (fun (h : BitVec 16) i =>
      if p (e.key / 256 + i) then putFld h i (0 : BitVec 1) else h) e.held }

/-- A line that is written back leaves its stash entry (R258). -/
def leaveEntry (s : State) (w : WriteRec) : State :=
  match w.stash with
  | none => s
  | some (k, i) =>
    let c := s.ctx k
    match fget? c.tiles.stash i with
    | none => s
    | some e => s.setCtx k { c with tiles := { c.tiles with stash := fset c.tiles.stash i (e.without (linesOf w.keys).contains) } }

/-- Uncorrectable granules that a write replaces whole are cleared; bytes of others are not written, and the write is
marked (R350, R362). -/
def meetPoison (s : State) (w : WriteRec) : State × WriteRec :=
  let gs := ((w.keys.map (· / 64)).eraseDups).filter (fun g => poisoned s (64 * g))
  if gs = [] then (s, w)
  else
    let whole := gs.filter (fun g => !isDead (64 * g) && (List.range 64).all (fun i => w.keys.contains (64 * g + i)))
    let part := gs.filter (fun g => !whole.contains g)
    let s1 := if w.keys.any isDead then noteAbort s w.core w.space w.va w.seq else s
    ({ s1 with poison := s.poison.filter (fun g => !whole.contains g) },
      if part = [] then w
      else { w with cells := w.cells.filter (fun c => !part.contains (c.1 / 64)), bad := some w.va })

/-- An engine command whose write met an error that it could not replace fails (R174, R350). -/
def failBad (s : State) (w : WriteRec) : State :=
  match w.bad with
  | none => s
  | some a =>
    if w.agent = 0 ∨ w.agent = agentOf w.ctx 0 then s
    else
      let c := s.ctx w.ctx
      s.setCtx w.ctx { c with cmds := c.cmds.map (fun x => if x.seq = w.seq ∧ x.status = 0 then { x with status := 2, detail := a } else x) }

/-- A `swb` whose line met an error that it could not replace fails (R174, R350). -/
def failSwb (s : State) (w : WriteRec) : State :=
  match w.bad with
  | none => s
  | some a =>
    let c := s.ctx w.ctx
    s.setCtx w.ctx { c with cmds := c.cmds.map (fun x => if x.writes.contains w.id ∧ x.status = 0 then { x with status := 2, detail := a } else x) }

/-- Dirty stash writes that a test picks are written back: they take their place now (R259, R265), and the line then sits in the
die store of the die that `to_` gives (R260). -/
def writeBackTo (s : State) (to_ : WriteRec → Nat) (p : WriteRec → Bool) : State :=
  (s.writes.filter (fun w => w.stash.isSome && p w)).foldl (fun s w =>
    let r := meetPoison (leaveEntry s w) w
    stampWrite (failSwb r.1 r.2) { r.2 with wb := true, sits := to_ w } false) s

/-- Dirty stash writes that a test picks are written back to their home die. -/
def writeBack (s : State) (p : WriteRec → Bool) : State := writeBackTo s (·.home) p

/-- A line held clean leaves the stash entries of a die, all but those of context `k` (R259). -/
def dropHeld (s : State) (k : Option Nat) (d : Nat) (lines : List Nat) : State :=
  { s with ctxs := s.ctxs.map (fun (p : Nat × Ctx) =>
      if some p.1 = k ∨ dieOf p.2.run.lcore ≠ d ∨ p.2.tiles.stash = [] then p
      else (p.1, { p.2 with tiles := { p.2.tiles with
        stash := p.2.tiles.stash.map (fun (e : Nat × StashEntry) => (e.1, e.2.without lines.contains)) } })) }

/-- The stash entry of a context that serves a global address (R204, R258). -/
def stashAt (c : Ctx) (space : Nat) (va : W64) : Option Nat :=
  (c.tiles.stash.find? (fun e => decide (e.2.space = space) && decide (e.2.va.toNat / 4096 = va.toNat / 4096))).map (·.1)

/-- A touched line is held by the stash entry (R258). -/
def holdLine (s : State) (k i : Nat) (va : W64) : State :=
  let c := s.ctx k
  match fget? c.tiles.stash i with
  | none => s
  | some e =>
    let e' := { e with held := putFld e.held (va.toNat / 256 % 16) (1 : BitVec 1) }
    s.setCtx k { c with tiles := { c.tiles with stash := fset c.tiles.stash i e' } }

/-- Every line that an access of a context touches in a bound block is held by its stash entry (R258). -/
def holdLines (s : State) (k space : Nat) (vas : List W64) : State :=
  (((vas.filter (fun a => decide (a.toNat < 2 ^ 57))).map (fun a => a.toNat / 256)).eraseDups).foldl (fun s l =>
    let a : W64 := BitVec.ofNat 64 (256 * l)
    match stashAt (s.ctx k) space a with
    | some i => holdLine s k i a
    | none => s) s

/-- The seat's dirty lines go home, and its stores on their way pass the stash: a release or fence at device scope or wider has
come after them (R259, R286). -/
def flushWrites (s : State) (k : Nat) : State :=
  let s1 := { s with writes := s.writes.map (fun w => if w.agent = agentOf k 0 ∧ w.stage < 3 then { w with noStash := true } else w) }
  writeBack s1 (fun w => match w.stash with | some (k', _) => decide (k' = k) | none => false)

/-- A host-bias write is performed at the companion's point of coherence once everything in its die's order has been applied
on every die (R264, R278; log entry 23). -/
def hostReady (s : State) (d : Nat) : Bool :=
  dieList.all (fun o => dieList.all (fun e => decide (clockOf s d o ≤ clockOf s e o)))

/-- Lines of a die that a write meets leave the die's stashes, dirty ones by write-back, all but what `own` keeps (R259); then
errors that it replaces whole are cleared (R350). -/
def meetLines (s : State) (w : WriteRec) (own : Option Nat) (also : WriteRec → Bool) : State × WriteRec :=
  let lines := linesOf w.keys
  let s1 := writeBack s (fun x => also x || (decide (x.die = w.die) && decide (own ≠ some x.ctx) && meet (linesOf x.keys) lines))
  meetPoison (dropHeld s1 own w.die lines) w

/-- A write of a unit of a die is performed in the die's order: a remote device's, the companion's, the MMU's (R259, R264,
R274, R278). -/
def dieWrite (s : State) (w : WriteRec) : State :=
  let (s1, w1) := meetLines { s with writes := s.writes ++ [w] } w none (fun _ => false)
  stampWrite s1 w1 false

/-- A write passes die stage (R264, R265, R259): what must leave a stash leaves it first, a bound line stays dirty in the
seat's own stash, in the set of its step (R260), any other write enters the die order. -/
def passDie (s : State) (w : WriteRec) : State :=
  let mine := decide (w.agent = agentOf w.ctx 0)
  let (s2, w2) := meetLines s w (if mine then some w.ctx else none)
    (fun x => w.needs.any (fun n => decide (n.id = x.id) && decide (3 ≤ n.scope)))
  match (if mine && !w.noStash then stashAt (s2.ctx w.ctx) w.space w.va else none) with
  | some i =>
    let (n, s3) := tick s2
    let lines := linesOf w.keys
    let s4 := { s3 with writes := s3.writes.map (fun x =>
      if x.stash = some (w.ctx, i) ∧ meet (linesOf x.keys) lines = true then { x with launch := w.launch, step := w.step } else x) }
    putWrite (holdLine s4 w.ctx i w.va) { w2 with stage := 3, vis := n, times := fset w2.times 3 n, stash := some (w.ctx, i) }
  | none => stampWrite (failBad s2 w2) w2 false

/-- Two writes belong to one set of a stage: the same agent, core or quad (R264). -/
def sameSet (stage : Nat) (a b : WriteRec) : Bool :=
  match stage with
  | 0 => decide (a.agent = b.agent)
  | 1 => decide (a.core = b.core)
  | _ => decide (quadOf a.core = quadOf b.core)

/-- A write of a stopped context is held at the stage it reached (R337). -/
def heldByStop (s : State) (w : WriteRec) : Bool :=
  decide (w.agent ≠ 0) && (s.ctx w.ctx).run.live && (s.launch (s.ctx w.ctx).run.launch).stopped

/-- A write may pass its next stage (R182, R264, R266, R270, R278). -/
def mayPass (s : State) (w : WriteRec) : Bool :=
  decide (w.stage < 3) && !heldByStop s w
    && needsMet s w.ctx (w.stage + 1) w.needs
    && !flipBlocks s w.space w.va
    && s.loads.all (fun l => decide (l.agent ≠ w.agent) || decide (w.id ≤ l.id) || !meet l.keys w.keys)
    && s.writes.all (fun x => decide (x.id = w.id) || decide (x.stage ≠ w.stage) || decide (w.vis ≤ x.vis)
        || !sameSet w.stage x w || !meet x.keys w.keys)
    && (!w.host || decide (w.stage < 2) || hostReady s w.die)

/-- A write passes its next stage. -/
def passStage (s : State) (w : WriteRec) : State :=
  if w.stage = 2 then settle (passDie s w)
  else
    let (n, s1) := tick s
    settle (putWrite s1 { w with stage := w.stage + 1, vis := n, times := fset w.times (w.stage + 1) n })

/-- A die applies a write of another die once it has applied everything before it (R265); a die that is not its home follows
the home, whose order gives the write its place (R266). -/
def mayApply (s : State) (w : WriteRec) (d : Nat) : Bool :=
  decide (w.stage = 3) && w.stash.isNone && (w.coh.isSome || decide (d = w.home)) && !w.applied.toNat.testBit d && decide (d < 32)
    && !heldByStop s w
    && dieList.all (fun o => decide (fget 0 w.clock o ≤ clockOf s d o) || (decide (o = w.die)
        && decide (fget 0 w.clock o = clockOf s d o + 1)))

/-- A write applied on one more die; at its home it takes its place in the coherence order (R266). -/
def applyOn (s : State) (w : WriteRec) (d : Nat) : State :=
  let (n, s0) := tick s
  let s1 := raiseClock s0 d w.die (fget 0 w.clock w.die)
  let app := w.applied ||| BitVec.ofNat 32 (2 ^ d)
  settle (putWrite s1 { w with
    applied := app
    stage := if app = allDies then 4 else 3
    coh := match w.coh with | some p => some p | none => if d = w.home then some n else none
    times := fset w.times (16 + d) n })

/-! Loads -/

/-- The later of two writes that hold a byte. -/
def laterWrite (key : Nat) (r : Option WriteRec) (w : WriteRec) : Option WriteRec :=
  if (cellAt w.cells key).isSome then
    (match r with
     | none => some w
     | some x => if x.place ≤ w.place then some w else some x)
  else r

/-- The write whose byte an agent reads at a key now. -/
def sourceOf (s : State) (v : Viewer) (before key : Nat) : Option WriteRec :=
  (s.writes.filter (fun w => w.seenBy v && (decide (w.id < before) || decide (w.agent ≠ v.agent)))).foldl (laterWrite key) none

/-- The write whose byte an agent reads at a key at a place in time. -/
def sourceAt (s : State) (v : Viewer) (before t ts key : Nat) : Option WriteRec :=
  ((allWrites s).filter (fun w => w.seenAt v t ts && (decide (w.id < before) || decide (w.agent ≠ v.agent)))).foldl (laterWrite key) none

/-- Writes of other agents among the sources of bytes read, with the writes that happen before them (R270, R272). -/
def othersOf (v : Viewer) (ws : List WriteRec) : List Nat :=
  ws.foldl (fun (r : List Nat) w => if w.agent = v.agent ∧ v.agent ≠ 0 then r else (r ++ (w.id :: w.preds)).eraseDups) []

/-- What a read of path `p` of context `k` observes, as `readByte` reads. -/
def observe (s : State) (v : Viewer) (k p before unit : Nat) (free : Bool) (keys : List Nat) : List Nat :=
  othersOf v (keys.filterMap (fun key =>
    if free && !isCoreKey key then sourceAt s v before (readTime s k p unit key) (readTime s k (p + 8) unit key) key
    else sourceOf s v before key))

/-- Writes in flight among names. -/
def inFlight (s : State) (is : List Nat) : List Nat := is.filter (fun i => s.writes.any (fun w => decide (w.id = i)))

/-- Needs that name a read, with what the read observed: the writes stand in for it (R270). A wait for its value becomes one of
kind `kk` for them. -/
def withObserved (id : Nat) (obs : List Nat) (kk : Nat) (ns : List Need) : List Need :=
  ns ++ (ns.filter (fun n => decide (n.id = id) && decide (n.k = 0 ∨ n.k = 2))).flatMap (fun n =>
    obs.map (fun o => ({ id := o, k := if n.k = 0 then kk else 2, scope := n.scope } : Need)))

/-- A write waits for the value of a read. -/
def awaits (id : Nat) (ns : List Need) : Bool := ns.any (fun n => decide (n.id = id ∧ n.k = 0))

/-- What a read observed joins the orders that wait for it (R270, R275): later fences, orders already set up, and the writes,
atomics, commands and arrivals that wait for the read. -/
def noteObserved (s : State) (k id : Nat) (obs : List Nat) : State :=
  if obs = [] then s
  else
    let c := s.ctx k
    let extra := (c.q.fences.filter (fun f => f.reads.contains id && f.toWrite)).map (fun f =>
      ({ reads := [], writes := obs, toRead := false, toWrite := true, scope := f.scope, full := false } : Fence))
    let s1 := s.setCtx k { c with
      q := { c.q with
        observed := inFlight s (c.q.observed ++ obs).eraseDups
        fences := c.q.fences ++ extra
        pfences := c.q.pfences.map (fun f => if f.ids.contains id then { f with ids := f.ids ++ obs } else f) }
      cmds := c.cmds.map (fun x => { x with needs := withObserved id obs 2 x.needs })
      call := c.call.map (fun x => { x with needs := withObserved id obs 2 x.needs }) }
    { s1 with
      writes := s1.writes.map (fun w => { w with
        needs := withObserved id obs 1 w.needs, preds := if awaits id w.needs then w.preds ++ obs else w.preds })
      loads := s1.loads.map (fun l => match l.kind with
        | .atomic _ _ _ _ _ => { l with needs := withObserved id obs 1 l.needs }
        | .enq _ _ => { l with needs := withObserved id obs 2 l.needs }
        | .read _ _ => { l with needs := l.needs ++ ((withObserved id obs 2 (l.needs.filter (fun n => decide (n.k = 2)))).drop
            (l.needs.filter (fun n => decide (n.k = 2))).length) }
        | _ => l)
      bmsgs := s1.bmsgs.map (fun m => match m with
        | .arrive i h b sc f ns => .arrive i h b sc f (withObserved id obs 2 ns)
        | m => m) }

/-- What an engine command of a context read of other agents' writes (R270, R275): it joins the orders that wait for the
command. -/
def noteSaw (s : State) (k path seq : Nat) (obs : List Nat) : State :=
  if obs = [] then s
  else
    let c := s.ctx k
    let kept := c.q.saw.filter (fun p => !(inFlight s [p.2.2]).isEmpty)
    s.setCtx k { c with q := { c.q with saw := (kept ++ (inFlight s obs).map (fun o => (path, seq, o))).eraseDups } }

/-- The entry a load reserved receives its data, or its fault address (R22, R26). -/
def arriveEntry (s : State) (l : LoadRec) (st : QState) (data : Wide) (faddr : W64) : State :=
  let c := s.ctx l.ctx
  let es := (fget [] c.q.lq l.q).map (fun e =>
    if e.acc = l.id ∧ e.st = .reserved then { e with st := st, data := data, faddr := faddr } else e)
  let s0 := match l.kind with
    | .read _ _ | .atomic _ _ _ _ _ => sampleFor s l.ctx 1 l.t0
    | _ => s
  let s1 := s0.setCtx l.ctx { c with q := { c.q with
    lq := fset c.q.lq l.q es
    ld := if l.counted then c.q.ld - 1 else c.q.ld } }
  wake { s1 with loads := s1.loads.filter (fun x => decide (x.id ≠ l.id)) } l.ctx

/-- The global addresses that a load or atomic names. -/
def LoadRec.vas (l : LoadRec) : List W64 :=
  match l.kind with
  | .read cells _ => l.va :: cells.filterMap (fun (c : Option (Nat × W64)) => c.map (·.2))
  | _ => [l.va]

/-- A load may be performed: its needs are met, no flip blocks a page that it touches, and earlier overlapping accesses of its
agent that read are done (R182, R353). -/
def mayRead (s : State) (l : LoadRec) : Bool :=
  needsMet s l.ctx 3 l.needs && !l.vas.any (flipBlocks s l.space)
    && s.loads.all (fun x => decide (x.agent ≠ l.agent) || decide (l.id ≤ x.id) || !meet x.keys l.keys)

/-- The viewer of a load. -/
def LoadRec.viewer (l : LoadRec) : Viewer := { agent := l.agent, core := l.core, die := l.die }

/-- Nothing ties a load to the present (R267; log entry 92). -/
def LoadRec.free (l : LoadRec) : Bool := l.needs.isEmpty && !l.host

/-- A read performed (R176, R182, R264, R266): each of its single-copy atomic units at a moment of its own. -/
def performRead (s : State) (l : LoadRec) (cells : List (Option (Nat × W64))) (sext : Nat) : State :=
  let badc := cells.findSome? (fun (c : Option (Nat × W64)) => match c with
    | some (key, a) => if poisoned s key then some a else none
    | none => none)
  match badc with
  | some a => arriveEntry (noteAbort s l.core l.space a 0) l .faulted 0 a
  | none =>
    let unit := fun (i : Nat) => if cells.length ≤ 8 then 0 else i / 4
    let at_ := cells.zipIdx
    let n := ofBytes (at_.map (fun (c : Option (Nat × W64) × Nat) => match c.1 with
      | some (key, _) => readByte s l.viewer l.ctx 0 l.id (unit c.2) l.free key
      | none => 0))
    let v : Wide := if sext = 0 then BitVec.ofNat 1024 n else wide64 (sext64 sext n)
    let obs := (at_.flatMap (fun (c : Option (Nat × W64) × Nat) => match c.1 with
      | some (key, _) => observe s l.viewer l.ctx 0 l.id (unit c.2) l.free [key]
      | none => [])).eraseDups
    let read := at_.filterMap (fun (c : Option (Nat × W64) × Nat) => c.1.map (fun p => (unit c.2, p.1)))
    let s1 := noteObserved (noteTimes s l.ctx 0 l.free read) l.ctx l.id obs
    arriveEntry (holdLines (askStores s1 l.core l.space l.vas (fromCtx s l.ctx) l.id) l.ctx l.space l.vas) l .arrived v 0

/-- A half of `afadd` (R183, R184). -/
def faddHalf (o v : Nat) : Nat := encF ff32 .rne false (addV (decF ff32 o) (decF ff32 v))

/-- The new value of an atomic, or none where `acas` writes nothing (R183). -/
def atomicNew (op : Nat) (o v e : W64) : Option W64 :=
  match op with
  | 0x20 => some (o + v)
  | 0x21 => some (if o.toInt ≤ v.toInt then o else v)
  | 0x22 => some (if o.toInt ≤ v.toInt then v else o)
  | 0x23 => some (o &&& v)
  | 0x24 => some (o ||| v)
  | 0x25 => some v
  | 0x26 => if o = e then some v else none
  | 0x27 => some (BitVec.ofNat 64 (faddHalf (o.toNat % 2 ^ 32) (v.toNat % 2 ^ 32)
      + 2 ^ 32 * faddHalf (o.toNat / 2 ^ 32) (v.toNat / 2 ^ 32)))
  | 0x28 => some (if o.toNat ≤ v.toNat then o else v)
  | _ => some (if o.toNat ≤ v.toNat then v else o)

/-- Bytes stored from a key upward. -/
def cellsAt (key : Nat) (bs : List Byte) : List Host.Cell := (bs.zipIdx).map (fun (p : Byte × Nat) => (key + p.2, p.1))

/-- Dirty lines that must leave a stash before an atomic is performed: those of its die that it meets, and what it releases at
device scope or wider (R259). -/
def atomicFlush (l : LoadRec) (w : WriteRec) : Bool :=
  w.stash.isSome && ((decide (w.die = l.die) && meet (linesOf w.keys) (linesOf l.keys))
    || l.needs.any (fun n => decide (n.id = w.id) && decide (3 ≤ n.scope)))

/-- An atomic may be performed at the point of coherence: every overlapping write that has its place there has been applied on
the atomic's die too, no other is visible to its agent, and a global one can be applied on its home die in the same moment
(R184, R265, R266, R276). -/
def mayAtomic (s : State) (l : LoadRec) (key : Nat) (leaf : W64) : Bool :=
  s.writes.all (fun w => !meet w.keys l.keys || (w.coh.isSome && w.applied.toNat.testBit l.die)
      || (w.coh.isNone && !w.seenBy l.viewer))
    && (isCoreKey key || (if l.host then hostReady s l.die
        else dieList.all (fun o => decide (clockOf s l.die o ≤ clockOf s (pteHome leaf) o))))

/-- An atomic performed (R183, R184): read and written in one step at the point of coherence. -/
def performAtomic (s : State) (l : LoadRec) (op key : Nat) (leaf v e : W64) : State :=
  if (List.range 8).any (fun i => poisoned s (key + i)) then arriveEntry (noteAbort s l.core l.space l.va 0) l .faulted 0 l.va
  else if isCoreKey key then
    let o : W64 := BitVec.ofNat 64 (ofBytes (memRead s.mem key 8))
    let s1 := match atomicNew op o v e with
      | some x => { s with mem := memWrite s.mem key (bytesOf 8 x.toNat) }
      | none => s
    arriveEntry s1 l .arrived (wide64 o) 0
  else
    let s0 := askStores (dropHeld s none l.die (linesOf l.keys)) l.core l.space l.vas (fromCtx s l.ctx) l.id
    let o : W64 := BitVec.ofNat 64 (ofBytes ((List.range 8).map (fun i => cohByte s0 (key + i))))
    let obs := othersOf l.viewer (l.keys.filterMap (fun i => (s0.writes.filter (fun w => w.coh.isSome)).foldl (laterWrite i) none))
    let s1 := noteTimes (noteObserved s0 l.ctx l.id obs) l.ctx 0 false (l.keys.map (fun key => (0, key)))
    let s2 := match atomicNew op o v e with
      | none => s1
      | some x =>
        let w : WriteRec :=
          { id := l.id, agent := l.agent, core := l.core, die := l.die, home := pteHome leaf,
            cells := cellsAt key (bytesOf 8 x.toNat), stage := 3, preds := l.needs.map (·.id) ++ obs, ctx := l.ctx,
            durable := pteDur leaf, host := l.host, va := l.va, space := l.space }
        stampWrite { s1 with writes := s1.writes ++ [w] } w true
    settle (arriveEntry s2 l .arrived (wide64 o) 0)

end Sys2Proof.Machine
end

