-- ==== Sys2Proof/Machine/Images.lean ====
section
/-! DEFINITION. What a context leaves in its core while it is saved (R245, R260, R329): its share and accumulator blocks stay
resident until another context needs them, and are restored before it issues again. -/
namespace Sys2Proof.Machine

/-- Two ranges that share a number. -/
def rangesMeet (a n b m : Nat) : Bool := decide (max a b < min (a + n) (b + m))

/-- Two shares that need the same bytes or accumulator blocks (R245). -/
def Share.meets (x y : Share) : Bool := rangesMeet x.base x.len y.base y.len || rangesMeet x.accFirst x.accCnt y.accFirst y.accCnt

/-- A block of a share's accumulator range. -/
def Share.hasBlock (h : Share) (b : Nat) : Bool := decide (h.accFirst ≤ b) && decide (b < h.accFirst + h.accCnt)

/-- The block of a key of the tolerance sums. -/
def tolBlock (k : Nat) : Nat := if k < 4096 then k / 256 else k - 4096

/-- A local address of a share, by key. -/
def Share.holds (h : Share) (core key : Nat) : Bool :=
  decide (keyCore core h.base ≤ key) && decide (key < keyCore core (h.base + h.len))

/-- The number under which the share of a captured context stands in memory: no core of the device has it. -/
def imgCore (k : Nat) : Nat := 4096 + k

/-- The core number under which a context's share stands now (R245). -/
def shareCore (s : State) (k : Nat) : Nat := if (s.ctx k).img.isSome then imgCore k else (s.ctx k).run.lcore

/-- A key of core number `a` as the same offset of core number `b`; any other key as it is. -/
def rekey (a b key : Nat) : Nat := if keyCore a 0 ≤ key ∧ key < keyCore a (2 ^ 22) then keyCore b (key - keyCore a 0) else key

/-- A load of a captured context goes on at the place its share has moved to (R329). -/
def rekeyLoad (a b : Nat) (l : LoadRec) : LoadRec :=
  match l.kind with
  | .read cs n => { l with kind := .read (cs.map (fun c => c.map (fun p => (rekey a b p.1, p.2)))) n }
  | .atomic op (some key) leaf v e => { l with kind := .atomic op (some (rekey a b key)) leaf v e }
  | _ => l

/-- The share of a context moves from one core number to another, and its accesses in flight to the share with it (R245,
R329). -/
def moveShare (s : State) (k a b : Nat) : State :=
  let h := (s.ctx k).tiles.share
  let here := s.mem.filter (fun m => h.holds a m.1)
  { s with
    mem := memWriteCells (s.mem.filter (fun m => !h.holds a m.1 && !h.holds b m.1)) (here.map (fun m => (rekey a b m.1, m.2)))
    loads := s.loads.map (fun l => if l.ctx = k then rekeyLoad a b l else l)
    writes := s.writes.map (fun w => if w.ctx = k ∧ w.agent ≠ 0 then { w with cells := w.cells.map (fun c => (rekey a b c.1, c.2)) } else w) }

/-- The resident share and blocks of a context go into its image; the dirty lines of its stash are written back (R245, R260). -/
def captureShare (s : State) (k : Nat) : State :=
  let s := settle (writeBack s (fun w => match w.stash with | some (k', _) => decide (k' = k) | none => false))
  let s := moveShare s k (s.ctx k).run.lcore (imgCore k)
  let c := s.ctx k
  let h := c.tiles.share
  let x := s.core c.run.lcore
  s.setCtx k { c with
    stale := true
    tiles := { c.tiles with stash := c.tiles.stash.map (fun (e : Nat × StashEntry) => (e.1, { e.2 with held := 0 })) }
    img := some
      { acc := x.acc.filter (fun p => h.hasBlock (p.1 / 32768))
        chk := x.chk.filter (fun p => h.hasBlock (p.1 / 768))
        tol := x.tol.filter (fun p => h.hasBlock (tolBlock p.1)) } }

/-- The saved contexts resident on a core whose share an incoming one needs (R245). -/
def residents (s : State) (core : Nat) (h : Share) (k : Nat) : List Nat :=
  (s.ctxs.filter (fun p => decide (p.1 ≠ k) && p.2.run.live && p.2.run.saved && decide (p.2.run.lcore = core) && p.2.img.isNone
    && p.2.tiles.share.meets h)).map (·.1)

/-- They give way. -/
def evictShares (s : State) (core : Nat) (h : Share) (k : Nat) : State := (residents s core h k).foldl captureShare s

/-- Files joined by key: `new` stands where `keep` fails. -/
def mergeMaps {α : Type} (old new : FMap α) (mine : Nat → Bool) : FMap α :=
  new.foldl (fun m p => fset m p.1 p.2) (old.filter (fun p => !mine p.1))

/-- A context's share and blocks are in place on a core, before it issues there (R245, R332). -/
def restoreShare (s : State) (k core : Nat) : State :=
  let c0 := s.ctx k
  let s := if c0.img.isNone ∧ c0.run.lcore ≠ core then captureShare s k else s
  let s := evictShares s core c0.tiles.share k
  let c := s.ctx k
  let h := c.tiles.share
  let s1 := s.setCtx k { c with run := { c.run with lcore := core }, img := none, stale := false }
  match c.img with
  | none => s1
  | some m =>
    let x := s1.core core
    moveShare (s1.setCore core { x with
      acc := mergeMaps x.acc m.acc (fun i => h.hasBlock (i / 32768))
      chk := mergeMaps x.chk m.chk (fun i => h.hasBlock (i / 768))
      tol := mergeMaps x.tol m.tol (fun i => h.hasBlock (tolBlock i)) }) k (imgCore k) core

/-! Image slots (R328) -/

/-- The physical key of a page of the pool that a die's spill engine can write, in the address space of the context. -/
def poolPage (s : State) (d space : Nat) (va : W64) : Option Nat :=
  match xlate s (2048 + d) space va { w := true, lvl := 2 } with
  | .ok x => if isDead x.key then none else some x.key
  | .error _ => none

/-- The pages of slot `i` of a die's pool, by physical key. -/
def slotPages (s : State) (d i space : Nat) : List Nat :=
  (List.range 2048).filterMap (fun p => poolPage s d space (dieReg s d 0x4008 0 + BitVec.ofNat 64 (2 ^ 23 * i + 4096 * p)))

/-- A slot of a die's pool is cleared: its bytes are zero, and errors in them are replaced with them (R338, R350). -/
def clearSlot (s : State) (space : Nat) (e : Nat × Nat) : State :=
  let pages := slotPages s e.1 e.2 space
  { s with
    mem := s.mem.filter (fun m => !pages.contains (m.1 / 4096 * 4096))
    poison := s.poison.filter (fun g => !pages.contains (g / 64 * 4096)) }

/-- The image slots that a context holds: die and number. -/
def slotsOf (s : State) (k : Nat) : List (Nat × Nat) :=
  s.dies.flatMap (fun p => (p.2.pool.filter (fun e => decide (e.2 = k))).map (fun e => (p.1, e.1)))

/-- They are free (R328). -/
def freeSlotsOf (s : State) (k : Nat) : State :=
  { s with dies := s.dies.map (fun (p : Nat × DieSt) => (p.1, { p.2 with pool := p.2.pool.filter (fun e => decide (e.2 ≠ k)) })) }

/-- The image slot of a bank that passes to another domain is cleared and free (R338). -/
def clearSlots (s : State) (k : Nat) : State :=
  freeSlotsOf ((slotsOf s k).foldl (fun s e => clearSlot s (s.ctx k).run.space e) s) k

/-- Bytes of a context's core store at a local offset, as an engine reads them, wherever its share stands. -/
def localBytes (s : State) (k p o n : Nat) : List Byte := viewBytes s (viewerOf s k p) s.nextId (keyCore (shareCore s k) o) n

/-- Bytes an engine writes into the core store of a context's core, or into its image (R256, R329). -/
def localWrite (s : State) (k o : Nat) (bs : List Byte) : State :=
  { s with mem := memWrite s.mem (keyCore (shareCore s k) o) bs }

end Sys2Proof.Machine
end

