-- ==== Sys2Proof/Machine/Seats.lean ====
section
/-! DEFINITION. Seats and what a context starts with (R9, R16, R40, R169, R303, R338). -/
namespace Sys2Proof.Machine

/-- The protection domain of a launch: one job, or the launch itself with JOB 0 (R338); never 0. -/
def domainOf (s : State) (l : Nat) : Nat :=
  let j := (s.launch l).rec_.job
  if j = 0 then 2 * l + 1 else 2 * j + 2

/-- The domain a bank last served (R16); 0 before the first. -/
def bankDomain (s : State) (core bank : Nat) : Nat := fget 0 (s.core core).domains bank

/-- A context that keeps what the same domain left in the bank, or a cleared one (R16, R338). -/
def bankBase (old : Ctx) (same : Bool) : Ctx :=
  if same then old else { dbg := old.dbg, nrep := old.nrep, sys := { ftvec := old.sys.ftvec } }

/-- A context started in a bank over what the bank holds (R16, R169, R303): levels, flags, vectors and counters of the
launch, empty queues, loops, maps and tile table, and the seat's share. The register files keep what the bank holds; the
system registers with a value in R119's Reset column start from it, the others (ESTATUS, FSTATUS, FTVEC, SRSTATE, SEQNO) keep
theirs (log entry 83). -/
def startedCtx (base : Ctx) (run : Run) (share : Share) (handler msord entry : W64) (start : Nat) : Ctx :=
  { base with
    sys := { estatus := base.sys.estatus, fstatus := base.sys.fstatus, ftvec := base.sys.ftvec
             status := statusOf run 0 false, tvec := handler }
    ctr := { msord := msord, srstate := base.ctr.srstate, seqno := base.ctr.seqno }
    q := {}
    flow := { npc0 := entry, start := start }
    tiles := { share := share }
    run := run
    iss := {}
    dbg := { st := 1, att := base.dbg.att, steph := base.dbg.steph }
    per := {}
    bar := none
    barFault := none
    barPhase := 0
    reports := []
    haltRec := []
    cmds := []
    call := none
    savedCall := none
    remote := false
    img := none }

/-- The share of a running seat of a launch (R244, R299). -/
def shareOf (r : LaunchRec) (bank : Nat) : Share := if bank = 0 then r.share0 else r.share1

/-- The checksum-log view of a context key starts empty (R237, R338). -/
def forgetLog (s : State) (core k : Nat) : State :=
  let x := relOf s core
  if x.cklog = [] then s
  else setRel s core { x with cklog := x.cklog.map (fun (p : Nat × CkEntry) => (p.1, if p.2.ctx = k then { p.2 with ctx := 2 ^ 40 } else p.2)) }

/-- The step at which a walker waits may be entered (R304): its input rings have a ready entry at their heads, its result slots
are empty. -/
def stepEligible (s : State) (k : Nat) : Bool :=
  let c := s.ctx k
  let r := (s.launch c.run.launch).rec_
  (List.range 8).all (fun i => !(r.inmask.testBit i) ||
      decide (fget .empty c.tiles.ring (64 * i + fget 0 c.tiles.head i) = .ready))
  && (List.range 2).all (fun i => !(r.outen.testBit i) || decide (fget .empty c.tiles.slot (r.outslot.getD i 0) = .empty))

/-- Requests to steal that a seat has out and that have not been granted are withdrawn (R41). -/
def dropSeatSteals (s : State) (core seat : Nat) : State :=
  { s with dev := { s.dev with steals := s.dev.steals.filter (fun t => !(decide (t.core = core) && decide (t.seat = seat) && t.range.isNone)) } }

/-- What the bank at key `k` holds once it serves a domain: the image slot that it left to another domain is cleared (R16,
R338). -/
def takeBank (s : State) (core bank k dom : Nat) : State :=
  let same := decide (bankDomain s core bank = dom)
  let s := if same then s else clearSlots s k
  let x := s.core core
  forgetLog ((s.setCore core { x with domains := fset x.domains bank dom }).setCtx k (bankBase (s.ctx k) same)) core k

/-- A bank taken by a context of launch `l`, its domain noted and the context written at key `k`; CKINJ of the core is at its
reset value (R119; log entry 83). -/
def startBank (s : State) (core bank k : Nat) (run : Run) (msord entry : W64) (start : Nat) (f : Ctx → Ctx) : State :=
  let r := (s.launch run.launch).rec_
  let s := evictShares (settle (writeBack s (fun w => match w.stash with | some (i, _) => decide (i = k) | none => false))) core
    (shareOf r bank) k
  let s := takeBank (dropSeatSteals s core bank) core bank k run.domain
  let x := s.core core
  raiseFloor ((s.setCore core { x with ckinj := 0 }).setCtx k (f (startedCtx (s.ctx k) run (shareOf r bank) r.handler msord entry start)))
    k (List.range 6) true

/-- A scan runs its patterns on the core (R383). -/
def scanRuns (s : State) (core : Nat) : Bool :=
  match (s.die (dieOf core)).scan with
  | some x => x.runs && decide (x.lcore = some (core % 64)) && decide (core < 2048)
  | none => false

/-- A seat in an exchange issues nothing (R10). -/
def exchanging (s : State) (core seat : Nat) : Bool :=
  match (s.core core).exch with
  | some e => decide (e.seat = seat)
  | none => false

/-- Nothing of a context is outstanding (R326). -/
def Ctx.quiet (c : Ctx) : Bool :=
  decide (c.q.ld = 0) && decide (c.q.st = 0) && decide (c.q.cp = 0) && decide (c.q.tl = 0) && c.reports.isEmpty && c.cmds.isEmpty

/-- A seat holds a context of launch `l` whose walker holds no range and which may go on (R305). -/
def restsOn (s : State) (core seat l : Nat) : Bool :=
  let c := s.ctx (s.bankOf core seat)
  c.run.live && !c.run.halted && !c.run.saved && !c.run.spawned && !c.run.ending && decide (c.run.wst = .none)
    && decide (c.run.launch = l) && !exchanging s core seat

/-- A context has nothing outstanding that keeps it from ending (R326). -/
def Ctx.mayEnd (c : Ctx) : Bool := decide (c.lvl = 0) && c.quiet && !c.per.armed

/-- A seat holds a context without a range that could end at once: the seat is idle but for its requests (R41, R305). -/
def restsIdle (s : State) (core seat : Nat) : Bool :=
  let c := s.ctx (s.bankOf core seat)
  restsOn s core seat c.run.launch && c.mayEnd

/-- A steal of the seat has been granted: the seat is busy (R41). -/
def stealGranted (s : State) (core seat : Nat) : Bool :=
  s.dev.steals.any (fun t => decide (t.core = core) && decide (t.seat = seat) && t.range.isSome)

/-- A seat can receive no context, whatever its bank holds. -/
def seatTaken (s : State) (core bank : Nat) : Bool := scanRuns s core || exchanging s core bank || stealGranted s core bank

/-- A running seat that holds a context (R9), or whose bank is halted or exchanging, or to which a range is on its way (R41). -/
def seatBusy (s : State) (core bank : Nat) : Bool :=
  let c := s.ctx (s.bankOf core bank)
  c.run.busy || c.run.live || c.run.halted || !c.cmds.isEmpty || seatTaken s core bank

/-- A seat that a `spawn` finds busy: a context that only waits for a claim or a steal gives way (R40, R41). -/
def spawnBusy (s : State) (core bank : Nat) : Bool :=
  seatTaken s core bank || (seatBusy s core bank && !restsIdle s core bank)

/-- A context has ended, and its seat is idle (R305, R310, R326): its writes in flight stay with the launch. -/
def endCtx (s : State) (ctx : Nat) : State :=
  let c := s.ctx ctx
  let x := s.launch c.run.launch
  let ids := (s.writes.filter (fun w => decide (w.agent ≠ 0) && decide (w.ctx = ctx))).map (·.id)
  let s1 := s.setLaunch c.run.launch { x with
    writes := x.writes.filter (fun i => s.writes.any (fun w => decide (w.id = i))) ++ ids }
  s1.setCtx ctx { c with
    remote := false
    dbg := { c.dbg with st := 0, ask := false }
    run := { c.run with live := false, busy := false } }

/-- A core holds a determinism-flagged context (R13). -/
def coreDet (s : State) (core : Nat) : Bool :=
  [0, 1].any (fun b => let c := s.ctx (s.bankOf core b); c.run.live && c.run.det)

/-- The standby bank holds a complete ready context (R9, R170). -/
def standbyReady (s : State) (core : Nat) : Bool :=
  let c := s.ctx (s.bankOf core 2)
  c.run.live && c.run.saved && !c.run.halted

/-- The argument block of `spawn` in s40 to s55 (R40, R169). -/
def spawnArgs (r : Regs) (x : Wide) : Regs :=
  { r with s := fsets r.s 40 ((List.range 16).map (fun i => lane64 x i)) }

/-- A granted spawn (R40, R169, R273): the target context starts in the spawner's launch without a walker range, and its
accesses come after the spawner's at quad scope. -/
def doSpawned (s : State) (core bank : Nat) (args : Wide) (entry : W64) : State :=
  let c := s.my
  let k := s.bankOf core bank
  let run : Run :=
    { busy := true, live := true, launch := c.run.launch, domain := c.run.domain, space := c.run.space, det := c.run.det,
      stmp := c.run.stmp, pre := c.run.pre, spawned := true, lcore := core, bank := bank, firstCore := core,
      firstSeat := bank }
  let edge : List Fence :=
    [{ reads := loadsOf s s.me, writes := writesOf s s.me ++ observedOf s s.me, toRead := true, toWrite := true,
       scope := 1, full := true }]
  startBank (if restsIdle s core bank then endCtx s k else s) core bank k run c.ctr.msord entry 4 (fun t =>
    { t with regs := spawnArgs t.regs args, q := { t.q with fences := edge, observed := inFlight s (writesOf s s.me ++ observedOf s s.me) } })

end Sys2Proof.Machine
end

