-- ==== Sys2Proof/Machine/VecOps.lean ====
section
/-! DEFINITION. Operand forms of the V and X slots (R132 to R135, R155): lanes, masks, merges, and the lane functions. -/
namespace Sys2Proof.Machine

/-- Element `i` of width `w` is active under a mask: the bit of its word is set (R133). -/
def laneOn (m : W32) (w i : Nat) : Bool := bit m (w * i / 32)

/-- A register whose active elements are `g i` and whose others keep `old` (R134). -/
def mergeLanes (m : W32) (w : Nat) (old : Wide) (g : Nat → Nat) : Wide :=
  fromLanes w ((List.range (1024 / w)).map (fun i => if laneOn m w i then g i else lane w old i))

/-- A V destination's value at issue. -/
def oldV (c : Ctx) (sl : VSlot) (d : Nat) : Wide :=
  match sl with | .v0 => fget 0 c.regs.va d | .v1 => fget 0 c.regs.vb d

/-- A masked two-operand word over the elements of format `fmt` (R134, R136). -/
def vBin (sl : VSlot) (fmt : BitVec 4) (d a b : BitVec 5) (k : BitVec 2) (lat : Nat) (op : Nat → Nat → Nat) (s : State) :
    Res State :=
  trapFirst (clashV s.my sl d.toNat lat)
    (match both (rdV s.my sl a.toNat) (rdV s.my sl b.toNat) with
    | .error e => .error e
    | .ok (x, y) =>
      let w := fmtW fmt.toNat
      putV s sl d.toNat lat (mergeLanes (rdK s.my sl k.toNat) w (oldV s.my sl d.toNat) (fun i => op (lane w x i) (lane w y i))))

/-- A masked two-operand word that also reads its destination (R136). -/
def vTri (sl : VSlot) (fmt : BitVec 4) (d a b : BitVec 5) (k : BitVec 2) (lat : Nat) (op : Nat → Nat → Nat → Nat)
    (s : State) : Res State :=
  trapFirst (clashV s.my sl d.toNat lat)
    (match both (rdV s.my sl a.toNat) (rdV s.my sl b.toNat) with
    | .error e => .error e
    | .ok (x, y) =>
      let w := fmtW fmt.toNat
      let o := oldV s.my sl d.toNat
      putV s sl d.toNat lat
        (mergeLanes (rdK s.my sl k.toNat) w o (fun i => op (lane w x i) (lane w y i) (lane w o i))))

/-- A masked one-operand word (R134). -/
def vUn (sl : VSlot) (fmt : BitVec 4) (d a : BitVec 5) (k : BitVec 2) (lat : Nat) (op : Nat → Nat) (s : State) : Res State :=
  trapFirst (clashV s.my sl d.toNat lat)
    (match rdV s.my sl a.toNat with
    | .error e => .error e
    | .ok x =>
      let w := fmtW fmt.toNat
      putV s sl d.toNat lat (mergeLanes (rdK s.my sl k.toNat) w (oldV s.my sl d.toNat) (fun i => op (lane w x i))))

/-- An unmasked word with a 7-bit immediate (R133, R138, R142). -/
def vImm (sl : VSlot) (fmt : BitVec 4) (d a : BitVec 5) (lat : Nat) (op : Nat → Nat) (s : State) : Res State :=
  trapFirst (clashV s.my sl d.toNat lat)
    (match rdV s.my sl a.toNat with
    | .error e => .error e
    | .ok x =>
      let w := fmtW fmt.toNat
      putV s sl d.toNat lat (fromLanes w ((lanes w x).map op)))

/-- Latency 2 on integer formats and 4 on float formats (R21). -/
def latIF (fmt : BitVec 4) : Nat := if isIntFmt fmt.toNat then 2 else 4

/-- A float lane function: operands decoded, the exact result rounded once, RNE (R80). -/
def fOp2 (code : Nat) (op : FVal → FVal → FVal) (x y : Nat) : Nat :=
  match ffOf code with
  | some f => encF f .rne false (op (decF f x) (decF f y))
  | none => 0

/-- An integer lane function modulo 2^w (R136). -/
def iOp2 (code : Nat) (op : Int → Int → Int) (x y : Nat) : Nat := wrapInt (fmtW code) (op (intOf code x) (intOf code y))

/-- A lane function by format: integer or float. -/
def lane2 (fmt : BitVec 4) (iop : Int → Int → Int) (fop : FVal → FVal → FVal) (x y : Nat) : Nat :=
  if isIntFmt fmt.toNat then iOp2 fmt.toNat iop x y else fOp2 fmt.toNat fop x y

/-- A one-operand lane function by format. -/
def lane1 (fmt : BitVec 4) (iop : Int → Int) (fop : FVal → FVal) (x : Nat) : Nat :=
  lane2 fmt (fun a _ => iop a) (fun a _ => fop a) x x

/-- a · b + d rounded once (R136). -/
def fmaLane (fmt : BitVec 4) (neg : Bool) (x y o : Nat) : Nat :=
  match ffOf fmt.toNat with
  | some f =>
    let p := mulV (decF f x) (decF f y)
    encF f .rne false (addV (if neg then negV p else p) (decF f o))
  | none => 0

/-- A float function lane. -/
def fnLane (fmt : BitVec 4) (g : FFmt → Nat → Nat) (x : Nat) : Nat :=
  match ffOf fmt.toNat with
  | some f => g f x
  | none => 0

/-- The sum of `vtsum` and its exact error (R137). -/
def tsumLane (fmt : BitVec 4) (x y : Nat) : Nat × Nat :=
  match ffOf fmt.toNat with
  | some f =>
    let v := addV (decF f x) (decF f y)
    let sm := encF f .rne false v
    let sv := decF f sm
    if isFin sv then
      match addV v (negV sv) with
      | .fin neg m e => (sm, if m = 0 then 0 else encF f .rne false (.fin neg m e))
      | _ => (sm, 0)
    else (sm, 0)
  | none => (0, 0)

/-- The mask a compare writes: bit j when the relation holds for every element of word j; inactive bits keep the
destination's value at issue (R134, R143). -/
def cmpMask (m : W32) (w : Nat) (old : W32) (x y : Wide) (rel : Nat → Nat → Bool) : W32 :=
  BitVec.ofNat 32 (joinLanes 1 ((List.range 32).map (fun j =>
    b2n (if bit m j then (List.range (32 / w)).all (fun e => rel (lane w x (32 / w * j + e)) (lane w y (32 / w * j + e)))
      else bit old j))))

/-- A compare word, latency 2 (R143). -/
def vCmp (sl : VSlot) (fmt : BitVec 4) (d a b : BitVec 5) (k : BitVec 2) (rel : Nat → Nat → Bool) (s : State) : Res State :=
  trapFirst (clashK s.my sl d.toNat 2)
    (match both (rdV s.my sl a.toNat) (rdV s.my sl b.toNat) with
    | .error e => .error e
    | .ok (x, y) =>
      putK s sl d.toNat 2 (cmpMask (rdK s.my sl k.toNat) (fmtW fmt.toNat) (rdK s.my sl d.toNat) x y rel))

/-- A relation by format: on integers, or on float values. -/
def rel2 (fmt : BitVec 4) (ir : Int → Int → Bool) (fr : FVal → FVal → Bool) (x y : Nat) : Bool :=
  if isIntFmt fmt.toNat then ir (intOf fmt.toNat x) (intOf fmt.toNat y)
  else match ffOf fmt.toNat with | some f => fr (decF f x) (decF f y) | none => false

/-- A 32-bit word operation under a mask, latency 1 (R141, R145). -/
def vBits (sl : VSlot) (d a b : BitVec 5) (k : BitVec 2) (op : Nat → Nat → Nat) (s : State) : Res State :=
  vBin sl 14 d a b k 1 op s

/-- A mask operation, latency 1 (R144). -/
def kOp (sl : VSlot) (d a b : BitVec 5) (op : W32 → W32 → W32) (s : State) : Res State :=
  putK s sl d.toNat 1 (op (rdK s.my sl a.toNat) (rdK s.my sl b.toNat))

/-- Elements permuted by index; an index beyond the count gives 0 (R147, R158). -/
def permLane (w : Nat) (x y : Wide) (i : Nat) : Nat := if lane w y i < 1024 / w then lane w x (lane w y i) else 0

/-- One stage of the halving tree: lane i with lane i + n/2 (R100). -/
def halve (op : Nat → Nat → Nat) (xs : List Nat) : List Nat :=
  List.zipWith op (xs.take (xs.length / 2)) (xs.drop (xs.length / 2))

/-- The halving tree over 2^fuel lanes (R100). -/
def halvingTree (op : Nat → Nat → Nat) : (fuel : Nat) → List Nat → Nat
  | 0, xs => xs.headD 0
  | fuel + 1, xs => halvingTree op fuel (halve op xs)

/-- A reduction: inactive elements enter as the identity, the result is element 0 and every other bit 0 (R149). -/
def vReduce (sl : VSlot) (fmt : BitVec 4) (d a : BitVec 5) (k : BitVec 2) (ident : Nat) (op : Nat → Nat → Nat) (s : State) :
    Res State :=
  trapFirst (clashV s.my sl d.toNat 6)
    (match rdV s.my sl a.toNat with
    | .error e => .error e
    | .ok x =>
      let w := fmtW fmt.toNat
      let m := rdK s.my sl k.toNat
      let xs := (List.range (1024 / w)).map (fun i => if laneOn m w i then lane w x i else ident)
      putV s sl d.toNat 6 (BitVec.ofNat 1024 (halvingTree op (if w = 32 then 5 else 6) xs % 2 ^ w)))

/-- The identity of a reduction (R149): 0 add, 1 maximum, 2 minimum. -/
def reduceIdent (fmt : BitVec 4) (op : Nat) : Nat :=
  let c := fmt.toNat
  match ffOf c with
  | none => if op = 0 then 0 else if op = 1 then wrapInt (fmtW c) (intMin c) else wrapInt (fmtW c) (intMax c)
  | some f => if op = 0 then signBit f true else encF f .rne false (.inf (decide (op = 1)))

/-- The active element that ranks highest, by R101. -/
def rankBest (code : Nat) (xs : List (Nat × Nat)) : Option (Nat × Nat) :=
  xs.foldl (fun r p => match r with
    | none => some p
    | some q => if rankKey code q.1 < rankKey code p.1 then some p else some q) none

/-- The conversion of a register (R151). -/
def cvtReg (fd fs rnd : Nat) (sat : Bool) (sr : W64) (x : Wide) : Wide :=
  let ws := fmtW fs
  let wd := fmtW fd
  fromLanes wd ((List.range (1024 / max ws wd)).map (fun i =>
    convertElem fd fs (rndOf rnd (srRandom sr i)) sat (lane ws x i)))

/-- `vget` from an S register (R148): lanes 0 to 15 replace 64 bits, 16 to 19 fill. -/
def vgetS (old : Wide) (v : W64) (ln : Nat) : Wide :=
  if ln < 16 then putFld old (64 * ln) v
  else if ln = 16 then fromLanes 64 (List.replicate 16 v.toNat)
  else if ln = 17 then fromLanes 32 (List.replicate 32 (v.toNat % 2 ^ 32))
  else if ln = 18 then fromLanes 16 (List.replicate 64 (v.toNat % 2 ^ 16))
  else fromLanes 8 (List.replicate 128 (v.toNat % 2 ^ 8))

/-- A vector register of either V file, by `get` codes. -/
def vaReg (c : Ctx) (i : Nat) : Wide := fget 0 c.regs.va i
/-- vb. -/
def vbReg (c : Ctx) (i : Nat) : Wide := fget 0 c.regs.vb i

/-- The iteration number of the innermost active loop, 0 with none (R38). -/
def iterNow (c : Ctx) : Nat := match c.flow.loops.getLast? with | some l => l.iter | none => 0

/-- The entries `vdefer` appends, in lane order (R152). -/
def deferEntries (m : W32) (two : Bool) (x y : Wide) (it : Nat) : List Defer :=
  ((List.range 32).filter (fun j => bit m j)).map (fun j =>
    { v0 := BitVec.ofNat 32 (lane 32 x j), v1 := if two then BitVec.ofNat 32 (lane 32 y j) else 0, lane := j, iter := it })

end Sys2Proof.Machine
end

