-- ==== Sys2Proof/Machine/Exch.lean ====
section
/-! DEFINITION. The X slot (R155 to R170): register moves, MX blocks, scale accesses, barriers, `spawn` and `yield`. -/
namespace Sys2Proof.Machine

/-- An x register. -/
def xReg (c : Ctx) (i : Nat) : Wide := fget 0 c.regs.x i
/-- A scale register. -/
def eReg (c : Ctx) (i : Nat) : BitVec 256 := fget 0 c.regs.e i
/-- Byte `j` of a scale register (R155). -/
def scaleByte (e : BitVec 256) (j : Nat) : Nat := (fld e (8 * j) 8).toNat
/-- A scale register with byte `j` replaced. -/
def putScale (e : BitVec 256) (j v : Nat) : BitVec 256 := putFld e (8 * j) (BitVec.ofNat 8 v)

/-- `xnop` (R155). -/
def doXnop (s : State) : Res State :=
  .ok s

/-- `xnop` run by itself: its effect settled as `complete` says. -/
def execXnop (s : State) : Host.Outcome State Fault Refusal := complete s (doXnop s)

/-- `xget`: a head, a vector register, or an s register into one 64-bit lane (R156). -/
def doXget (d : BitVec 4) (file : BitVec 3) (idx : BitVec 6) (lane : BitVec 4) (s : State) : Res State :=
  let put := fun (v : Wide) => putX s d.toNat 2 v
  match file.toNat with
  | 0 => trapFirst (clashTrap s.my 7 0 d.toNat 2) (match headOf s.my 7 idx.toNat with | .ok v => put v | .error e => .error e)
  | 1 => put (vaReg s.my idx.toNat)
  | 2 => put (vbReg s.my idx.toNat)
  | _ =>
    let v : W64 := if idx = 0 then 0 else fget 0 s.my.regs.s idx.toNat
    put (putFld (xReg s.my d.toNat) (64 * lane.toNat) v)

/-- `xget` run by itself: its effect settled as `complete` says. -/
def execXget (d : BitVec 4) (file : BitVec 3) (idx : BitVec 6) (lane : BitVec 4) (s : State) : Host.Outcome State Fault Refusal := complete s (doXget d file idx lane s)

/-- `xmov` (R157): x to x, x to e, or e to x. -/
def doXmov (fmt d a b : BitVec 4) (s : State) : Res State :=
  if fmt.toNat = 14 then putX s d.toNat 2 (xReg s.my a.toNat)
  else if b = 0 then putE s d.toNat 2 ((xReg s.my a.toNat).setWidth 256)
  else putX s d.toNat 2 ((eReg s.my a.toNat).setWidth 1024)

/-- `xmov` run by itself: its effect settled as `complete` says. -/
def execXmov (fmt d a b : BitVec 4) (s : State) : Host.Outcome State Fault Refusal := complete s (doXmov fmt d a b s)

/-- The bit position of block `j` in a packed register (R159). -/
def blockPos (code j : Nat) : Nat := if code = 11 then 128 * (j % 8) else 256 * (j % 4)

/-- The 32 f32 values of an x register. -/
def wideForm (x : Wide) : List FVal := (List.range 32).map (fun i => decF ff32 (lane 32 x i))

/-- A packed block placed in a register. -/
def putBlock (x : Wide) (code j : Nat) (els : List Nat) : Wide :=
  if code = 11 then putFld x (blockPos code j) (BitVec.ofNat 128 (joinLanes 4 els))
  else putFld x (blockPos code j) (BitVec.ofNat 256 (joinLanes 8 els))

/-- `xpack`: one MX block formed from 32 lanes, its elements and its scale both at latency 3 (R160). -/
def doXpack (fmt d a b e : BitVec 4) (rnd : BitVec 2) (s : State) : Res State :=
  let code := fmt.toNat
  let (sr, s1) := if rnd = 2 then takeSr s else (0, s)
  let blk := mxBlock code (fun i => rndOf rnd.toNat (srRandom sr i)) (wideForm (xReg s.my a.toNat))
  match putX s1 d.toNat 3 (putBlock (xReg s.my d.toNat) code b.toNat blk.2) with
  | .error x => .error x
  | .ok s2 => putE s2 e.toNat 3 (putScale (eReg s.my e.toNat) b.toNat blk.1)

/-- `xpack` run by itself: its effect settled as `complete` says. -/
def execXpack (fmt d a b e : BitVec 4) (rnd : BitVec 2) (s : State) : Host.Outcome State Fault Refusal := complete s (doXpack fmt d a b e rnd s)

/-- `xunpk`: one MX block expanded to 32 f32 lanes (R161). -/
def doXunpk (fmt d a b e : BitVec 4) (s : State) : Res State :=
  let code := fmt.toNat
  let S := scaleByte (eReg s.my e.toNat) b.toNat
  let w := if code = 11 then 4 else 8
  let blk := (xReg s.my a.toNat).toNat / 2 ^ blockPos code b.toNat
  putX s d.toNat 3 (fromLanes 32 ((List.range 32).map (fun i =>
    encF ff32 .rne false (mxValue code S (blk / 2 ^ (w * i) % 2 ^ w)))))

/-- `xunpk` run by itself: its effect settled as `complete` says. -/
def execXunpk (fmt d a b e : BitVec 4) (s : State) : Host.Outcome State Fault Refusal := complete s (doXunpk fmt d a b e s)

/-- `xscal`: 32 f32 lanes times the scale, or divided by it (R162). -/
def doXscal (fmt d a b e : BitVec 4) (rnd : BitVec 2) (s : State) : Res State :=
  let (sr, s1) := if rnd = 2 then takeSr s else (0, s)
  let S := scaleByte (eReg s.my e.toNat) b.toNat
  let k : Int := if fmt.toNat = 8 then (S : Int) - 127 else 127 - (S : Int)
  putX s1 d.toNat 2 (fromLanes 32 ((List.range 32).map (fun i =>
    let v := decF ff32 (lane 32 (xReg s.my a.toNat) i)
    encF ff32 (rndOf rnd.toNat (srRandom sr i)) false (if S = 255 then .nan else scaleV v k))))

/-- `xscal` run by itself: its effect settled as `complete` says. -/
def execXscal (fmt d a b e : BitVec 4) (rnd : BitVec 2) (s : State) : Host.Outcome State Fault Refusal := complete s (doXscal fmt d a b e rnd s)

/-- `xmxs`: only the scale of the block (R160). -/
def doXmxs (fmt a b e : BitVec 4) (s : State) : Res State :=
  putE s e.toNat 3 (putScale (eReg s.my e.toNat) b.toNat (mxScale fmt.toNat (wideForm (xReg s.my a.toNat))))

/-- `xmxs` run by itself: its effect settled as `complete` says. -/
def execXmxs (fmt a b e : BitVec 4) (s : State) : Host.Outcome State Fault Refusal := complete s (doXmxs fmt a b e s)

/-- `xshuf`: elements of a permuted by the indices in b (R158). -/
def doXshuf (fmt d a b : BitVec 4) (s : State) : Res State :=
  let w := fmtW fmt.toNat
  putX s d.toNat 2 (fromLanes w ((List.range (1024 / w)).map (permLane w (xReg s.my a.toNat) (xReg s.my b.toNat))))

/-- `xshuf` run by itself: its effect settled as `complete` says. -/
def execXshuf (fmt d a b : BitVec 4) (s : State) : Host.Outcome State Fault Refusal := complete s (doXshuf fmt d a b s)

/-- `xrot`: a rotated right by 64·n bits, or the halves of a scale register exchanged (R158). -/
def doXrot (fmt d a b : BitVec 4) (s : State) : Res State :=
  if fmt.toNat = 14 then putX s d.toNat 2 ((xReg s.my a.toNat).rotateRight (64 * b.toNat))
  else putE s d.toNat 2 ((eReg s.my a.toNat).rotateRight 128)

/-- `xrot` run by itself: its effect settled as `complete` says. -/
def execXrot (fmt d a b : BitVec 4) (s : State) : Host.Outcome State Fault Refusal := complete s (doXrot fmt d a b s)

/-- `xzip`: elements of the low halves interleaved (R158). -/
def doXzip (fmt d a b : BitVec 4) (s : State) : Res State :=
  let w := fmtW fmt.toNat
  putX s d.toNat 2 (fromLanes w ((List.range (1024 / w)).map (fun i =>
    lane w (if i % 2 = 0 then xReg s.my a.toNat else xReg s.my b.toNat) (i / 2))))

/-- `xzip` run by itself: its effect settled as `complete` says. -/
def execXzip (fmt d a b : BitVec 4) (s : State) : Host.Outcome State Fault Refusal := complete s (doXzip fmt d a b s)

/-- `xuzp`: even elements of a, then of b (R158). -/
def doXuzp (fmt d a b : BitVec 4) (s : State) : Res State :=
  let w := fmtW fmt.toNat
  let h := 1024 / w / 2
  putX s d.toNat 2 (fromLanes w ((List.range (1024 / w)).map (fun i =>
    if i < h then lane w (xReg s.my a.toNat) (2 * i) else lane w (xReg s.my b.toNat) (2 * (i - h)))))

/-- `xuzp` run by itself: its effect settled as `complete` says. -/
def execXuzp (fmt d a b : BitVec 4) (s : State) : Host.Outcome State Fault Refusal := complete s (doXuzp fmt d a b s)

/-- The address of `xlsc` and `xssc` (R163). -/
def scaleAddr (c : Ctx) (x : BitVec 4) (imm : BitVec 14) : W64 := lo64 (xReg c x.toNat) + BitVec.ofNat 64 (32 * imm.toNat)

/-- Access-path writes to core store that the seat has not yet passed to its core and that nothing holds back: they pass now, in
issue order, so that an X-slot access follows them (R182, R264; log entry 22). -/
def forceCore (s : State) (k : Nat) : State :=
  s.writes.foldl (fun s w =>
    match writeOf s w.id with
    | some w => if w.agent = agentOf k 0 ∧ w.stage = 0 ∧ w.keys.any isCoreKey = true ∧ mayPass s w = true then passStage s w else s
    | none => s) s

/-- An X-slot access acts when it issues: it holds until the orders on it are met and the seat's earlier accesses to its bytes are
done (R163, R182, R268, R275; log entry 91). -/
def scaleOrder (s : State) (key : Nat) (wr : Bool) : Res Unit :=
  let c := s.my
  let keys := (List.range 32).map (key + ·)
  let needs := (if wr then writeNeeds c else readNeeds c) ++ pathNeeds c 0
  let free := needsMet s s.me 1 needs
    && s.writes.all (fun w => decide (w.agent ≠ agentOf s.me 0) || decide (1 ≤ w.stage) || !meet w.keys keys)
    && s.loads.all (fun l => decide (l.ctx ≠ s.me) || !meet l.keys keys || (!wr && !l.isAtomic s.me))
  if free then .ok () else holdOf .other

/-- `xlsc`: 32 bytes of core store into e, latency 6; out of range reads 0 (R163). -/
def doXlsc (e x : BitVec 4) (imm : BitVec 14) (s : State) : Res State :=
  match scaleCheck s (scaleAddr s.my x imm) false with
  | .error er => .error er
  | .ok p =>
    let s := if p.key.isSome then forceCore s s.me else s
    match (match p.key with | some key => scaleOrder s key false | none => .ok ()) with
    | .error er => .error er
    | .ok _ =>
      let v : BitVec 256 := match p.key with
        | some key => BitVec.ofNat 256 (ofBytes (viewBytes s (viewerOf s s.me 0) s.nextId key 32))
        | none => 0
      putE (noteOob s [p]) e.toNat 6 v

/-- `xlsc` run by itself: its effect settled as `complete` says. -/
def execXlsc (e x : BitVec 4) (imm : BitVec 14) (s : State) : Host.Outcome State Fault Refusal := complete s (doXlsc e x imm s)

/-- `xssc`: 32 bytes of core store written from e; out of range dropped (R163). -/
def doXssc (e x : BitVec 4) (imm : BitVec 14) (s : State) : Res State :=
  match scaleCheck s (scaleAddr s.my x imm) true with
  | .error er => .error er
  | .ok p =>
    match p.key with
    | none => .ok (noteOob s [p])
    | some key =>
      let s := forceCore s s.me
      match scaleOrder s key true with
      | .error er => .error er
      | .ok _ => .ok { s with mem := memWrite s.mem key (bytesOf 32 (eReg s.my e.toNat).toNat) }

/-- `xssc` run by itself: its effect settled as `complete` says. -/
def execXssc (e x : BitVec 4) (imm : BitVec 14) (s : State) : Host.Outcome State Fault Refusal := complete s (doXssc e x imm s)

/-- The home core of a barrier at a scope (R164). -/
def barHome (lcore scope : Nat) : Nat :=
  if scope = 0 then lcore else if scope = 1 then quadOf lcore * 4 else dieOf lcore * 64

/-- TVAL of BARRIER_FAULT (R168). -/
def barTval (id scope reason : Nat) : W64 := BitVec.ofNat 64 (id % 2048 + scope % 8 * 2048 + reason * 65536)

/-- A barrier message sent. -/
def sendBar (s : State) (m : BarMsg) : State := { s with bmsgs := s.bmsgs ++ [m], nextId := s.nextId + 1 }

/-- `bar.init`: the count is sent to the home (R165). -/
def doBarInit (id : BitVec 11) (scope : BitVec 3) (a : BitVec 4) (s : State) : Res State :=
  match barStored s.my 7 with
  | .error e => .error e
  | .ok _ =>
    let n := (xReg s.my a.toNat).toNat % 2 ^ 32
    .ok (sendBar s (.init s.nextId (barHome s.my.run.lcore scope.toNat) id.toNat scope.toNat n s.me))

/-- `barInit` run by itself: its effect settled as `complete` says. -/
def execBarInit (id : BitVec 11) (scope : BitVec 3) (a : BitVec 4) (s : State) : Host.Outcome State Fault Refusal := complete s (doBarInit id scope a s)

/-- What an arrival waits for: earlier accesses fixed, earlier stores and what the seat has read visible at the scope
(R166, R271). -/
def arriveNeeds (s : State) (k scope : Nat) : List Need :=
  (loadsOf s k).map (fun i => { id := i, k := 0, scope := scope })
    ++ (writesOf s k ++ observedOf s k).map (fun i => { id := i, k := 2, scope := scope })

/-- `bar.arr`: the record is set pending and the arrival sent (R166). -/
def doBarArr (id : BitVec 11) (scope : BitVec 3) (s : State) : Res State :=
  match barStored s.my 7 with
  | .error e => .error e
  | .ok _ =>
    let c := s.my
    let home := barHome c.run.lcore scope.toNat
    let r : BarRec := { home := home, bar := id.toNat, scope := scope.toNat, pending := true, phase := 0, arr := s.nextId }
    .ok (sendBar (s.setMy { c with bar := some r })
      (.arrive s.nextId home id.toNat scope.toNat s.me (arriveNeeds s s.me scope.toNat)))

/-- `barArr` run by itself: its effect settled as `complete` says. -/
def execBarArr (id : BitVec 11) (scope : BitVec 3) (s : State) : Host.Outcome State Fault Refusal := complete s (doBarArr id scope s)

/-- A `bar.wait` that completes acquires: its seat's later reads come after it, and what it releases later passes on the writes
that the arrivals ordered (R272, R273). -/
def passed (s : State) (r : BarRec) : State :=
  let s1 := raiseFloor s s.me [0] false
  let c := s1.my
  s1.setMy { c with q := { c.q with observed := inFlight s (c.q.observed ++ r.obs).eraseDups } }

/-- `bar.wait`: holds until the record's phase has moved on, then clears the record (R166, R168). -/
def doBarWait (id : BitVec 11) (scope : BitVec 3) (s : State) : Res State :=
  match barStored s.my 7 with
  | .error e => .error e
  | .ok _ =>
    let c := s.my
    match c.bar with
    | none => trapOf 16 7 0x16 (barTval id.toNat scope.toNat 4)
    | some r =>
      if r.bar ≠ id.toNat ∨ r.scope ≠ scope.toNat then trapOf 16 7 0x16 (barTval id.toNat scope.toNat 5)
      else if r.pending ∨ c.barPhase = r.phase then holdOf .barrier
      else .ok (passed (s.setMy { c with bar := none }) r)

/-- `barWait` run by itself: its effect settled as `complete` says. -/
def execBarWait (id : BitVec 11) (scope : BitVec 3) (s : State) : Host.Outcome State Fault Refusal := complete s (doBarWait id scope s)

/-- `bar.tst`: reserves an entry that will hold the barrier's state (R167). -/
def doBarTst (id : BitVec 11) (scope q : BitVec 3) (s : State) : Res State :=
  match barStored s.my 7 with
  | .error e => .error e
  | .ok _ =>
    let c := s.my
    let i := s.nextId
    let l : LoadRec :=
      { id := i, agent := agentOf s.me 0, core := c.run.lcore, die := dieOf c.run.lcore, ctx := s.me, q := q.toNat,
        kind := .barTst (barHome c.run.lcore scope.toNat) id.toNat scope.toNat, counted := false }
    .ok (atEnd { s with nextId := i + 1, loads := s.loads ++ [l] } (.reserve q.toNat { acc := i }))

/-- `barTst` run by itself: its effect settled as `complete` says. -/
def execBarTst (id : BitVec 11) (scope q : BitVec 3) (s : State) : Host.Outcome State Fault Refusal := complete s (doBarTst id scope q s)

/-- The core and seat that a quad seat index names (R169). -/
def spawnCore (lcore t : Nat) : Nat := quadOf lcore * 4 + t / 2

/-- `spawn`: checks of R40, then the target context starts (R40, R41, R169); a spawn while the launch is stopping finds no free seat
(log entry 86). -/
def doSpawn (t : BitVec 3) (a b : BitVec 4) (s : State) : Res State :=
  let c := s.my
  let core := spawnCore c.run.lcore t.toNat
  let seat := t.toNat % 2
  let entry := lo64 (xReg c b.toNat)
  if c.run.det ∧ core = c.run.lcore then trapOf 7 7 0x02 (opTval 4 7 t.toNat)
  else if entry.toNat % 4 ≠ 0 then trapOf 8 7 0x0A entry
  else if spawnBusy s core seat || (c.run.det && coreDet s core) || (s.launch c.run.launch).stopping.isSome then
    trapOf 15 7 0x0E (BitVec.ofNat 64 (core % 2048 + seat * 2048))
  else .ok (doSpawned s core seat (xReg c a.toNat) entry)

/-- `spawn` run by itself: its effect settled as `complete` says. -/
def execSpawn (t : BitVec 3) (a b : BitVec 4) (s : State) : Host.Outcome State Fault Refusal := complete s (doSpawn t a b s)

/-- `yield`: offers the seat for exchange when PRE is set, DET clear and the standby bank ready (R170). -/
def doYield (s : State) : Res State :=
  if bit s.my.sys.status 5 && !bit s.my.sys.status 3 && standbyReady s s.my.run.lcore then .ok (atEnd s .yield) else .ok s

/-- `yield` run by itself: its effect settled as `complete` says. -/
def execYield (s : State) : Host.Outcome State Fault Refusal := complete s (doYield s)

end Sys2Proof.Machine
end

