-- ==== Sys2Proof/Machine/SysRegs.lean ====
section
/-! DEFINITION. The system registers (R118 to R122): who may read and write each number, what a read returns, and what a
write leaves. -/
namespace Sys2Proof.Machine

/-- The lowest level that may read a system register, and the lowest that may write it, `none` for RO; nothing for an
unknown number (R119). -/
def sysAccess (n : Nat) : Option (Nat × Option Nat) :=
  if n = 0x000 then some (0, some 1)
  else if 0x001 ≤ n ∧ n ≤ 0x008 then some (1, some 1)
  else if 0x010 ≤ n ∧ n ≤ 0x013 then some (0, none)
  else if n = 0x014 then some (0, some 0)
  else if n = 0x015 ∨ n = 0x016 then some (0, none)
  else if n = 0x020 then some (0, none)
  else if n = 0x021 then some (0, some 0)
  else if n = 0x030 then some (0, none)
  else if n = 0x031 then some (2, some 2)
  else if 0x038 ≤ n ∧ n ≤ 0x03B then some (0, some 0)
  else if n = 0x040 then some (0, some 0)
  else if n = 0x048 ∨ n = 0x049 then some (1, some 1)
  else if n = 0x0F0 ∨ (0x0F2 ≤ n ∧ n ≤ 0x0F7) then some (2, some 2)
  else none

/-- PRIVILEGE at a system-register access (R119, R323). -/
def privTrap (n : Nat) : TrapRec := { rank := 6, cls := 1, code := 0x03, tval := BitVec.ofNat 64 n }
/-- ILLEGAL_OP at an unknown system register (R119, R46). -/
def unknownTrap (n : Nat) : TrapRec := { rank := 7, cls := 1, code := 0x02, tval := BitVec.ofNat 64 (0x10000 + n % 4096) }

/-- The trap of an `mfs`, if any. -/
def mfsCheck (c : Ctx) (n : Nat) : Option TrapRec :=
  match sysAccess n with
  | none => some (unknownTrap n)
  | some (r, _) => if c.lvl < r then some (privTrap n) else none

/-- The trap of an `mts`, if any: an RO register only checks its Read from level. -/
def mtsCheck (c : Ctx) (n : Nat) : Option TrapRec :=
  match sysAccess n with
  | none => some (unknownTrap n)
  | some (r, none) => if c.lvl < r then some (privTrap n) else none
  | some (_, some w) => if c.lvl < w then some (privTrap n) else none

/-- The code of a place in SPILLMAP (R121). -/
def placeCode : SpillPlace → Nat
  | .accumulator => 1
  | .standby => 2
  | .area => 3

/-- SPILLMAP: the entry SEL selects (R121). -/
def spillMapWord (c : Ctx) : W64 :=
  match fget? c.q.spill c.ctr.spillsel.toNat with
  | none => c.ctr.spillsel.setWidth 64
  | some e => BitVec.ofNat 64 (c.ctr.spillsel.toNat + 256 * placeCode e.place + 1024 * b2n e.wide + 2048 * b2n e.burst.isSome)

/-- CKLOG: the newest checksum-log entry made for a call of this context, 0 when none (R237). -/
def ckLogWord (s : State) (k : Nat) : W64 :=
  let x := relOf s (s.ctx k).run.lcore
  let es := (List.range (min 64 x.written)).filterMap (fun i => fget? x.cklog ((x.written - 1 - i) % 64))
  match es.find? (fun e => decide (e.ctx = k)) with
  | some e => e.lo
  | none => 0

/-- What `mfs` returns (R119). -/
def mfsValue (s : State) (k n : Nat) : W64 :=
  let c := s.ctx k
  match n with
  | 0x000 => c.sys.status
  | 0x001 => c.sys.estatus
  | 0x002 => c.sys.tvec
  | 0x003 => c.sys.tcause
  | 0x004 => c.sys.tval
  | 0x005 => c.sys.epc0
  | 0x006 => c.sys.epc1
  | 0x007 => c.sys.epc2
  | 0x008 => c.sys.tscratch
  | 0x010 => BitVec.ofNat 64 (c.run.bank % 2)
  | 0x011 => BitVec.ofNat 64 (c.run.lcore % 2048)
  | 0x012 => c.ctr.frame
  | 0x013 => c.ctr.msord
  | 0x014 => c.ctr.srstate
  | 0x015 => c.ctr.seqno.setWidth 64
  | 0x016 => if c.run.det then 0 else (s.die (dieOf c.run.lcore)).cycle
  | 0x020 => c.ctr.oobaddr
  | 0x021 => boolWord c.ctr.oobflag
  | 0x030 => ckLogWord s k
  | 0x031 => (s.core c.run.lcore).ckinj
  | 0x038 => fget 0 c.ctr.dtcnt 0
  | 0x039 => fget 0 c.ctr.dtcnt 1
  | 0x03A => fget 0 c.ctr.dtcnt 2
  | 0x03B => fget 0 c.ctr.dtcnt 3
  | 0x040 => spillMapWord c
  | 0x048 => c.ctr.watcha
  | 0x049 => c.ctr.watchm
  | 0x0F0 => c.sys.fstatus
  | 0x0F2 => c.sys.ftvec
  | 0x0F3 => c.sys.fcause
  | 0x0F4 => c.sys.fval
  | 0x0F5 => c.sys.fepc0
  | 0x0F6 => c.sys.fepc1
  | 0x0F7 => c.sys.fepc2
  | _ => 0

/-- The bits of WATCHM that software writes: SKIP, REM, ENG, WR, RD, MASK (R392). -/
def watchMask : W64 := 0x8FFFFF
/-- The bits of CKINJ (R238). -/
def ckinjMask : W64 := 0xE0FFFFC0FFFFFFFF

/-- A context after an `mts` of one of its own registers: RES and RO bits keep reading as they do (R4, R118 to R122). -/
def mtsCtx (c : Ctx) (n : Nat) (v : W64) : Ctx :=
  match n with
  | 0x000 => { c with sys := { c.sys with status := putFld c.sys.status 6 (fld v 6 1) } }
  | 0x001 => { c with sys := { c.sys with estatus := v } }
  | 0x002 => { c with sys := { c.sys with tvec := v &&& ~~~3 } }
  | 0x003 => { c with sys := { c.sys with tcause := v &&& 0xFF } }
  | 0x004 => { c with sys := { c.sys with tval := v } }
  | 0x005 => { c with sys := { c.sys with epc0 := v } }
  | 0x006 => { c with sys := { c.sys with epc1 := v } }
  | 0x007 => { c with sys := { c.sys with epc2 := v } }
  | 0x008 => { c with sys := { c.sys with tscratch := v } }
  | 0x014 => { c with ctr := { c.ctr with srstate := v } }
  | 0x021 => { c with ctr := { c.ctr with oobflag := c.ctr.oobflag && !bit v 0 } }
  | 0x038 => { c with ctr := { c.ctr with dtcnt := fset c.ctr.dtcnt 0 v } }
  | 0x039 => { c with ctr := { c.ctr with dtcnt := fset c.ctr.dtcnt 1 v } }
  | 0x03A => { c with ctr := { c.ctr with dtcnt := fset c.ctr.dtcnt 2 v } }
  | 0x03B => { c with ctr := { c.ctr with dtcnt := fset c.ctr.dtcnt 3 v } }
  | 0x040 => { c with ctr := { c.ctr with spillsel := fld v 0 8 } }
  | 0x048 => { c with ctr := { c.ctr with watcha := v &&& ~~~15 } }
  | 0x049 => { c with ctr := { c.ctr with watchm := v &&& watchMask } }
  | 0x0F0 => { c with sys := { c.sys with fstatus := v } }
  | 0x0F2 => { c with sys := { c.sys with ftvec := v } }
  | 0x0F3 => { c with sys := { c.sys with fcause := v } }
  | 0x0F4 => { c with sys := { c.sys with fval := v } }
  | 0x0F5 => { c with sys := { c.sys with fepc0 := v } }
  | 0x0F6 => { c with sys := { c.sys with fepc1 := v } }
  | 0x0F7 => { c with sys := { c.sys with fepc2 := v } }
  | _ => c

end Sys2Proof.Machine
end

