-- ==== Sys2Proof/Machine/Control.lean ====
section
/-! DEFINITION. Branches, calls, hardware loops, waits, traps, returns, `exit` and `idle` (R29 to R37, R112 to R117,
R124 to R129), and the system-register words (R118). -/
namespace Sys2Proof.Machine

/-- The last three bundles of an active body (R37). -/
def LoopLvl.lastThree (l : LoopLvl) : List W64 := (l.buf.reverse.take 3).map (·.addr)

/-- DS_BRANCH (R31, R37, R323 rank 4): a control word in a delay position, or a branch among the last three bundles of an
active body. -/
def dsTrap (c : Ctx) (branch : Bool) : Option TrapRec :=
  if c.flow.delay ≠ 0 then some { rank := 4, cls := 1, code := 0x04, tval := c.flow.braddr }
  else if branch then
    match c.flow.loops.find? (fun l => l.lastThree.contains c.flow.npc0) with
    | some l => some { rank := 4, cls := 1, code := 0x04, tval := l.last }
    | none => none
  else none

/-- Run `f` unless the word stands where DS_BRANCH forbids it. -/
def unlessDs (s : State) (branch : Bool) (f : Res State) : Res State :=
  match dsTrap s.my branch with
  | some t => .error (.trap t)
  | none => f

/-- The branch of the bundle in issue: its target when taken, and whether fetch bubbles (R29, R30). -/
def setBranch (s : State) (target : Option W64) (bubble : Bool) : State :=
  let c := s.my
  s.setMy { c with iss := { c.iss with br := some { target := target, bubble := bubble || c.run.det } } }

/-- The target of an SD branch: the bundle's own address plus 4 · disp13 (R112). -/
def sdTarget (c : Ctx) (disp : BitVec 13) : W64 := c.flow.npc0 + (disp.signExtend 64 <<< 2)

/-- The return point: the bundle after the second delay bundle, with the lengths R404 gives (R29). -/
def returnPoint (s : State) : W64 :=
  let c := s.my
  nextAddr s s.me (nextAddr s s.me (c.flow.npc0 + BitVec.ofNat 64 (4 * c.iss.len)))

/-- A conditional SD branch: taken when `p` holds of the register; a wrong hint bubbles (R30, R112). -/
def condBranch (s : State) (a : BitVec 6) (hint : BitVec 1) (disp : BitVec 13) (p : W64 → Bool) : Res State :=
  unlessDs s true
    (match rdS s.my 1 a.toNat with
    | .error e => .error e
    | .ok x => .ok (setBranch s (if p x then some (sdTarget s.my disp) else none) (p x != (hint == 1))))

/-- A jump through a register: ALIGN for a target with bits 1:0 set; always bubbles (R113). -/
def jumpReg (s : State) (a : BitVec 6) (link : Bool) : Res State :=
  unlessDs s true
    (trapFirst (if link then clashS s.my 55 1 else none)
      (match rdS s.my 1 a.toNat with
      | .error e => .error e
      | .ok x =>
        if x.toNat % 4 ≠ 0 then trapOf 8 1 0x0A x
        else if link then
          match putS s 55 1 (returnPoint s) with
          | .error e => .error e
          | .ok s1 => .ok (setBranch s1 (some x) true)
        else .ok (setBranch s (some x) true)))

/-- `bz` (R112). -/
def doBz (a : BitVec 6) (hint : BitVec 1) (disp : BitVec 13) (s : State) : Res State :=
  condBranch s a hint disp (fun x => x == 0)

/-- `bz` run by itself: its effect settled as `complete` says. -/
def execBz (a : BitVec 6) (hint : BitVec 1) (disp : BitVec 13) (s : State) : Host.Outcome State Fault Refusal := complete s (doBz a hint disp s)

/-- `bnz` (R112). -/
def doBnz (a : BitVec 6) (hint : BitVec 1) (disp : BitVec 13) (s : State) : Res State :=
  condBranch s a hint disp (fun x => x != 0)

/-- `bnz` run by itself: its effect settled as `complete` says. -/
def execBnz (a : BitVec 6) (hint : BitVec 1) (disp : BitVec 13) (s : State) : Host.Outcome State Fault Refusal := complete s (doBnz a hint disp s)

/-- `blz` (R112). -/
def doBlz (a : BitVec 6) (hint : BitVec 1) (disp : BitVec 13) (s : State) : Res State :=
  condBranch s a hint disp (fun x => x.msb)

/-- `blz` run by itself: its effect settled as `complete` says. -/
def execBlz (a : BitVec 6) (hint : BitVec 1) (disp : BitVec 13) (s : State) : Host.Outcome State Fault Refusal := complete s (doBlz a hint disp s)

/-- `bgez` (R112). -/
def doBgez (a : BitVec 6) (hint : BitVec 1) (disp : BitVec 13) (s : State) : Res State :=
  condBranch s a hint disp (fun x => !x.msb)

/-- `bgez` run by itself: its effect settled as `complete` says. -/
def execBgez (a : BitVec 6) (hint : BitVec 1) (disp : BitVec 13) (s : State) : Host.Outcome State Fault Refusal := complete s (doBgez a hint disp s)

/-- `br`: always taken, never bubbles outside a determinism-flagged context (R30, R112). -/
def doBr (_hint : BitVec 1) (disp : BitVec 13) (s : State) : Res State :=
  unlessDs s true (.ok (setBranch s (some (sdTarget s.my disp)) false))

/-- `br` run by itself: its effect settled as `complete` says. -/
def execBr (hint : BitVec 1) (disp : BitVec 13) (s : State) : Host.Outcome State Fault Refusal := complete s (doBr hint disp s)

/-- `call`: s55 := return point, latency 1 (R29, R112). -/
def doCall (_hint : BitVec 1) (disp : BitVec 13) (s : State) : Res State :=
  unlessDs s true
    (match putS s 55 1 (returnPoint s) with
    | .error e => .error e
    | .ok s1 => .ok (setBranch s1 (some (sdTarget s.my disp)) false))

/-- `call` run by itself: its effect settled as `complete` says. -/
def execCall (hint : BitVec 1) (disp : BitVec 13) (s : State) : Host.Outcome State Fault Refusal := complete s (doCall hint disp s)

/-- `jr` (R113). -/
def doJr (a : BitVec 6) (s : State) : Res State :=
  jumpReg s a false

/-- `jr` run by itself: its effect settled as `complete` says. -/
def execJr (a : BitVec 6) (s : State) : Host.Outcome State Fault Refusal := complete s (doJr a s)

/-- `jlr` (R113). -/
def doJlr (a : BitVec 6) (s : State) : Res State :=
  jumpReg s a true

/-- `jlr` run by itself: its effect settled as `complete` says. -/
def execJlr (a : BitVec 6) (s : State) : Host.Outcome State Fault Refusal := complete s (doJlr a s)

/-- `n` bundles from an address in address order, framed from memory (R33, R404). -/
def frameBody (s : State) : (n : Nat) → W64 → List BodyBundle
  | 0, _ => []
  | n + 1, a =>
    let f := frameAt s s.me a
    let len := match f with | .bundle ws => ws.length | _ => 4
    let text : Option (Framed Unit) := match f with
      | .bundle ws => some (.bundle ws)
      | .bad r i => some (.bad r i)
      | .fault _ => none
    { addr := a, words := len, text := text } :: frameBody s n (a + BitVec.ofNat 64 (4 * len))

/-- The words of a body (R33). -/
def bodyWords (bs : List BodyBundle) : Nat := (bs.map (·.words)).sum

/-- The address of the last bundle of a body, and the one after it. -/
def bodyEnd (start : W64) (bs : List BodyBundle) : W64 × W64 :=
  match bs.getLast? with
  | some b => (b.addr, b.addr + BitVec.ofNat 64 (4 * b.words))
  | none => (start, start)

/-- The loop a `loop` word opens: its body, framed, and its count (R33). -/
def newLoop (s : State) (count body : Nat) : LoopLvl :=
  let c := s.my
  let start := c.flow.npc0 + BitVec.ofNat 64 (4 * c.iss.len)
  let bs := frameBody s body start
  let e := bodyEnd start bs
  { start := start, last := e.1, after := e.2, nbody := body, rem := count, iter := 0, finish := false, buf := bs }

/-- A `loop` keeps the conditions of R33: level one above the innermost, a body that ends within the enclosing one. -/
def loopOk (c : Ctx) (level : Nat) (l : LoopLvl) : Bool :=
  decide (level = c.flow.loops.length) && decide (level < 6) && decide (l.nbody ≠ 0) &&
    (match c.flow.loops.getLast? with
     | none => true
     | some o => decide (l.last.toNat ≤ o.last.toNat))

/-- `loop`: holds for a waiting count, then for the framing time; a loop that breaks R33 traps before an empty count head;
else it opens the level at the bundle's end (R33, R115, R323). -/
def doLoop (level : BitVec 3) (a : BitVec 6) (body : BitVec 11) (s : State) : Res State :=
  let l := newLoop s 0 body.toNat
  unlessDs s false
    (match rdS s.my 1 a.toNat with
    | .error (.hold h) => .error (.hold h)
    | r =>
      if !s.my.flow.framed && decide (0 < bodyWords l.buf) then holdOf (.framing ((bodyWords l.buf + 15) / 16))
      else trapFirst
        (if loopOk s.my level.toNat l then none
          else some { rank := 7, cls := 1, code := 0x02, tval := opTval 1 1 level.toNat })
        (match r with
        | .error e => .error e
        | .ok x =>
          if x.toNat % 2 ^ 32 = 0 then .ok (atEnd s (.loopSkip l.after))
          else .ok (atEnd s (.loopOpen level.toNat { l with rem := x.toNat % 2 ^ 32 }))))

/-- `loop` run by itself: its effect settled as `complete` says. -/
def execLoop (level : BitVec 3) (a : BitVec 6) (body : BitVec 11) (s : State) : Host.Outcome State Fault Refusal := complete s (doLoop level a body s)

/-- `lexit`: marks its level to the innermost as finishing (R36, R116). -/
def doLexit (level : BitVec 3) (s : State) : Res State :=
  unlessDs s false
    (if s.my.flow.loops.length ≤ level.toNat then trapOf 7 1 0x02 (opTval 3 1 level.toNat)
    else .ok (atEnd s (.lexit level.toNat)))

/-- `lexit` run by itself: its effect settled as `complete` says. -/
def execLexit (level : BitVec 3) (s : State) : Host.Outcome State Fault Refusal := complete s (doLexit level s)

/-- A counter is at or below its immediate; 31 places no bound (R28). -/
def waitMet (n : Nat) (imm : BitVec 5) : Bool := decide (imm.toNat = 31) || decide (n ≤ imm.toNat)

/-- `wait`: holds until every counter is at or below its immediate (R117). -/
def doWait (ld st cp tl : BitVec 5) (s : State) : Res State :=
  if waitMet s.my.q.ld ld && waitMet s.my.q.st st && waitMet s.my.q.cp cp && waitMet s.my.q.tl tl then
    .ok (if ld = 0 ∨ st = 0 ∨ cp = 0 ∨ tl = 0 then raiseFloor s s.me (List.range 6) false else s)
  else holdOf .waitCount

/-- `wait` run by itself: its effect settled as `complete` says. -/
def execWait (ld st cp tl : BitVec 5) (s : State) : Host.Outcome State Fault Refusal := complete s (doWait ld st cp tl s)

/-- `frame`: FRAME is 0 at the end of the seat cycle (R129). -/
def doFrame (s : State) : Res State :=
  .ok (atEnd s .frame)

/-- `frame` run by itself: its effect settled as `complete` says. -/
def execFrame (s : State) : Host.Outcome State Fault Refusal := complete s (doFrame s)

/-- `mfs`: a system register into d, latency 2 (R118, R119). -/
def doMfs (d : BitVec 6) (reg : BitVec 12) (s : State) : Res State :=
  match mfsCheck s.my reg.toNat with
  | some t => .error (.trap t)
  | none => putS s d.toNat 2 (mfsValue s s.me reg.toNat)

/-- `mfs` run by itself: its effect settled as `complete` says. -/
def execMfs (d : BitVec 6) (reg : BitVec 12) (s : State) : Host.Outcome State Fault Refusal := complete s (doMfs d reg s)

/-- `mts`: writes at the end of the seat cycle (R118, R119). -/
def doMts (a : BitVec 6) (reg : BitVec 12) (s : State) : Res State :=
  trapFirst (mtsCheck s.my reg.toNat)
    (match rdS s.my 1 a.toNat with
    | .error e => .error e
    | .ok x => .ok (atEnd s (.mts reg.toNat x)))

/-- `mts` run by itself: its effect settled as `complete` says. -/
def execMts (a : BitVec 6) (reg : BitVec 12) (s : State) : Host.Outcome State Fault Refusal := complete s (doMts a reg s)

/-- TVAL of `trap` and `brk`: the code and the bundle's word count (R124). -/
def swTval (c : Ctx) (code : BitVec 16) : W64 := BitVec.ofNat 64 (code.toNat + c.iss.len % 16 * 65536)

/-- `trap`: SW_TRAP (R124). -/
def doTrap (code : BitVec 16) (s : State) : Res State :=
  trapOf 18 1 0x0D (swTval s.my code)

/-- `trap` run by itself: its effect settled as `complete` says. -/
def execTrap (code : BitVec 16) (s : State) : Host.Outcome State Fault Refusal := complete s (doTrap code s)

/-- `brk`: BREAK (R124). -/
def doBrk (code : BitVec 16) (s : State) : Res State :=
  trapOf 18 1 0x0C (swTval s.my code)

/-- `brk` run by itself: its effect settled as `complete` says. -/
def execBrk (code : BitVec 16) (s : State) : Host.Outcome State Fault Refusal := complete s (doBrk code s)

/-- The saved STATUS that `tret` restores at a level. -/
def tretStatus (c : Ctx) : W64 := if c.lvl = 1 then c.sys.estatus else c.sys.fstatus

/-- The check of R125 on a saved STATUS. -/
def tretOk (c : Ctx) (st : W64) : Bool :=
  decide (st.toNat / 2 ^ 7 = 0) && !bit st 2 && decide (lvlOf st < c.lvl)
    && (bit st 3 == c.run.det) && (bit st 4 == c.run.stmp) && (bit st 5 == c.run.pre)

/-- `tret`: PRIVILEGE at program level, the hold for pending writes, TRET_STATE, else the return (R125). -/
def doTret (s : State) : Res State :=
  unlessDs s false
    (let c := s.my
    if c.lvl = 0 then trapOf 6 1 0x03 0
    else if c.pend ≠ [] then holdOf .drain
    else if c.lvl = 1 ∧ tretOk c (tretStatus c) = false then trapOf 19 1 0x15 (tretStatus c)
    else .ok (atEnd s .tret))

/-- `tret` run by itself: its effect settled as `complete` says. -/
def execTret (s : State) : Host.Outcome State Fault Refusal := complete s (doTret s)

/-- Every reserved load-queue entry has arrived (R127). -/
def allArrived (c : Ctx) : Bool := c.q.lq.all (fun p => p.2.all (fun e => decide (e.st ≠ .reserved)))

/-- `exit`: program level only; holds for arrivals and pending writes; raises a stored barrier fault; ends the step at the bundle's end (R127, R168). -/
def doExit (s : State) : Res State :=
  unlessDs s false
    (let c := s.my
    if c.lvl ≠ 0 then trapOf 7 1 0x02 (opTval 7 1 0)
    else if allArrived c = false then holdOf .other
    else if c.pend ≠ [] then holdOf .drain
    else
      match barStored c 1 with
      | .error e => .error e
      | .ok _ => .ok (atEnd s .exit))

/-- `exit` run by itself: its effect settled as `complete` says. -/
def execExit (s : State) : Host.Outcome State Fault Refusal := complete s (doExit s)

/-- `fwcall`: enters firmware level after its bundle completes (R126). -/
def doFwcall (service : BitVec 16) (s : State) : Res State :=
  if s.my.lvl = 2 then trapOf 7 1 0x02 (opTval 6 1 0) else .ok (atEnd s (.fwcall (service.setWidth 64)))

/-- `fwcall` run by itself: its effect settled as `complete` says. -/
def execFwcall (service : BitVec 16) (s : State) : Host.Outcome State Fault Refusal := complete s (doFwcall service s)

/-- `idle`: holds until an event reaches the seat (R128). -/
def doIdle (s : State) : Res State :=
  if s.my.flow.wake then .ok s else holdOf .idle

/-- `idle` run by itself: its effect settled as `complete` says. -/
def execIdle (s : State) : Host.Outcome State Fault Refusal := complete s (doIdle s)

end Sys2Proof.Machine
end

