-- ==== Sys2Proof/Machine/Trace.lean ====
section
/-! DEFINITION. Writes a die's own units make (R325, R390) and the trace sessions: records, their buffer and their end (R339, R387
to R390). -/
namespace Sys2Proof.Machine

/-! Writes of a die's units -/

/-- Bytes within one aligned 64 that a unit writes at a translated place, at die scope at once in the order of a die: the write
leaves no line in that die's stashes (R259) and replaces an error only when it covers its granule whole (R350). `sys`: it comes
from outside the device's own agents (R274, R278). -/
def unitStore (s : State) (x : Xl) (die space : Nat) (va : W64) (sys : Bool) (bs : List Byte) : Except XErr State :=
  if poisoned s x.key && (isDead x.key || decide (bs.length < 64)) then .error (.code 0x13)
  else
    let (id, s1) := takeId s
    let w : WriteRec :=
      { id := id, agent := 0, core := 2048 + die, die := die, home := pteHome x.leaf, cells := cellsAt x.key bs, vis := id,
        durable := pteDur x.leaf, host := pteBias x.leaf, va := va, space := space, sys := sys }
    .ok (settle (dieWrite s1 w))

/-- At most 64 bytes within one granule that a unit of a die writes to global memory at firmware level. -/
def dieStore (s : State) (d space : Nat) (va : W64) (bs : List Byte) : Except XErr State :=
  (xlate s (2048 + d) space va { w := true, lvl := 2 }).bind (fun x => unitStore s x d space va false bs)

/-- Bytes that a unit writes granule by granule, each by `put`. -/
def putBlocks (put : State → W64 → List Byte → Except XErr State) (s : State) : (fuel : Nat) → (va : W64) → List Byte → Except XErr State
  | 0, _, _ => .ok s
  | fuel + 1, va, bs =>
    if bs = [] then .ok s
    else
      let m := 64 - va.toNat % 64
      (put s va (bs.take m)).bind (fun s1 => putBlocks put s1 fuel (va + BitVec.ofNat 64 m) (bs.drop m))

/-- Bytes that a unit of a die writes. -/
def dieBlocks (s : State) (d space : Nat) (va : W64) (bs : List Byte) : Except XErr State :=
  putBlocks (fun s va bs => dieStore s d space va bs) s (bs.length / 64 + 2) va bs

/-! Trace sessions (R389, R390) -/

/-- The session is open. -/
def TraceSes.open_ (t : TraceSes) : Bool := bit t.ctl 63
/-- LAUNCH. -/
def TraceSes.lid (t : TraceSes) : Nat := (fld t.ctl 0 32).toNat
/-- The session records type `n` of launch `l`; launch 0 stands for a record of no launch (R389). -/
def TraceSes.records (t : TraceSes) (n l : Nat) : Bool :=
  t.open_ && bit t.ctl (48 + (n - 1)) && (decide (t.lid = 0) || decide (l = 0) || decide (t.lid = l))

/-- Session `i` of a die. -/
def traceOf (s : State) (d i : Nat) : TraceSes := fget {} (s.die d).trace i
/-- That session replaced. -/
def setTrace (s : State) (d i : Nat) (t : TraceSes) : State :=
  let x := s.die d
  s.setDie d { x with trace := fset x.trace i t }

/-- The address space of a session's buffer: that of the launch it names, else space 0 (log entry 28). -/
def traceSpace (s : State) (t : TraceSes) : Nat := (s.launch t.lid).rec_.space

/-- A record header (R390). -/
def traceHead (s : State) (d unit sub type : Nat) : W64 :=
  BitVec.ofNat 64 ((s.die d).cycle.toNat % 2 ^ 48 * 2 ^ 16 + unit % 256 * 256 + sub % 16 * 16 + type % 16)

/-- Bytes of a record: header, payload, zeros up to its size. -/
def recordBytes (head : W64) (payload : List Byte) (n : Nat) : List Byte :=
  (bytesOf 8 head.toNat ++ payload ++ List.replicate n 0).take n

/-- Bytes written into a session's buffer at HEAD modulo SIZE, the rest from BASE on where they reach the buffer's end (R390). -/
def traceBlocks (s : State) (d : Nat) (t : TraceSes) (bs : List Byte) : Except XErr State :=
  let n := t.size.toNat
  let o := t.head.toNat % n
  if n = 0 then .error (.code 0x07)
  else (dieBlocks s d (traceSpace s t) (t.base + BitVec.ofNat 64 o) (bs.take (n - o))).bind
    (fun s1 => dieBlocks s1 d (traceSpace s t) t.base (bs.drop (n - o)))

/-- Bytes put into a session's buffer, as far as it can take them (R390). -/
def putTrace (s : State) (d i : Nat) (bs : List Byte) : State :=
  let t := traceOf s d i
  match traceBlocks s d t bs with
  | .ok s1 =>
    let t1 := traceOf s1 d i
    setTrace s1 d i { t1 with head := t1.head + BitVec.ofNat 64 bs.length }
  | .error _ => setTrace s d i { t with lost := t.lost + 1 }

/-- A session ends with an end record (R339, R389): 1 firmware, 2 queue reset, 3 full, 4 its launch ended, 5 domain change,
6 trigger. -/
def endTrace (s : State) (d i reason : Nat) : State :=
  let t := traceOf s d i
  if t.open_ then
    let head := traceHead s d (s.launch t.lid).rec_.queue reason 0xF
    let second : W64 := BitVec.ofNat 64 (t.lid % 2 ^ 32 + 2 ^ 32 * (t.lost.toNat % 2 ^ 32))
    let s1 := putTrace s d i (recordBytes head (bytesOf 8 second.toNat) 32)
    let t1 := traceOf s1 d i
    raiseSource (setTrace s1 d i { t1 with ctl := putFld t1.ctl 63 (0 : BitVec 1), lost := 0 }) d 22
  else s

/-- A record written into one session, which ends when it is full and FULLSTOP is set (R389, R390). -/
def traceInto (s : State) (d i : Nat) (bs : List Byte) : State :=
  let t := traceOf s d i
  if bit t.ctl 44 ∧ t.size.toNat < t.head.toNat + bs.length + 32 then endTrace s d i 3 else putTrace s d i bs

/-- A record of a type written into every open session of a die that records it (R390). -/
def traceAll (s : State) (d type launch : Nat) (bs : List Byte) : State :=
  ((s.die d).trace.map (·.1)).foldl (fun s i => if (traceOf s d i).records type launch then traceInto s d i bs else s) s

/-- A launch record (R390): 0 start, 1 end completed, 2 end failed, with its counts. -/
def traceLaunch (s : State) (l sub : Nat) : State :=
  let x := s.launch l
  let c := if sub = 0 then (0, 0) else (x.done.toNat, x.failed.toNat)
  let pay := bytesOf 8 l ++ bytesOf 8 c.1 ++ bytesOf 8 c.2
  (s.dies.map (·.1)).foldl (fun s d =>
    traceAll s d 1 l (recordBytes (traceHead s d x.rec_.queue sub 1) pay 32)) s

/-- The sessions of a die that name a launch end (R339, R389). -/
def endTracesOf (s : State) (d l reason : Nat) : State :=
  ((s.die d).trace.map (·.1)).foldl (fun s i => if (traceOf s d i).lid = l ∧ l ≠ 0 then endTrace s d i reason else s) s

/-- Those of every die. -/
def endTracesEvery (s : State) (l reason : Nat) : State :=
  (s.dies.map (·.1)).foldl (fun s d => endTracesOf s d l reason) s

/-! Lost cycles (R387) -/

/-- The 256 counters of a core, requester-major. -/
def lostBytes (s : State) (d p : Nat) : List Byte := (List.range 256).flatMap (fun i => bytesOf 2 (lostCount s d p i).toNat)

/-- Lost-cycle counters of a core cleared. -/
def clearLost (s : State) (d p : Nat) (is : List Nat) : State :=
  let x := physAt s d p
  let n := (s.die d).cycle
  setPhysAt s d p { x with lost := is.foldl (fun m i => fset m i n) x.lost }

/-- A hardware loop exit of a seat at a level: one snapshot record for each session that asks for it, and the counters are
cleared (R387). -/
def lostSnapshot (s : State) (k lvl : Nat) : State :=
  let r := (s.ctx k).run
  let d := dieOf r.lcore
  let asks := fun (t : TraceSes) => t.records 3 r.launch && decide (lvl ≤ (fld t.ctl 45 3).toNat)
  let is := ((s.die d).trace.filter (fun p => asks p.2)).map (·.1)
  if is = [] then s
  else
    let p := physOf s r.lcore
    let bs := recordBytes (traceHead s d p 0 3) (lostBytes s d p) 544
    clearLost (is.foldl (fun s i => traceInto s d i bs) s) d p (List.range 256)

/-! Errors (R350, R396) -/

/-- A count in one half of CECNTs, stopping at its largest value. -/
def bumpCount (v : W64) (hi : Bool) : W64 :=
  let o := if hi then 32 else 0
  let n := (fld v o 32).toNat
  putFld v o (BitVec.ofNat 32 (min (n + 1) (2 ^ 32 - 1)))

/-- An error of a source is counted; a corrected count that passes CETHR asserts source 28 once (R396). -/
def countError (s : State) (d source : Nat) (hard : Bool) : State :=
  let off := 0x6900 + 8 * source
  let v := dieReg s d off 0
  let w := bumpCount v hard
  let s1 := setDieReg s d off w
  let thr := (dieReg s d 0x6948 0).toNat % 2 ^ 32
  if !hard ∧ thr ≠ 0 ∧ (fld v 0 32).toNat ≤ thr ∧ thr < (fld w 0 32).toNat then raiseSource s1 d 28 else s1

/-- A physical address in the TGT, HOME and FRAME encoding of R343, by granule. -/
def physAddr (key : Nat) : W64 :=
  let g := key / 64 * 64
  if isCoreKey g then BitVec.ofNat 64 (g % 2 ^ 22)
  else if isCompKey g then BitVec.ofNat 64 (2 * 2 ^ 53 + g % 2 ^ 52)
  else if isNvKey g then BitVec.ofNat 64 (2 ^ 53 + g % 2 ^ 52)
  else BitVec.ofNat 64 (g / 2 ^ 52 % 32 * 2 ^ 55 + g % 2 ^ 52)

/-- The record of an uncorrectable granule (R350). -/
def errorRecord (d source key : Nat) (vaddr : W64) (seq : W32) (lcore : Nat) : BitVec 256 :=
  BitVec.ofNat 256 (d % 32 + lcore % 2048 * 2 ^ 5 + seq.toNat * 2 ^ 32 + vaddr.toNat * 2 ^ 64 + (physAddr key).toNat * 2 ^ 128
    + source % 256 * 2 ^ 192)

/-- The record of an uncorrectable error is logged, counted and told to the management core and the driver (R350, R388, R390,
R396). -/
def logRecord (s : State) (d source key : Nat) (vaddr : W64) (seq : W32) (lcore : Nat) : State :=
  let r := errorRecord d source key vaddr seq lcore
  let x := s.die d
  let s2 := (s.setDie d { x with errlog := x.errlog ++ [r], msgs := x.msgs ++ [.interrupt 1 vaddr] }).tell (.errorRecord r)
  let s3 := countError s2 d source true
  raiseSource (traceAll s3 d 8 0 (recordBytes (traceHead s3 d 0 0 8) (bytesOf 32 r.toNat) 64)) d 19

/-- An uncorrectable granule is withheld, and logged (R350). -/
def logError (s : State) (d source key : Nat) (vaddr : W64) (seq : W32) (lcore : Nat) : State :=
  logRecord { s with poison := if s.poison.contains (key / 64) then s.poison else key / 64 :: s.poison } d source key vaddr seq lcore

/-- An access of a core to a host-bias page aborts because the Alvel link has failed: the record has SOURCE 7, and no granule of
the device is at fault (R350, R351). -/
def abortLink (s : State) (core key : Nat) (va : W64) (seq : W32) : State := logRecord s (dieOf core) 7 key va seq core

/-- A physical key of an access that waits in a load queue. -/
def loadKey (l : LoadRec) : Nat :=
  match l.kind with
  | .read cells _ => ((cells.filterMap (·.map (·.1))).headD 0)
  | .atomic _ (some key) _ _ _ => key
  | _ => 0

/-- A write to a host-bias page that the link did not carry (R351). -/
def WriteRec.lost (w : WriteRec) : WriteRec := { w with cells := [], bad := some w.va }

end Sys2Proof.Machine
end

