-- ==== Sys2Proof/Machine/Finish.lean ====
section
/-! DEFINITION. The end of a bundle that issues: pops and reservations (R24, R25), the effects its words asked for, hardware
updates after `mts` (R122), the landing of pending writes (R18), loop ends (R34), and the next address (R29 to R32). -/
namespace Sys2Proof.Machine

/-- Load queue `q` without its head (R24). -/
def popQueue (q : FMap (List QEntry)) (i : Nat) : FMap (List QEntry) := fset q i ((fget [] q i).drop 1)

/-- The queues a pop mask names (R51). -/
def popList (mask : BitVec 8) : List Nat := (List.range 8).filter (fun i => bit mask i)

/-- Load queues after the pops of a mask. -/
def popAll (mask : BitVec 8) (q : FMap (List QEntry)) : FMap (List QEntry) := (popList mask).foldl popQueue q

/-- The checks of a pop mask: holds for a waiting head, traps for a faulted or an empty one (R24, R26). -/
def popCheck (c : Ctx) (mask : BitVec 8) : Res Unit :=
  (popList mask).foldl (fun r i => (both r (headOf c 0 i)).map (fun _ => ())) (.ok ())

/-- Reservations the words of the bundle made in load queue `q`. -/
def reservedIn (c : Ctx) (q : Nat) : Nat :=
  (c.iss.fx.filter (fun fx => match fx with | .reserve q' _ => decide (q' = q) | _ => false)).length

/-- A load queue would hold more than 8 entries after the pops and reservations (R25). -/
def loadOver (c : Ctx) (mask : BitVec 8) (q : Nat) : Bool :=
  decide (8 < (fget [] (popAll mask c.q.lq) q).length + reservedIn c q)

/-- A store queue holds more than 8 entries (R27). -/
def storeOver (c : Ctx) (w : Nat) : Bool := decide (8 < (fget [] c.q.sq w).length)

/-- The queue a word adds an entry to, as STOREQ_OVERFLOW numbers it, and the word's class (R25, R27). -/
def queueOf : Instr → Option (Nat × Nat)
  | .push w _ => some (8 + w.toNat, 1)
  | .vpush sl w _ => some (8 + w.toNat, VSlot.cls sl)
  | .ldi8 sl _ q _ | .ldn8 sl _ q _ | .ldi16 sl _ q _ | .ldn16 sl _ q _ | .ldi32 sl _ q _ | .ldn32 sl _ q _
  | .ld64 sl _ q _ | .vld sl _ q _ => some (q.toNat, CSlot.cls sl)
  | .vldg sl _ q _ _ | .vlds sl _ _ q => some (q.toNat, CSlot.cls sl)
  | .aadd sl _ q _ _ _ | .amin sl _ q _ _ _ | .amax sl _ q _ _ _ | .aand sl _ q _ _ _ | .aor sl _ q _ _ _
  | .axch sl _ q _ _ _ | .acas sl _ q _ _ _ | .afadd sl _ q _ _ _ | .aminn sl _ q _ _ _ | .amaxn sl _ q _ _ _ =>
    some (q.toNat, CSlot.cls sl)
  | .enq sl _ q _ | .cnt sl _ q _ _ => some (q.toNat, CSlot.cls sl)
  | .barTst _ _ q => some (q.toNat, 7)
  | _ => none

/-- STOREQ_OVERFLOW of the bundle, reported by the lowest class (R25, R27, R323). -/
def overflowTrap (c : Ctx) (mask : BitVec 8) (ws : List Instr) : Option TrapRec :=
  ws.findSome? (fun i => match queueOf i with
    | some (n, cls) =>
      if (if n < 8 then loadOver c mask n else storeOver c (n - 8)) then
        some { rank := 13, cls := cls, code := 0x06, tval := BitVec.ofNat 64 n }
      else none
    | none => none)

/-! Loop ends -/

/-- What a loop end does to the stack: the levels that ended an iteration, the stack after, and where it goes, when it
redirects (R34, R36): innermost first, going on outward while levels close at the same address. -/
def loopEnd (pc : W64) : (loops : List LoopLvl) → List Nat × List LoopLvl × Option W64
  | [] => ([], [], none)
  | l :: outer =>
    -- `loops` is innermost first here
    if l.last = pc then
      if l.finish ∨ l.rem ≤ 1 then
        match loopEnd pc outer with
        | (ls, st, none) => (outer.length :: ls, st, some l.after)
        | (ls, st, some a) => (outer.length :: ls, st, some a)
      else ([outer.length], { l with rem := l.rem - 1, iter := l.iter + 1 } :: outer, some l.start)
    else ([], l :: outer, none)

/-- The loop stack after the marks of `lexit` in this bundle (R36). -/
def markLoops (c : Ctx) : List LoopLvl :=
  let n := c.iss.fx.foldl (fun r fx => match fx with | .lexit l => min r l | _ => r) c.flow.loops.length
  (c.flow.loops.zipIdx).map (fun p => if n ≤ p.2 then { p.1 with finish := true } else p.1)

/-- The loop end of the bundle in issue. -/
def loopEndOf (c : Ctx) : List Nat × List LoopLvl × Option W64 :=
  match loopEnd c.flow.npc0 (markLoops c).reverse with
  | (ls, st, a) => (ls, st.reverse, a)

/-- The stride a register of a copy slot receives when the levels `ls` end; `none` when every one is 0 (R34). -/
def strideSum (sf : FMap W32) (reg : Nat) (ls : List Nat) : Option W64 :=
  if ls.all (fun l => fget 0 sf (8 * reg + l) == 0) then none
  else some ((ls.map (fun l => (fget 0 sf (8 * reg + l)).signExtend 64)).foldl (· + ·) 0)

/-- The stride updates of a loop end for one copy slot, as pending writes that land now (R34). -/
def stridePends (cls : Nat) (rf : FMap W64) (sf : FMap W32) (ls : List Nat) : List Pend :=
  (List.range 16).filterMap (fun r =>
    (strideSum sf r ls).map (fun d => { cls := cls, reg := r, kind := 0, delay := 1, value := wide64 (fget 0 rf r + d) }))

/-- The stride updates of the loop end of the bundle in issue. -/
def loopPends (c : Ctx) : List Pend :=
  let ls := (loopEndOf c).1
  stridePends 5 c.regs.ca c.regs.sa ls ++ stridePends 6 c.regs.cb c.regs.sb ls

/-- The same-cycle write of a loop end and a C-slot write (R19). -/
def strideTrap (c : Ctx) : Option TrapRec :=
  match (loopPends c).find? (fun p => c.pend.any (Pend.clash p)) with
  | some p => some { rank := 7, cls := p.cls, code := 0x02, tval := clashTval p }
  | none => none

/-! End effects -/

/-- Whether a bundle asked for an effect. -/
def asked (c : Ctx) (p : EndFx → Bool) : Bool := c.iss.fx.any p

/-- An armed CKINJ upset of a pair or check word is applied (R238). -/
def ckinjApply (x : CoreSt) : CoreSt :=
  let v := x.ckinj
  let tgt := (fld v 61 2).toNat
  let row := (fld v 45 11).toNat
  let col := (fld v 38 7).toNat
  let m : W32 := fld v 0 32
  if !bit v 63 || decide (tgt = 2) then x
  else
    let y := { x with ckinj := putFld v 63 (0 : BitVec 1) }
    if tgt = 3 then
      let key := 3 * (256 * (row / 128) + row % 128)
      { y with chk := fset y.chk key (fget 0 y.chk key ^^^ m) }
    else
      let key := 256 * row + 2 * col + tgt
      { y with acc := fset y.acc key (fget 0 y.acc key ^^^ m) }

/-- `mts` of register `n` at the end of the seat cycle, with the register's own effects (R118, R238). -/
def mtsEffect (s : State) (n : Nat) (v : W64) : State :=
  if n = 0x031 then
    let core := s.my.run.lcore
    s.setCore core (ckinjApply { s.core core with ckinj := v &&& ckinjMask })
  else s.setMy (mtsCtx s.my n v)

/-- A stash mapping: blocks bound to consecutive entries (R204). -/
def bindStash (s : State) (idx n : Nat) (va : W64) : State :=
  let c := s.my
  let t := (List.range n).foldl (fun t i =>
    let a := va + BitVec.ofNat 64 (4096 * i)
    let key := match xlate s c.run.lcore c.run.space a { r := true, w := true, lvl := c.lvl } with | .ok x => x.key | _ => 0
    fset t (idx + i) { va := a, space := c.run.space, key := key, held := 0 }) c.tiles.stash
  s.setMy { c with tiles := { c.tiles with stash := t } }

/-- Dirty lines of a context's stash entries leave the stash: they are then ordinary writes that have passed die stage,
and take their place among the writes that cross the bridges now (R259, R260, R265). -/
def stashRelease (s : State) (k : Nat) (p : Nat → Bool) : State :=
  writeBack s (fun w => match w.stash with
    | some (k', i) => decide (k' = k) && p i
    | none => false)

/-- Dirty lines of a context's stash entries are discarded (R205, R260): nothing of such a store is left to perform, so that
it completes (log entry 94). -/
def stashDiscard (s : State) (k : Nat) (p : Nat → Bool) : State :=
  { s with writes := s.writes.map (fun w =>
      match w.stash with
      | some (k', i) => if k' = k ∧ p i = true then { w with cells := [], stash := none, stage := 4 } else w
      | none => w) }

/-! The sets of dirtied lines (R260, R318) -/

/-- The die on which the consumer of index `i` of launch `l` has first been placed (R318). -/
def consumerDie (s : State) (l i : Nat) : Option Nat :=
  let places := s.dev.launches.flatMap (fun (p : Nat × Launch) =>
    if (p.2.rec_.after0 = l ∨ p.2.rec_.after1 = l) ∧ p.2.rec_.n = (s.launch l).rec_.n then
      p.2.placed.filter (fun e => decide (e.2.1 ≤ i ∧ i < e.2.2.1))
    else [])
  (places.foldl (fun (r : Option (Nat × Nat × Nat × Nat)) e => match r with
    | none => some e
    | some b => if e.1 < b.1 then some e else some b) none).map (fun e => e.2.2.2)

/-- The die of the consumer of the step that dirtied a line, once it is known (R260, R318). -/
def WriteRec.consumer (s : State) (w : WriteRec) : Option Nat := w.step.bind (consumerDie s w.launch)

/-- The step that dirtied a line has exited (R260). -/
def WriteRec.stepOver (s : State) (w : WriteRec) : Bool :=
  let r := (s.ctx w.ctx).run
  !(r.live && decide (r.launch = w.launch ∧ r.wst = .run) && !r.spawned && decide (w.step = some r.cur))

/-- Where a written-back line goes (R260): the die of its consumer if that is this one, else its home. -/
def WriteRec.backTo (s : State) (w : WriteRec) : Nat := if w.consumer s = some w.die then w.die else w.home

/-- The sets of the steps whose consumers have been placed are written back (R260, R318). -/
def placeSteps (s : State) : State :=
  settle (writeBackTo s (WriteRec.backTo s) (fun w => (w.consumer s).isSome && w.stepOver s))

/-- A range of a launch is placed on a die (R318). -/
def notePlaced (s : State) (l lo hi die : Nat) : State :=
  let (n, s1) := takeId s
  let x := s1.launch l
  placeSteps (s1.setLaunch l { x with placed := x.placed ++ [(n, lo, hi, die)] })

/-- The stash entries of a context that hold one of `n` blocks from an address (R205). -/
def stashHits (c : Ctx) (va : W64) (n : Nat) : List Nat :=
  (c.tiles.stash.filter (fun p => decide (p.2.space = c.run.space)
    && decide (va.toNat / 4096 ≤ p.2.va.toNat / 4096) && decide (p.2.va.toNat / 4096 < va.toNat / 4096 + n))).map (·.1)

/-- One effect of a word at the end of its bundle; the control effects come last and are not here. -/
def endFx (s : State) (fx : EndFx) : State :=
  let c := s.my
  match fx with
  | .reserve q e => s.setMy { c with q := { c.q with lq := fset c.q.lq q (fget [] c.q.lq q ++ [e]) } }
  | .mts n v => mtsEffect s n v
  | .spill id e => s.setMy (c.putSpill id e)
  | .filled id =>
    match fget? c.q.spill id with
    | some e => if asked c (fun fx => match fx with | .spill i _ => decide (i = id) | _ => false) then s
      else s.setMy (c.putSpill id { e with filled := true })
    | none => s
  | .stride b r l v =>
    if b then s.setMy { c with regs := { c.regs with sb := fset c.regs.sb (8 * r + l) v } }
    else s.setMy { c with regs := { c.regs with sa := fset c.regs.sa (8 * r + l) v } }
  | .tfree slot => s.setMy { c with tiles := { c.tiles with slot := fset c.tiles.slot slot .empty } }
  | .smap idx n va => bindStash (stashRelease s s.me (fun i => decide (idx ≤ i ∧ i < idx + n))) idx n va
  | .sinv va n discard =>
    let hits := stashHits c va n
    let s1 := if discard then stashDiscard s s.me hits.contains else stashRelease s s.me hits.contains
    let c1 := s1.my
    s1.setMy { c1 with tiles := { c1.tiles with stash := c1.tiles.stash.filter (fun p => !hits.contains p.1) } }
  | .oob a =>
    if c.ctr.oobflag then s else s.setMy { c with ctr := { c.ctr with oobaddr := a, oobflag := true } }
  | .pbar after =>
    if after = [] then pbarDone s s.me c.ctr.msord c.run.cur
    else s.setMy { c with per := { c.per with wait := after, armed := true, msord := c.ctr.msord, cur := c.run.cur } }
  | .yield =>
    let x := s.core c.run.lcore
    s.setCore c.run.lcore { x with want := some c.run.bank }
  | _ => s

/-- The address that follows the bundle in issue where no branch fixed one: a loop end, a skipped or opened loop, or the
next address (R32 to R34). A first delay bundle that is also the last bundle of an active body, which a branch from outside can
make it, is followed by the loop start (DESIGN CHOICE, log entry 103). -/
def followAddr (c : Ctx) : W64 :=
  match (loopEndOf c).2.2 with
  | some a => a
  | none =>
    match c.iss.fx.findSome? (fun fx => match fx with | .loopSkip a => some a | _ => none) with
    | some a => a
    | none => c.flow.npc0 + BitVec.ofNat 64 (4 * c.iss.len)

/-- The chain, the delay positions and the loop stack after the bundle (R29 to R36). -/
def nextFlow (c : Ctx) : Flow :=
  let opened := c.iss.fx.filterMap (fun fx => match fx with | .loopOpen _ l => some l | _ => none)
  let n0 := if c.flow.npc1 = 1 then followAddr c else c.flow.npc1
  let f := { c.flow with
    npc0 := n0, npc1 := c.flow.npc2, npc2 := 1
    loops := (loopEndOf c).2.1 ++ opened
    framed := false, framing := 0, holding := false, barHeld := 0, idle := false, wake := false }
  match c.iss.br with
  | some b =>
    { f with
      npc1 := 1
      npc2 := match b.target with | some t => t | none => 1
      delay := 2, braddr := c.flow.npc0, bubnext := if b.bubble then 2 else 0 }
  | none =>
    if c.flow.delay = 1 then { f with delay := 0, bubble := c.flow.bubnext, bubnext := 0 }
    else { f with delay := c.flow.delay - 1 }

/-- FRAME after a seat cycle: it counts at program level, and `frame` sets it to 0 (R129, R315). -/
def nextFrame (c : Ctx) : W64 :=
  if asked c (fun fx => fx == .frame) then 0 else if c.lvl = 0 then c.ctr.frame + 1 else c.ctr.frame

/-- MSORD after a bundle: a milestone header counts at program level (R52). -/
def nextMsord (c : Ctx) : W64 :=
  if hdrForm c.iss.hdr = 2 ∧ c.lvl = 0 then c.ctr.msord + 1 else c.ctr.msord

/-- The spill map after a bundle that did or did not spill: the run of spilling bundles of its level ends with a bundle that
does not spill, and a run of a higher level with any bundle (R43, R121; log entry 81). -/
def nextBursts (lvl : Nat) (spilled : Bool) (m : FMap SpillEntry) : FMap SpillEntry :=
  m.map (fun (p : Nat × SpillEntry) => (p.1, { p.2 with burst := p.2.burst.filter (fun l => decide (l < lvl) || (spilled && decide (l = lvl))) }))

/-- The hardware updates of a seat cycle, which come after the writes of `mts` (R122): SRSTATE by its uses, FRAME,
MSORD, the run of spilling bundles (R43), WATCHM.SKIP (R392), the register schedule and the chain. A suppressed last bundle of a
body whose loop-end stride meets an earlier pending write of the same C register in its landing cycle does not trap: R19 would
have it trap, R45 rules a trap of stage 3 out, and the register becomes its old value plus the stride (DESIGN CHOICE, log
entry 102). -/
def seatCycle (old c : Ctx) : Ctx :=
  let spilled := asked old (fun fx => match fx with | .spill _ _ => true | _ => false)
  let c1 := { c with
    ctr := { c.ctr with
      srstate := c.ctr.srstate + BitVec.ofNat 64 old.iss.sruses
      frame := nextFrame old
      msord := nextMsord old
      watchm := if old.lvl = 0 ∧ bit old.ctr.watchm 23 then putFld c.ctr.watchm 23 (0 : BitVec 1) else c.ctr.watchm }
    q := { c.q with spill := nextBursts old.lvl spilled c.q.spill } }
  let c2 := ({ c1 with regs := (duePend old.pend ++ loopPends old).foldl landOne c1.regs }).setPend (laterPend old.pend)
  { c2 with flow := { nextFlow old with pend0 := c2.flow.pend0, pend1 := c2.flow.pend1, pend2 := c2.flow.pend2 } }

/-- Every pending write of the level lands: the words of a `tret` or `exit` bundle complete at their level (R125, R127;
log entry 14). -/
def landAll (c : Ctx) : Ctx := ({ c with regs := c.pend.foldl landOne c.regs }).setPend []

/-- The delay positions that a chain shows (R32; log entry 10). -/
def chainDelay (c1 c2 : W64) : Nat := if c2 ≠ 1 then 2 else if c1 ≠ 1 then 1 else 0

/-- RETURN FROM A LEVEL (R125): STATUS and the chain come back, and the frozen writes of the resumed level with them. -/
def returnLevel (c : Ctx) : Ctx :=
  let c := landAll c
  let h := decide (c.lvl = 1)
  let n1 := if h then c.sys.epc1 else c.sys.fepc1
  let n2 := if h then c.sys.epc2 else c.sys.fepc2
  { c with
    sys := { c.sys with status := tretStatus c }
    flow := { c.flow with
      npc0 := if h then c.sys.epc0 else c.sys.fepc0
      npc1 := n1, npc2 := n2, delay := chainDelay n1 n2, bubble := 0, bubnext := 0 } }

/-- The commands that a watched byte held go on when the handler that took the report returns (R394). -/
def freeWatched (c : Ctx) : Ctx :=
  { c with cmds := c.cmds.map (fun x => if x.watch = 2 ∧ x.lvl = c.lvl then { x with watch := 0 } else x) }

/-- Entry of firmware level by `fwcall`, after its bundle (R126). -/
def enterCall (c : Ctx) (service : W64) : Ctx :=
  { c with
    sys := { c.sys with
      fstatus := c.sys.status, fcause := 0, fval := service
      fepc0 := c.flow.npc0, fepc1 := c.flow.npc1, fepc2 := c.flow.npc2
      status := putFld c.sys.status 0 (2 : BitVec 2) }
    flow := { c.flow with npc0 := c.sys.ftvec, npc1 := 1, npc2 := 1, delay := 0, bubble := 0, bubnext := 0 } }

/-- The end of a tile step (R127): queues, deferral entries, spilled values and loops go; the walker advances and its
step is counted completed; a spawned context only ends (R40, R305). -/
def endStep (s : State) (k : Nat) : State :=
  let c := landAll (s.ctx k)
  let more := decide (c.run.cur + 1 < c.run.hi)
  let c1 := { c with
    q := { c.q with lq := [], sq := [], defer := [], spill := [] }
    flow := { c.flow with
      npc0 := if c.run.spawned then c.flow.npc0 else (s.launch c.run.launch).rec_.entry
      loops := [], npc1 := 1, npc2 := 1, delay := 0, bubble := 0, bubnext := 0 }
    run := if c.run.spawned then { c.run with ending := true }
      else { c.run with cur := c.run.cur + 1, wst := if more then .enter else .none } }
  let s1 := s.setCtx k c1
  if c.run.spawned then s1 else placeSteps (doneUnits s1 c.run.launch 1)

/-- The control effects of the bundle's S word, after everything else: `exit`, `tret` or `fwcall`. -/
def controlFx (s : State) (fx : List EndFx) : State :=
  fx.foldl (fun s f => match f with
    | .exit => endStep s s.me
    | .tret =>
      if tretOk s.my (tretStatus s.my) then s.setMy (freeWatched (returnLevel s.my))
      else haltCtx s s.me 0x15
    | .fwcall v => s.setMy (enterCall s.my v)
    | _ => s) s

/-- A debug step ends when its bundle has issued (R336). -/
def stepDone (c : Ctx) : Ctx := if c.dbg.st = 4 then { c with dbg := { c.dbg with st := 3 } } else c

/-- The bundle as a stop of its launch sees it (R52, R333): whether it was a milestone at program level, with its cut number,
and the freeze at the target. -/
def cutStop (s : State) (old c : Ctx) : Ctx :=
  let mile := decide (hdrForm old.iss.hdr = 2) && decide (old.lvl = 0)
  let d := { c.dbg with mile := mile, cut := if mile then fld old.iss.hdr 0 9 else c.dbg.cut }
  match (s.launch c.run.launch).stopping with
  | some (some T) => if mile ∧ c.ctr.msord = T then { c with dbg := { d with st := 3, at_ := true } } else { c with dbg := d }
  | _ => { c with dbg := d }

/-- The remote registration of a seat (R392, R395): held at program level while REM and WEN are set, one of 64 of the device;
NOREM says that none was free. -/
def updateRemote (s : State) (k : Nat) : State :=
  let c := s.ctx k
  let wants := c.run.live && decide (c.lvl = 0) && c.wen && bit c.ctr.watchm 19
  let free := decide ((s.ctxs.filter (fun p => p.2.remote && decide (p.1 ≠ k))).length < 64)
  s.setCtx k { c with
    remote := wants && (c.remote || free)
    ctr := { c.ctr with watchm := putFld c.ctr.watchm 20 (BitVec.ofNat 1 (b2n (wants && !(c.remote || free)))) } }

/-- The bundle may have changed what the registration depends on. -/
def touchesRemote (old : Ctx) : Bool :=
  asked old (fun fx => match fx with | .mts 0x049 _ | .tret | .exit | .fwcall _ => true | _ => false)

/-- The loop levels that the end of a bundle leaves (R34, R36, R387). -/
def leftLevels (old : Ctx) : List Nat :=
  let n := (loopEndOf old).2.1.length
  (List.range old.flow.loops.length).filter (fun l => decide (n ≤ l))

/-- FINISH: the end of a bundle that issues, from the state its words left. -/
def finishBundle (s : State) (mask : BitVec 8) : State :=
  let old := s.my
  let s1 := s.setMy { old with q := { old.q with lq := popAll mask old.q.lq } }
  let s2 := old.iss.fx.foldl endFx s1
  let s3 := s2.setMy (seatCycle old s2.my)
  let s4 := controlFx s3 old.iss.fx
  let s5 := s4.setMy (cutStop s4 old { stepDone s4.my with iss := {} })
  let s5 := if touchesRemote old then updateRemote s5 s5.me else s5
  let s6 := (leftLevels old).foldl (fun s l => lostSnapshot s s.me l) s5
  if old.flow.barHeld = 0 then s6
  else sample s6 (dieOf old.run.lcore) 9 (fromCtx s6 s6.me) (BitVec.ofNat 64 old.flow.barHeld)

end Sys2Proof.Machine
end

