-- ==== Sys2Proof/Machine/Launching.lean ====
section
/-! DEFINITION. Launches and walkers (R302, R305, R306, R310, R311): the routes, cancelling, and the counters. -/
namespace Sys2Proof.Machine

/-- Coordinates of a linear index in row-major order, dimension 0 first (R302). -/
def rowMajor (exts : List Nat) (i : Nat) : List Nat :=
  (exts.foldr (fun e (p : Nat × List Nat) => (p.1 / e, p.1 % e :: p.2)) (i, [])).2

/-- Coordinates in column-major order (R302). -/
def colMajor : (exts : List Nat) → Nat → List Nat
  | [], _ => []
  | e :: es, i => i % e :: colMajor es (i / e)

/-- Row-major with the last coordinate reversed on odd rows (R302). -/
def serpentine (exts : List Nat) (i : Nat) : List Nat :=
  let c := rowMajor exts i
  let e := exts.getLastD 1
  if 2 ≤ exts.length ∧ i / e % 2 = 1 then c.dropLast ++ [e - 1 - c.getLastD 0] else c

/-- The points of an a by b rectangle, a rows, inside the square of side 2^n at column x and row y. -/
def boxCount (n x y a b : Nat) : Nat := (min (x + 2 ^ n) b - min x b) * (min (y + 2 ^ n) a - min y a)

/-- The point of rank m in ascending key order within the square of side 2^n at (x, y); (row, column) (R302). -/
def mortonAt (a b : Nat) : (n : Nat) → (x y m : Nat) → Nat × Nat
  | 0, x, y, _ => (y, x)
  | n + 1, x, y, m =>
    let h := 2 ^ n
    let c0 := boxCount n x y a b
    let c1 := boxCount n (x + h) y a b
    let c2 := boxCount n x (y + h) a b
    if m < c0 then mortonAt a b n x y m
    else if m < c0 + c1 then mortonAt a b n (x + h) y (m - c0)
    else if m < c0 + c1 + c2 then mortonAt a b n x (y + h) (m - c0 - c1)
    else mortonAt a b n (x + h) (y + h) (m - c0 - c1 - c2)

/-- The Morton route over the last two dimensions (R302). -/
def morton (exts : List Nat) (i : Nat) : List Nat :=
  let lead := exts.take (exts.length - 2)
  let a := exts.getD (exts.length - 2) 1
  let b := exts.getD (exts.length - 1) 1
  let p := mortonAt a b 32 0 0 (i % (a * b))
  rowMajor lead (i / (a * b)) ++ [p.1, p.2]

/-- The coordinates of a linear index of a launch (R302). -/
def coords (r : LaunchRec) (i : Nat) : List Nat :=
  match r.route with
  | 0 => rowMajor r.exts i
  | 1 => colMajor r.exts i
  | 2 => morton r.exts i
  | _ => serpentine r.exts i

/-- The launches that exist, by identifier. -/
def launchIds (s : State) : List Nat := s.dev.launches.map (·.1)

/-- A launch accepted and not ended (R310). -/
def Launch.alive (l : Launch) : Bool :=
  match l.st with
  | .ended _ => false
  | _ => true

/-- Units not yet started in the pools of a launch. -/
def poolUnits (l : Launch) : Nat :=
  (l.pools.map (fun p => (p.b - p.a) + (p.static.map (fun r => r.2.2 - r.2.1)).sum)).sum

/-- Every walker of a cancelled launch keeps only the step it is at (R305). -/
def cutWalkers (s : State) (l : Nat) : State :=
  s.ctxs.foldl (fun s p =>
    let c := s.ctx p.1
    if c.run.launch = l ∧ c.run.live = true ∧ c.run.wst ≠ .none ∧ c.run.cur + 1 < c.run.hi then
      failUnits (s.setCtx p.1 { c with run := { c.run with hi := c.run.cur + 1 } }) l (c.run.hi - (c.run.cur + 1))
    else s) s

/-- A launch leaves its queue. -/
def unqueue (s : State) (l : Nat) : State :=
  { s with dev := { s.dev with
      queues := s.dev.queues.map (fun (p : Nat × List Nat) => (p.1, p.2.filter (fun x => decide (x ≠ l)))) } }

/-- The held writes of the contexts of a stopped launch are discarded: they go on without their bytes (R337). -/
def discardHeld (s : State) (l : Nat) : State :=
  if (s.launch l).stopped then
    { s with writes := s.writes.map (fun w => if heldByStop s w && decide ((s.ctx w.ctx).run.launch = l) && !w.performedAt 3 then { w with cells := [] } else w) }
  else s

/-- A launch is cancelled (R311): a running one gives up its pools and what its walkers have not entered; a queued one is
removed with all its units counted failed. -/
def cancelLaunch (s : State) (l : Nat) : State :=
  let x := s.launch l
  if !x.alive || x.cancelled then s
  else
    match x.st with
    | .queued =>
      unqueue (s.setLaunch l { x with cancelled := true, pools := [], failed := BitVec.ofNat 64 x.rec_.n }) l
    | _ =>
      let s1 := discardHeld s l
      let none_ := x.pools.map (fun p => { p with a := p.b, static := [] })
      cutWalkers (failUnits (s1.setLaunch l { x with cancelled := true, pools := none_, stopping := none, stopped := false }) l
        (poolUnits x)) l

/-- The live launches that an identifier of a level names (R310, R311): 0 launch, 1 graph, 2 phase, 3 job. -/
def namedLaunches (s : State) (level ident : Nat) : List Nat :=
  (launchIds s).filter (fun l =>
    let r := (s.launch l).rec_
    (s.launch l).alive &&
      (match level with
       | 0 => decide (l = ident)
       | 1 => decide (ident ≠ 0 ∧ r.graph = ident)
       | 2 => decide (ident ≠ 0 ∧ r.phase = ident)
       | _ => decide (ident ≠ 0 ∧ r.job = ident)))

/-- `cancel` of an item (R208, R311). -/
def cancelItem (s : State) (level ident : Nat) : State := (namedLaunches s level ident).foldl cancelLaunch s

/-- A completion counter (R209, R310). -/
def countOf (s : State) (level ident : Nat) (failed : Bool) : W64 :=
  if level = 0 then
    (match fget? s.dev.launches ident with
     | some l => if failed then l.failed else l.done
     | none => 0)
  else
    match s.dev.counts.find? (fun p => decide (p.1 = level ∧ p.2.1 = ident)) with
    | some (_, _, d, f) => if failed then f else d
    | none => 0

end Sys2Proof.Machine
end

