-- ==== Sys2Proof/Machine/MemEvents.lean ====
section
/-! DEFINITION. The memory events (R176 to R187, R259 to R282): arrivals, stage passes, completions and persistence. An event
that is not enabled changes nothing (log entry 4). -/
namespace Sys2Proof.Machine

/-- The barrier of a home core (R164). -/
def barrierOf (s : State) (home bar : Nat) : Barrier := fget {} (s.core home).bars bar

/-- The word `bar.tst` returns (R167). -/
def barTstWord (s : State) (k home bar scope : Nat) : W64 :=
  let b := barrierOf s home bar
  let c := s.ctx k
  let moved := match c.bar with
    | some r => decide (r.home = home ∧ r.bar = bar ∧ r.scope = scope ∧ r.pending = false ∧ c.barPhase ≠ r.phase)
    | none => false
  BitVec.ofNat 64 (b.phase % 2 ^ 16 + 2 ^ 16 * (b.count % 2 ^ 11) + 2 ^ 27 * (b.n % 2 ^ 11) + 2 ^ 62 * b2n b.init
    + 2 ^ 63 * b2n moved)

/-- The Alvel link is not ready (R351, R362). -/
def linkDown (s : State) : Bool := !linkReady s

/-- A load, an atomic or an answer arrives in its queue (R22, R167, R176, R183, R207, R209). -/
def execLoadQueueArrival (id : Nat) (s : State) : Host.Outcome State Fault Refusal :=
  match s.loads.find? (fun l => decide (l.id = id)) with
  | none => .next s
  | some l =>
    if !mayRead s l then .next s
    else if l.host && linkDown s then .next (arriveEntry (abortLink s l.core (loadKey l) l.va 0) l .faulted 0 l.va)
    else
      match l.kind with
      | .read cells sext => .next (performRead s l cells sext)
      | .atomic _ none _ _ _ => .next (arriveEntry s l .arrived 0 0)
      | .atomic op (some key) leaf v e =>
        if s.writes.any (atomicFlush l) then .next (settle (writeBack s (atomicFlush l)))
        else if mayAtomic s l key leaf then .next (performAtomic s l op key leaf v e) else .next s
      | .barTst core bar scope => .next (arriveEntry s l .arrived (wide64 (barTstWord s l.ctx core bar scope)) 0)
      | .enq _ _ => .next s
      | .ctl off n sext => .next (arriveEntry s l .arrived (wide64 (ctlValue s l.die off n sext)) 0)
      | .answer v => .next (arriveEntry s l .arrived (wide64 v) 0)
      | .cnt ident level failed => .next (arriveEntry s l .arrived (wide64 (countOf s level ident.toNat failed)) 0)

/-- A write passes the next of its stages: core, quad, die (R264, R266, R270); one to a host-bias page is lost at its die stage
while the Alvel link is not ready (R351). -/
def execWriteStagePass (id : Nat) (s : State) : Host.Outcome State Fault Refusal :=
  match writeOf s id with
  | some w =>
    if !mayPass s w then .next s
    else if w.host && decide (w.stage = 2) && linkDown s && w.bad.isNone then
      .next (passStage (abortLink (putWrite s w.lost) w.core (w.keys.headD 0) w.va w.seq) w.lost)
    else .next (passStage s w)
  | none => .next s

/-- A die applies a write that passed die stage on another (R265). -/
def execCrossDieApply (id die : Nat) (s : State) : Host.Outcome State Fault Refusal :=
  match writeOf s id with
  | some w => if mayApply s w die then .next (applyOn s w die) else .next s
  | none => .next s

/-- The records of one store (R174, R179). -/
def storeGroup (s : State) (w : WriteRec) : List WriteRec :=
  s.writes.filter (fun x => x.store && decide (x.ctx = w.ctx) && decide (x.seq = w.seq))

/-- A store's write is performed at the point of coherence of its home (R179, R276); a line held dirty in the stash of its own
home die counts as performed (log entries 24 and 90). -/
def storeDone (w : WriteRec) : Bool :=
  decide (4 ≤ w.stage) || (decide (w.stage = 3)
    && (if w.stash.isSome then decide (w.home = w.die) else w.applied.toNat.testBit w.home))

/-- The report of a store that met an uncorrectable error (R174). -/
def storeReport (w : WriteRec) (a : W64) : Report :=
  { cause := 0x17, status := 2, kind := 7, lvl := w.lvl, seq := w.seq, pc := w.pc, detail := a, bytes := 0 }

/-- A store completes: st falls by one (R28, R174, R179). -/
def execStoreCompletion (id : Nat) (s : State) : Host.Outcome State Fault Refusal :=
  match writeOf s id with
  | none => .next s
  | some w =>
    let g := storeGroup s w
    if w.store && g.all storeDone then
      let c := s.ctx w.ctx
      let s1 := s.setCtx w.ctx { c with q := { c.q with st := c.q.st - 1 } }
      let s2 := { s1 with
        writes := s1.writes.map (fun x =>
          if x.store && decide (x.ctx = w.ctx) && decide (x.seq = w.seq) then { x with store := false } else x) }
      let s3 := match g.findSome? (fun x => x.bad) with
        | some a => addReport s2 w.ctx (storeReport w a)
        | none => s2
      .next (settle (wake (sampleFor s3 w.ctx 2 w.t0) w.ctx))
    else .next s

/-- A durable write may reach the persist domain: earlier writes of its granules have, and, for a cuff, every other write of
its command (R279, R280). -/
def mayPersist (s : State) (w : WriteRec) : Bool :=
  let gs := w.keys.map (· / 64)
  s.dev.powered && w.durable && !w.persisted && decide (3 ≤ w.stage) && w.applied.toNat.testBit w.home
    && s.writes.all (fun x => decide (x.id = w.id) || !x.durable || x.persisted
        || decide (w.place ≤ x.place) || !meet (x.keys.map (· / 64)) gs)
    && (!w.last || (cmdWrites s w.ctx w.seq.toNat).all (fun x => decide (x.id = w.id) || x.persisted))

/-- A durable write reaches the persist domain (R279, R280). -/
def execPersistArrival (id : Nat) (s : State) : Host.Outcome State Fault Refusal :=
  match writeOf s id with
  | some w =>
    if mayPersist s w then
      .next (settle (putWrite { s with nv := memWriteCells s.nv w.cells } { w with persisted := true }))
    else .next s
  | none => .next s

/-- A `pbar` whose bundle has issued completes once the write of C0 has persisted (R187). -/
def execPbarCompletion (ctx : Nat) (s : State) : Host.Outcome State Fault Refusal :=
  let c := s.ctx ctx
  if s.dev.powered && c.per.armed && c.per.wait.all (needMet s ctx 0) then .next (pbarDone s ctx c.per.msord c.per.cur) else .next s

/-- The dirty lines of a stash entry are written back, each to where R260 sends it; it may come at any time, since it changes
nothing that an agent reads but only when other dies see it (R259, R260, R292; log entry 90). -/
def execStashWriteback (ctx index : Nat) (s : State) : Host.Outcome State Fault Refusal :=
  .next (settle (writeBackTo s (WriteRec.backTo s) (fun w => decide (w.stash = some (ctx, index)))))

/-- The command of a context with a sequence number. -/
def cmdOf (s : State) (k : Nat) (seq : W32) : Option Cmd := (s.ctx k).cmds.find? (fun c => decide (c.seq = seq))

/-- A command replaced by its next state. -/
def putCmd (s : State) (k : Nat) (x : Cmd) : State :=
  let c := s.ctx k
  s.setCtx k { c with cmds := c.cmds.map (fun y => if y.seq = x.seq then x else y) }

/-- The path's KIND in a report (R325). -/
def kindOf (x : Cmd) : Nat :=
  match x.path with
  | 1 => x.slot + 1
  | 2 => 3
  | 3 => 4
  | 4 => 5
  | _ => 6

/-- The cause of a failed command (R174). -/
def causeOf (status : Nat) : TrapCode := if status = 3 then 0x14 else 0x17

/-- A command completes (R174): it leaves, its counter falls, and a failure gives one report. -/
def endCmd (s : State) (k : Nat) (x : Cmd) : State :=
  let c := s.ctx k
  let s1 := s.setCtx k { c with
    cmds := c.cmds.filter (fun y => decide (y.seq ≠ x.seq))
    q := { c.q with
      tl := if x.counted = 0 then c.q.tl - 1 else c.q.tl
      cp := if x.counted = 0 then c.q.cp else c.q.cp - 1 } }
  let r : Report :=
    { cause := causeOf x.status, status := x.status, kind := kindOf x, lvl := x.lvl, seq := x.seq, pc := x.pc,
      detail := x.detail, bytes := x.prefixBytes }
  let s2 := if x.status = 0 then s1 else addReport s1 k r
  let src := match x.path with | 1 => 3 | 3 => 6 | 4 => 5 | _ => 0
  wake (if src = 0 then s2 else sampleFor s2 k src x.t0) k

/-- The first block of a `swb` that a mapped entry holds and whose page fails the check, with its status (R174, R205). -/
def swbFault (s : State) (k : Nat) (x : Cmd) (hits : List Nat) : Option (Nat × W64) :=
  let c := s.ctx k
  (hits.filterMap (fun i => (fget? c.tiles.stash i).map (·.va))).findSome? (fun a =>
    match xlate s c.run.lcore c.run.space a { w := true, lvl := x.lvl } with
    | .ok _ => none
    | .error (.code 0x08) => some (5, a)
    | .error (.code 0x13) => some (2, a)
    | .error _ => some (4, a))

/-- `swb` completes when the lines are visible at device scope, or fails (R174, R205): its dirty lines go, then it ends. -/
def execSwbCompletion (ctx : Nat) (seq : W32) (s : State) : Host.Outcome State Fault Refusal :=
  match cmdOf s ctx seq with
  | none => .next s
  | some x =>
    match x.op with
    | .swb va n =>
      let hits := stashHits (s.ctx ctx) va n
      let mine := fun (w : WriteRec) => match w.stash with
        | some (k, i) => decide (k = ctx) && hits.contains i
        | none => false
      if x.done = 0 then
        if !needsMet s ctx 0 x.needs then .next s
        else
          match swbFault s ctx x hits with
          | some (st, a) => .next (endCmd s ctx { x with status := st, detail := a })
          | none =>
            let ids := (s.writes.filter mine).map (·.id)
            .next (settle (writeBack (putCmd s ctx { x with done := 1, writes := ids }) mine))
      else if x.writes.all (fun i => s.writes.all (fun w => decide (w.id ≠ i) || w.performedAt 3)) then
        .next (endCmd s ctx x)
      else .next s
    | _ => .next s

end Sys2Proof.Machine
end

