-- ==== Sys2Proof/Machine/BarEvents.lean ====
section
/-! DEFINITION. The messages of named barriers (R164 to R168). -/
namespace Sys2Proof.Machine

/-- The name of a barrier message. -/
def BarMsg.id : BarMsg → Nat
  | .init i _ _ _ _ _ | .arrive i _ _ _ _ _ | .reply i _ _ _ _ _ _ _ _ _ | .complete i _ _ _ _ _ => i

/-- The home of a barrier message. -/
def BarMsg.home : BarMsg → Nat
  | .init _ h _ _ _ _ | .arrive _ h _ _ _ _ | .reply _ _ h _ _ _ _ _ _ _ | .complete _ _ h _ _ _ => h

/-- The seat that a message comes from or goes to. -/
def BarMsg.seat : BarMsg → Nat
  | .init _ _ _ _ _ k | .arrive _ _ _ _ k _ | .reply _ k _ _ _ _ _ _ _ _ | .complete _ k _ _ _ _ => k

/-- A message toward a home. -/
def BarMsg.inward : BarMsg → Bool
  | .init _ _ _ _ _ _ | .arrive _ _ _ _ _ _ => true
  | _ => false

/-- An initialisation message. -/
def BarMsg.isInit : BarMsg → Bool
  | .init _ _ _ _ _ _ => true
  | _ => false

/-- The barrier message with a name. -/
def barMsg (s : State) (id : Nat) : Option BarMsg := s.bmsgs.find? (fun m => decide (m.id = id))

/-- A barrier message taken from the network. -/
def takeBar (s : State) (id : Nat) : State := { s with bmsgs := s.bmsgs.filter (fun m => decide (m.id ≠ id)) }

/-- The scope of a message toward a home. -/
def BarMsg.scope : BarMsg → Nat
  | .init _ _ _ s _ _ | .arrive _ _ _ s _ _ | .reply _ _ _ _ s _ _ _ _ _ => s
  | .complete _ _ _ _ _ _ => 0

/-- A message that left its seat when it was made: an arrival with nothing to wait for, an initialisation. -/
def BarMsg.atOnce : BarMsg → Bool
  | .arrive _ _ _ _ _ needs => needs.isEmpty
  | _ => true

/-- No earlier message goes before this one: between the same home and seat replies and completions keep their order, an arrival
follows every earlier message, an initialisation every earlier one; from two seats at one scope they reach a home in the order in
which they left (R164, R166, R364; log entry 108). -/
def barFirst (s : State) (m : BarMsg) : Bool :=
  s.bmsgs.all (fun x => decide (m.id ≤ x.id) || decide (x.home ≠ m.home) || (x.inward != m.inward)
    || (if x.seat = m.seat then m.isInit && !x.isInit else !(m.inward && x.atOnce && decide (x.scope = m.scope))))

/-- A barrier of a home core set. -/
def setBarrier (s : State) (home bar : Nat) (b : Barrier) : State :=
  let x := s.core home
  s.setCore home { x with bars := fset x.bars bar b }

/-- The seats of a core are woken from `idle` by a completed phase (R128). -/
def wakeCore (s : State) (core : Nat) : State := wake (wake s (s.bankOf core 0)) (s.bankOf core 1)

/-- `bar.init` reaches the home (R165, R168). -/
def execBarrierInitMessage (id : Nat) (s : State) : Host.Outcome State Fault Refusal :=
  match barMsg s id with
  | some (.init _ home bar scope n k) =>
    if !barFirst s (.init id home bar scope n k) then .next s
    else
      let s1 := takeBar s id
      let b := barrierOf s home bar
      if n < 1 ∨ 2047 < n then .next (sendBar s1 (.reply s1.nextId k home bar scope id (some (barTval bar scope 3)) 0 0 []))
      else if b.count ≠ 0 then .next (sendBar s1 (.reply s1.nextId k home bar scope id (some (barTval bar scope 2)) 0 0 []))
      else .next (setBarrier s1 home bar { init := true, n := n })
  | _ => .next s

/-- `bar.arr` leaves its seat once its stores are visible, and is counted at the home (R166). -/
def execBarrierArrivalMessage (id : Nat) (s : State) : Host.Outcome State Fault Refusal :=
  match barMsg s id with
  | some (.arrive _ home bar scope k needs) =>
    if !barFirst s (.arrive id home bar scope k needs) || !needsMet s k 3 needs then .next s
    else
      let s1 := takeBar s id
      let b := barrierOf s home bar
      if !b.init then .next (sendBar s1 (.reply s1.nextId k home bar scope id (some (barTval bar scope 1)) 0 0 []))
      else if b.count + 1 = b.n then
        let q := (b.phase + 1) % 2 ^ 16
        let all := inFlight s (b.obs ++ needs.map (·.id)).eraseDups
        let s2 := setBarrier s1 home bar { b with count := 0, phase := q, arrived := [], obs := [] }
        let s3 := sendBar s2 (.reply s2.nextId k home bar scope id none b.phase q all)
        .next (wakeCore ((b.arrived.filter (fun x => decide (x ≠ k))).foldl
          (fun s x => sendBar s (.complete s.nextId x home bar q all)) s3) home)
      else
        let s2 := setBarrier s1 home bar { b with
          count := b.count + 1, arrived := (b.arrived ++ [k]).eraseDups, obs := inFlight s (b.obs ++ needs.map (·.id)).eraseDups }
        .next (sendBar s2 (.reply s2.nextId k home bar scope id none b.phase b.phase []))
  | _ => .next s

/-- The record of a context names a barrier. -/
def recordNames (c : Ctx) (home bar : Nat) : Bool :=
  match c.bar with
  | some r => decide (r.home = home ∧ r.bar = bar)
  | none => false

/-- A phase becomes known to a seat, with the writes that the arrivals of the phase before it have ordered (R166, R273). -/
def phaseSeen (c : Ctx) (phase : Nat) (obs : List Nat) : Ctx :=
  { c with barPhase := phase, bar := c.bar.map (fun r => { r with obs := (r.obs ++ obs).eraseDups }) }

/-- The home's reply reaches the seat (R166, R168). -/
def execBarrierReply (id : Nat) (s : State) : Host.Outcome State Fault Refusal :=
  match barMsg s id with
  | some (.reply _ k home bar scope arr fault p q obs) =>
    if !barFirst s (.reply id k home bar scope arr fault p q obs) then .next s
    else
      let s1 := takeBar s id
      let c := s1.ctx k
      let latest := match c.bar with | some r => decide (r.arr = arr) | none => false
      match fault with
      | some t =>
        .next (s1.setCtx k { c with
          barFault := match c.barFault with | some u => some u | none => some t
          bar := if latest then none else c.bar })
      | none =>
        let c1 := if recordNames c home bar then phaseSeen c q obs else c
        let c2 := if latest then { c1 with bar := c1.bar.map (fun r => { r with phase := p, pending := false }) } else c1
        .next (if p = q then s1.setCtx k c2 else wake (s1.setCtx k c2) k)
  | _ => .next s

/-- The completion of a phase reaches a seat that arrived in it (R166). -/
def execBarrierCompletionMessage (id : Nat) (s : State) : Host.Outcome State Fault Refusal :=
  match barMsg s id with
  | some (.complete _ k home bar phase obs) =>
    if !barFirst s (.complete id k home bar phase obs) then .next s
    else
      let s1 := takeBar s id
      let c := s1.ctx k
      .next (wake (s1.setCtx k (if recordNames c home bar then phaseSeen c phase obs else c)) k)
  | _ => .next s

end Sys2Proof.Machine
end

