-- ==== Sys2Proof/Machine/Loads.lean ====
section
/-! DEFINITION. The access words of the copy slots (R176 to R187) and the address-register words (R210). -/
namespace Sys2Proof.Machine

/-- A register-and-displacement load (R176). -/
def ldWord (sl : CSlot) (base : BitVec 4) (q : BitVec 3) (disp : BitVec 14) (n align sext : Nat) (s : State) : Res State :=
  startLoad s (CSlot.cls sl) q.toNat align sext
    ((unitsOf (rdC s.my sl base.toNat + disp.signExtend 64) n).map (fun u => (some u.1, u.2)))

/-- `cnop` (R173). -/
def doCnop (_sl : CSlot) (s : State) : Res State :=
  .ok s

/-- `cnop` run by itself: its effect settled as `complete` says. -/
def execCnop (sl : CSlot) (s : State) : Host.Outcome State Fault Refusal := complete s (doCnop sl s)

/-- `ldi8` (R176). -/
def doLdi8 (sl : CSlot) (base : BitVec 4) (q : BitVec 3) (disp : BitVec 14) (s : State) : Res State :=
  ldWord sl base q disp 1 1 8 s

/-- `ldi8` run by itself: its effect settled as `complete` says. -/
def execLdi8 (sl : CSlot) (base : BitVec 4) (q : BitVec 3) (disp : BitVec 14) (s : State) : Host.Outcome State Fault Refusal := complete s (doLdi8 sl base q disp s)

/-- `ldn8` (R176). -/
def doLdn8 (sl : CSlot) (base : BitVec 4) (q : BitVec 3) (disp : BitVec 14) (s : State) : Res State :=
  ldWord sl base q disp 1 1 0 s

/-- `ldn8` run by itself: its effect settled as `complete` says. -/
def execLdn8 (sl : CSlot) (base : BitVec 4) (q : BitVec 3) (disp : BitVec 14) (s : State) : Host.Outcome State Fault Refusal := complete s (doLdn8 sl base q disp s)

/-- `ldi16` (R176). -/
def doLdi16 (sl : CSlot) (base : BitVec 4) (q : BitVec 3) (disp : BitVec 14) (s : State) : Res State :=
  ldWord sl base q disp 2 2 16 s

/-- `ldi16` run by itself: its effect settled as `complete` says. -/
def execLdi16 (sl : CSlot) (base : BitVec 4) (q : BitVec 3) (disp : BitVec 14) (s : State) : Host.Outcome State Fault Refusal := complete s (doLdi16 sl base q disp s)

/-- `ldn16` (R176). -/
def doLdn16 (sl : CSlot) (base : BitVec 4) (q : BitVec 3) (disp : BitVec 14) (s : State) : Res State :=
  ldWord sl base q disp 2 2 0 s

/-- `ldn16` run by itself: its effect settled as `complete` says. -/
def execLdn16 (sl : CSlot) (base : BitVec 4) (q : BitVec 3) (disp : BitVec 14) (s : State) : Host.Outcome State Fault Refusal := complete s (doLdn16 sl base q disp s)

/-- `ldi32` (R176). -/
def doLdi32 (sl : CSlot) (base : BitVec 4) (q : BitVec 3) (disp : BitVec 14) (s : State) : Res State :=
  ldWord sl base q disp 4 4 32 s

/-- `ldi32` run by itself: its effect settled as `complete` says. -/
def execLdi32 (sl : CSlot) (base : BitVec 4) (q : BitVec 3) (disp : BitVec 14) (s : State) : Host.Outcome State Fault Refusal := complete s (doLdi32 sl base q disp s)

/-- `ldn32` (R176). -/
def doLdn32 (sl : CSlot) (base : BitVec 4) (q : BitVec 3) (disp : BitVec 14) (s : State) : Res State :=
  ldWord sl base q disp 4 4 0 s

/-- `ldn32` run by itself: its effect settled as `complete` says. -/
def execLdn32 (sl : CSlot) (base : BitVec 4) (q : BitVec 3) (disp : BitVec 14) (s : State) : Host.Outcome State Fault Refusal := complete s (doLdn32 sl base q disp s)

/-- `ld64` (R176). -/
def doLd64 (sl : CSlot) (base : BitVec 4) (q : BitVec 3) (disp : BitVec 14) (s : State) : Res State :=
  ldWord sl base q disp 8 8 0 s

/-- `ld64` run by itself: its effect settled as `complete` says. -/
def execLd64 (sl : CSlot) (base : BitVec 4) (q : BitVec 3) (disp : BitVec 14) (s : State) : Host.Outcome State Fault Refusal := complete s (doLd64 sl base q disp s)

/-- `vld` (R176). -/
def doVld (sl : CSlot) (base : BitVec 4) (q : BitVec 3) (disp : BitVec 14) (s : State) : Res State :=
  ldWord sl base q disp 128 4 0 s

/-- `vld` run by itself: its effect settled as `complete` says. -/
def execVld (sl : CSlot) (base : BitVec 4) (q : BitVec 3) (disp : BitVec 14) (s : State) : Host.Outcome State Fault Refusal := complete s (doVld sl base q disp s)

/-- The addresses of a strided access (R177, R180). -/
def strided (base a : W64) : List W64 := (List.range 32).map (fun j => base + BitVec.ofNat 64 j * a)

/-- `vlds`: 32 words at a stride (R177). -/
def doVlds (sl : CSlot) (base a : BitVec 4) (q : BitVec 3) (s : State) : Res State :=
  startLoad s (CSlot.cls sl) q.toNat 4 0
    ((strided (rdC s.my sl base.toNat) (rdC s.my sl a.toNat)).map (fun v => (some v, 4)))

/-- `vlds` run by itself: its effect settled as `complete` says. -/
def execVlds (sl : CSlot) (base a : BitVec 4) (q : BitVec 3) (s : State) : Host.Outcome State Fault Refusal := complete s (doVlds sl base a q s)

/-- Index `j` of an index entry, or nothing for a lane that is skipped (R178). -/
def laneIndex (e : WEntry) (j : Nat) : Option Nat :=
  if e.count < 4 * j + 4 then none
  else if lane 32 e.data j = 0xFFFFFFFF then none else some (lane 32 e.data j)

/-- The lane addresses of a gather or scatter (R178, R181). -/
def laneAddrs (base : W64) (sc : Nat) (e : WEntry) : List (Option W64) :=
  (List.range 32).map (fun j => (laneIndex e j).map (fun i => base + BitVec.ofNat 64 (i * 2 ^ sc)))

/-- `vldg`: gathers through an index entry (R178). -/
def doVldg (sl : CSlot) (base : BitVec 4) (q : BitVec 3) (w sc : BitVec 2) (s : State) : Res State :=
  match takeEntries s (CSlot.cls sl) w.toNat 1 with
  | .error e => (both (counterFits s.my.q.ld) (.error e : Res State)).map (·.2)
  | .ok (es, s1) =>
    startLoad s1 (CSlot.cls sl) q.toNat 4 0
      ((laneAddrs (rdC s.my sl base.toNat) sc.toNat (es.headD { data := 0, count := 0 })).map (fun a => (a, 4)))

/-- `vldg` run by itself: its effect settled as `complete` says. -/
def execVldg (sl : CSlot) (base : BitVec 4) (q : BitVec 3) (w sc : BitVec 2) (s : State) : Host.Outcome State Fault Refusal := complete s (doVldg sl base q w sc s)

/-- The checks of a register-and-displacement store: those of the control window where a management core's scalar store names
it, else those of its units (R179, R402). -/
def stJudge (s : State) (cls align n : Nat) (va : W64) : Res Unit :=
  match (if n ≤ 8 then windowOff s.my.run.lcore va else none) with
  | some off =>
    if s.my.lvl = 0 then trapOf 9 cls 0x08 va else if !windowFits off n then trapOf 8 cls 0x0A va else .ok ()
  | none => (checkUnits s cls align { w := true } (unitsOf va n)).map (fun _ => ())

/-- A register-and-displacement store (R179): the entry of `wn` and the checks of the address are judged together. -/
def stWord (sl : CSlot) (base : BitVec 4) (w : BitVec 3) (disp : BitVec 14) (n align : Nat) (s : State) : Res State :=
  let cls := CSlot.cls sl
  let va := rdC s.my sl base.toNat + disp.signExtend 64
  match both (takeEntries s cls w.toNat 1) (both (counterFits s.my.q.st) (stJudge s cls align n va)) with
  | .error e => .error e
  | .ok ((es, s1), _) =>
    let v := (es.headD { data := 0, count := 0 }).bytes.toNat
    startStore s1 cls align (((unitsOf va n).zipIdx).map (fun (u : (W64 × Nat) × Nat) =>
      (u.1.1, bytesOf u.1.2 (v / 2 ^ (32 * u.2)))))

/-- `st8` (R179). -/
def doSt8 (sl : CSlot) (base : BitVec 4) (w : BitVec 3) (disp : BitVec 14) (s : State) : Res State :=
  stWord sl base w disp 1 1 s

/-- `st8` run by itself: its effect settled as `complete` says. -/
def execSt8 (sl : CSlot) (base : BitVec 4) (w : BitVec 3) (disp : BitVec 14) (s : State) : Host.Outcome State Fault Refusal := complete s (doSt8 sl base w disp s)

/-- `st16` (R179). -/
def doSt16 (sl : CSlot) (base : BitVec 4) (w : BitVec 3) (disp : BitVec 14) (s : State) : Res State :=
  stWord sl base w disp 2 2 s

/-- `st16` run by itself: its effect settled as `complete` says. -/
def execSt16 (sl : CSlot) (base : BitVec 4) (w : BitVec 3) (disp : BitVec 14) (s : State) : Host.Outcome State Fault Refusal := complete s (doSt16 sl base w disp s)

/-- `st32` (R179). -/
def doSt32 (sl : CSlot) (base : BitVec 4) (w : BitVec 3) (disp : BitVec 14) (s : State) : Res State :=
  stWord sl base w disp 4 4 s

/-- `st32` run by itself: its effect settled as `complete` says. -/
def execSt32 (sl : CSlot) (base : BitVec 4) (w : BitVec 3) (disp : BitVec 14) (s : State) : Host.Outcome State Fault Refusal := complete s (doSt32 sl base w disp s)

/-- `st64` (R179). -/
def doSt64 (sl : CSlot) (base : BitVec 4) (w : BitVec 3) (disp : BitVec 14) (s : State) : Res State :=
  stWord sl base w disp 8 8 s

/-- `st64` run by itself: its effect settled as `complete` says. -/
def execSt64 (sl : CSlot) (base : BitVec 4) (w : BitVec 3) (disp : BitVec 14) (s : State) : Host.Outcome State Fault Refusal := complete s (doSt64 sl base w disp s)

/-- `vst` (R179). -/
def doVst (sl : CSlot) (base : BitVec 4) (w : BitVec 3) (disp : BitVec 14) (s : State) : Res State :=
  stWord sl base w disp 128 4 s

/-- `vst` run by itself: its effect settled as `complete` says. -/
def execVst (sl : CSlot) (base : BitVec 4) (w : BitVec 3) (disp : BitVec 14) (s : State) : Host.Outcome State Fault Refusal := complete s (doVst sl base w disp s)

/-- A store of 32 word lanes, some of them absent, in ascending lane order (R180, R181); only a scalar store reaches the control
window (R402). -/
def laneStore (cls : Nat) (s s1 : State) (data : Wide) (as : List (Option W64)) : Res State :=
  let us := (as.zipIdx).filterMap (fun (p : Option W64 × Nat) => p.1.map (fun a => (a, bytesOf 4 (lane 32 data p.2))))
  match both (counterFits s.my.q.st) (memoryStore s1 cls 4 us) with
  | .error e => .error e
  | .ok (_, s2) => .ok s2

/-- `vsts`: 32 words at a stride (R180). -/
def doVsts (sl : CSlot) (base a : BitVec 4) (w : BitVec 2) (s : State) : Res State :=
  let cls := CSlot.cls sl
  let as := strided (rdC s.my sl base.toNat) (rdC s.my sl a.toNat)
  match both (takeEntries s cls w.toNat 1)
      (both (counterFits s.my.q.st) (checkUnits s cls 4 { w := true } (as.map (fun v => (v, 4))))) with
  | .error e => .error e
  | .ok ((es, s1), _) => laneStore cls s s1 (es.headD { data := 0, count := 0 }).bytes (as.map some)

/-- `vsts` run by itself: its effect settled as `complete` says. -/
def execVsts (sl : CSlot) (base a : BitVec 4) (w : BitVec 2) (s : State) : Host.Outcome State Fault Refusal := complete s (doVsts sl base a w s)

/-- `vstm`: scatters through an index entry; the data entry is taken first (R181). -/
def doVstm (sl : CSlot) (base : BitVec 4) (wd wi sc : BitVec 2) (s : State) : Res State :=
  let cls := CSlot.cls sl
  match takeEntries s cls wd.toNat 1 with
  | .error e => (both (counterFits s.my.q.st) (.error e : Res State)).map (·.2)
  | .ok (ds, s1) =>
    match takeEntries s1 cls wi.toNat 1 with
    | .error e => (both (counterFits s.my.q.st) (.error e : Res State)).map (·.2)
    | .ok (is, s2) =>
      laneStore cls s s2 (ds.headD { data := 0, count := 0 }).bytes
        (laneAddrs (rdC s.my sl base.toNat) sc.toNat (is.headD { data := 0, count := 0 }))

/-- `vstm` run by itself: its effect settled as `complete` says. -/
def execVstm (sl : CSlot) (base : BitVec 4) (wd wi sc : BitVec 2) (s : State) : Host.Outcome State Fault Refusal := complete s (doVstm sl base wd wi sc s)

/-- An atomic word (R183). -/
def atWord (op : Nat) (sl : CSlot) (base : BitVec 4) (q scope : BitVec 3) (order : BitVec 2) (disp : BitVec 9) (s : State) :
    Res State :=
  (startAtomic s (CSlot.cls sl) op q.toNat scope.toNat order.toNat (rdC s.my sl base.toNat + disp.signExtend 64)).map (fun s1 =>
    if releases scope.toNat order.toNat then flushWrites s1 s1.me else s1)

/-- `aadd` (R183). -/
def doAadd (sl : CSlot) (base : BitVec 4) (q scope : BitVec 3) (order : BitVec 2) (disp : BitVec 9) (s : State) : Res State :=
  atWord 0x20 sl base q scope order disp s

/-- `aadd` run by itself: its effect settled as `complete` says. -/
def execAadd (sl : CSlot) (base : BitVec 4) (q scope : BitVec 3) (order : BitVec 2) (disp : BitVec 9) (s : State) : Host.Outcome State Fault Refusal := complete s (doAadd sl base q scope order disp s)

/-- `amin` (R183). -/
def doAmin (sl : CSlot) (base : BitVec 4) (q scope : BitVec 3) (order : BitVec 2) (disp : BitVec 9) (s : State) : Res State :=
  atWord 0x21 sl base q scope order disp s

/-- `amin` run by itself: its effect settled as `complete` says. -/
def execAmin (sl : CSlot) (base : BitVec 4) (q scope : BitVec 3) (order : BitVec 2) (disp : BitVec 9) (s : State) : Host.Outcome State Fault Refusal := complete s (doAmin sl base q scope order disp s)

/-- `amax` (R183). -/
def doAmax (sl : CSlot) (base : BitVec 4) (q scope : BitVec 3) (order : BitVec 2) (disp : BitVec 9) (s : State) : Res State :=
  atWord 0x22 sl base q scope order disp s

/-- `amax` run by itself: its effect settled as `complete` says. -/
def execAmax (sl : CSlot) (base : BitVec 4) (q scope : BitVec 3) (order : BitVec 2) (disp : BitVec 9) (s : State) : Host.Outcome State Fault Refusal := complete s (doAmax sl base q scope order disp s)

/-- `aand` (R183). -/
def doAand (sl : CSlot) (base : BitVec 4) (q scope : BitVec 3) (order : BitVec 2) (disp : BitVec 9) (s : State) : Res State :=
  atWord 0x23 sl base q scope order disp s

/-- `aand` run by itself: its effect settled as `complete` says. -/
def execAand (sl : CSlot) (base : BitVec 4) (q scope : BitVec 3) (order : BitVec 2) (disp : BitVec 9) (s : State) : Host.Outcome State Fault Refusal := complete s (doAand sl base q scope order disp s)

/-- `aor` (R183). -/
def doAor (sl : CSlot) (base : BitVec 4) (q scope : BitVec 3) (order : BitVec 2) (disp : BitVec 9) (s : State) : Res State :=
  atWord 0x24 sl base q scope order disp s

/-- `aor` run by itself: its effect settled as `complete` says. -/
def execAor (sl : CSlot) (base : BitVec 4) (q scope : BitVec 3) (order : BitVec 2) (disp : BitVec 9) (s : State) : Host.Outcome State Fault Refusal := complete s (doAor sl base q scope order disp s)

/-- `axch` (R183). -/
def doAxch (sl : CSlot) (base : BitVec 4) (q scope : BitVec 3) (order : BitVec 2) (disp : BitVec 9) (s : State) : Res State :=
  atWord 0x25 sl base q scope order disp s

/-- `axch` run by itself: its effect settled as `complete` says. -/
def execAxch (sl : CSlot) (base : BitVec 4) (q scope : BitVec 3) (order : BitVec 2) (disp : BitVec 9) (s : State) : Host.Outcome State Fault Refusal := complete s (doAxch sl base q scope order disp s)

/-- `acas` (R183). -/
def doAcas (sl : CSlot) (base : BitVec 4) (q scope : BitVec 3) (order : BitVec 2) (disp : BitVec 9) (s : State) : Res State :=
  atWord 0x26 sl base q scope order disp s

/-- `acas` run by itself: its effect settled as `complete` says. -/
def execAcas (sl : CSlot) (base : BitVec 4) (q scope : BitVec 3) (order : BitVec 2) (disp : BitVec 9) (s : State) : Host.Outcome State Fault Refusal := complete s (doAcas sl base q scope order disp s)

/-- `afadd` (R183, R184). -/
def doAfadd (sl : CSlot) (base : BitVec 4) (q scope : BitVec 3) (order : BitVec 2) (disp : BitVec 9) (s : State) : Res State :=
  atWord 0x27 sl base q scope order disp s

/-- `afadd` run by itself: its effect settled as `complete` says. -/
def execAfadd (sl : CSlot) (base : BitVec 4) (q scope : BitVec 3) (order : BitVec 2) (disp : BitVec 9) (s : State) : Host.Outcome State Fault Refusal := complete s (doAfadd sl base q scope order disp s)

/-- `aminn` (R183). -/
def doAminn (sl : CSlot) (base : BitVec 4) (q scope : BitVec 3) (order : BitVec 2) (disp : BitVec 9) (s : State) : Res State :=
  atWord 0x28 sl base q scope order disp s

/-- `aminn` run by itself: its effect settled as `complete` says. -/
def execAminn (sl : CSlot) (base : BitVec 4) (q scope : BitVec 3) (order : BitVec 2) (disp : BitVec 9) (s : State) : Host.Outcome State Fault Refusal := complete s (doAminn sl base q scope order disp s)

/-- `amaxn` (R183). -/
def doAmaxn (sl : CSlot) (base : BitVec 4) (q scope : BitVec 3) (order : BitVec 2) (disp : BitVec 9) (s : State) : Res State :=
  atWord 0x29 sl base q scope order disp s

/-- `amaxn` run by itself: its effect settled as `complete` says. -/
def execAmaxn (sl : CSlot) (base : BitVec 4) (q scope : BitVec 3) (order : BitVec 2) (disp : BitVec 9) (s : State) : Host.Outcome State Fault Refusal := complete s (doAmaxn sl base q scope order disp s)

/-- `fence`: orders the seat's later accesses; never holds (R185, R268). -/
def doFence (_sl : CSlot) (scope : BitVec 3) (order : BitVec 2) (s : State) : Res State :=
  let fs := fenceOf s s.me scope.toNat order.toNat
  .ok (addFences (if 3 ≤ scope.toNat then flushWrites s s.me else s) s.me fs)

/-- `fence` run by itself: its effect settled as `complete` says. -/
def execFence (sl : CSlot) (scope : BitVec 3) (order : BitVec 2) (s : State) : Host.Outcome State Fault Refusal := complete s (doFence sl scope order s)

/-- Operations of a path in flight (R275): accesses and writes by name, commands by sequence number; a read that is done stands
in for the writes that it observed (R270). -/
def pathOps (s : State) (k p : Nat) : List Nat × List Nat :=
  if p = 0 then (loadsOf s k ++ writesOf s k ++ observedOf s k, [])
  else
    ((s.writes.filter (fun w => decide (w.agent = agentOf k p) || (decide (p = 5) && decide (w.ctx = k) && w.wb))).map (·.id)
        ++ (((s.ctx k).q.saw.filter (fun e => decide (e.1 = p))).map (·.2.2)),
      ((s.ctx k).cmds.filter (fun c => decide (c.path = p))).map (fun c => c.seq.toNat))

/-- An order between paths that something may still wait for. -/
def PathFence.live (s : State) (k : Nat) (f : PathFence) : Bool :=
  f.ids.any (fun i => loadAlive s i || s.writes.any (fun w => decide (w.id = i)))
    || f.cmds.any (fun n => cmdAlive s k n || !(cmdWrites s k n).isEmpty)

/-- A context with an order between paths added and spent ones dropped; the later path reads no earlier than now (R275). -/
def addPathFence (s : State) (k : Nat) (f : PathFence) : State :=
  let c := s.ctx k
  let gone := f :: c.q.pfences.filter (fun g => !g.live s k)
  let s1 := s.setCtx k { c with q := { c.q with pfences := (c.q.pfences ++ [f]).filter (PathFence.live s k) } }
  gone.foldl (fun s g => raiseFloor s k (match g.to_ with | some p => [p] | none => List.range 6) (decide (4 ≤ g.scope))) s1

/-- `fencex`: orders later operations of one path after earlier ones of another (R186, R275). -/
def doFencex (_sl : CSlot) (from_ to_ scope : BitVec 3) (s : State) : Res State :=
  let ops := pathOps s s.me from_.toNat
  let s1 := if from_ = 0 ∧ 3 ≤ scope.toNat then flushWrites s s.me else s
  .ok (addPathFence s1 s.me { to_ := some to_.toNat, ids := ops.1, cmds := ops.2, scope := scope.toNat })

/-- `fencex` run by itself: its effect settled as `complete` says. -/
def execFencex (sl : CSlot) (from_ to_ scope : BitVec 3) (s : State) : Host.Outcome State Fault Refusal := complete s (doFencex sl from_ to_ scope s)

/-- `pbar`: the persist barrier (R187). -/
def doPbar (sl : CSlot) (s : State) : Res State :=
  pbarWord s sl

/-- `pbar` run by itself: its effect settled as `complete` says. -/
def execPbar (sl : CSlot) (s : State) : Host.Outcome State Fault Refusal := complete s (doPbar sl s)

/-- `cli`: a · 2^13 + imm (R210). -/
def doCli (sl : CSlot) (d a : BitVec 4) (imm : BitVec 13) (s : State) : Res State :=
  putC s sl d.toNat 1 ((rdC s.my sl a.toNat <<< 13) + imm.setWidth 64)

/-- `cli` run by itself: its effect settled as `complete` says. -/
def execCli (sl : CSlot) (d a : BitVec 4) (imm : BitVec 13) (s : State) : Host.Outcome State Fault Refusal := complete s (doCli sl d a imm s)

/-- `cadd`: a plus a signed immediate (R210). -/
def doCadd (sl : CSlot) (d a : BitVec 4) (imm : BitVec 13) (s : State) : Res State :=
  putC s sl d.toNat 1 (rdC s.my sl a.toNat + imm.signExtend 64)

/-- `cadd` run by itself: its effect settled as `complete` says. -/
def execCadd (sl : CSlot) (d a : BitVec 4) (imm : BitVec 13) (s : State) : Host.Outcome State Fault Refusal := complete s (doCadd sl d a imm s)

/-- `cget`: 64 bits of another file (R210). -/
def doCget (sl : CSlot) (d : BitVec 4) (file : BitVec 3) (idx : BitVec 6) (lane : BitVec 4) (s : State) : Res State :=
  let put := fun (v : W64) => putC s sl d.toNat 2 v
  let c := s.my
  match file.toNat with
  | 0 => match rdS c (CSlot.cls sl) idx.toNat with | .ok v => put v | .error e => .error e
  | 1 => put (lane64 (fget 0 c.regs.va idx.toNat) lane.toNat)
  | 2 => put (lane64 (fget 0 c.regs.vb idx.toNat) lane.toNat)
  | 3 => put (lane64 (fget 0 c.regs.x idx.toNat) lane.toNat)
  | 4 => put (fget 0 c.regs.ca idx.toNat)
  | _ => put (fget 0 c.regs.cb idx.toNat)

/-- `cget` run by itself: its effect settled as `complete` says. -/
def execCget (sl : CSlot) (d : BitVec 4) (file : BitVec 3) (idx : BitVec 6) (lane : BitVec 4) (s : State) : Host.Outcome State Fault Refusal := complete s (doCget sl d file idx lane s)

/-- `cstr`: the stride of d at a level, at the end of the seat cycle (R210). -/
def doCstr (sl : CSlot) (d : BitVec 4) (level : BitVec 3) (sreg : BitVec 6) (s : State) : Res State :=
  match rdS s.my (CSlot.cls sl) sreg.toNat with
  | .error e => .error e
  | .ok v => .ok (atEnd s (.stride (decide (sl = .c1)) d.toNat level.toNat (v.setWidth 32)))

/-- `cstr` run by itself: its effect settled as `complete` says. -/
def execCstr (sl : CSlot) (d : BitVec 4) (level : BitVec 3) (sreg : BitVec 6) (s : State) : Host.Outcome State Fault Refusal := complete s (doCstr sl d level sreg s)

end Sys2Proof.Machine
end

