-- ==== Sys2Proof/Machine/TileWords.lean ====
section
/-! DEFINITION. The tile, window, collective and stash words at issue (R188 to R205): operand checks, holds, tile-table moves,
and the engine command each starts. What the engines then do stands in Machine/Engines.lean. -/
namespace Sys2Proof.Machine

/-- An operand of a tile word: kind 0 a slot, 1 a ring; and its number. -/
abbrev TileName := Nat × Nat

/-- The slots and rings a tile word names, in assembly order (R188, R189). -/
def tileNames (c : Ctx) : Instr → List TileName
  | .tloadSlot _ _ _ slot _ | .tstore _ _ _ slot _ | .tstoreDur _ _ _ slot _ | .tzero _ slot | .tfree _ slot
  | .tgath _ _ _ slot _ => [(0, slot.toNat)]
  | .tloadRing _ _ _ ring _ => [(1, ring.toNat)]
  | .rpush _ slot ring => [(1, ring.toNat), (0, slot.toNat)]
  | .ttrn sl base slot | .tcvt sl base slot _ => [(0, slot.toNat), (0, (rdC c sl base.toNat).toNat)]
  | _ => []

/-- The opcode of a tile word (R63), as bits 28:22 of its encoding. -/
def opcodeOf (i : Instr) : Nat :=
  match encodeWord i with
  | some w => (fld w 21 7).toNat
  | none => 0

/-- The declaration of an operand (R188, R248). -/
def declOf (c : Ctx) (n : TileName) : Option TileDecl :=
  if n.1 = 0 then fget? c.tiles.share.slots n.2 else fget? c.tiles.share.rings n.2

/-- The format code of an operand, 0 when undeclared. -/
def nameFmt (c : Ctx) (n : TileName) : Nat := match declOf c n with | some d => d.fmt | none => 0
/-- An operand is gloved. -/
def nameGl (c : Ctx) (n : TileName) : Bool := match declOf c n with | some d => d.gloved | none => false

/-- The state of a tile slot (R254). -/
def slotSt (t : Tiles) (n : Nat) : TileState := fget .empty t.slot n
/-- The state of entry `i` of a ring. -/
def ringSt (t : Tiles) (m i : Nat) : TileState := fget .empty t.ring (64 * m + i)
/-- The tail of a ring (R255). -/
def ringTail (t : Tiles) (m : Nat) : Nat := fget 0 t.tail m
/-- A table with a slot's state set. -/
def setSlot (t : Tiles) (n : Nat) (x : TileState) : Tiles := { t with slot := fset t.slot n x }
/-- A table with a ring entry's state set. -/
def setRing (t : Tiles) (m i : Nat) (x : TileState) : Tiles := { t with ring := fset t.ring (64 * m + i) x }

/-- An index after an entry of a ring of a context. -/
def ringNext (c : Ctx) (m i : Nat) : Nat :=
  match fget? c.tiles.share.rings m with
  | some d => (i + 1) % d.depth
  | none => 0

/-- A reader added to a tile (R254). -/
def addReader : TileState → TileState
  | .draining n => .draining (n + 1)
  | _ => .draining 1

/-- The operands of the other copy slot's tile word in the bundle (R188, R211). -/
def otherNames (c : Ctx) (i : Instr) : List TileName :=
  (c.iss.ins.filter (fun j => !(j == i))).flatMap (tileNames c)

/-- TVAL of a tile operand check (R188). -/
def tileTval (op reason n : Nat) : W64 := BitVec.ofNat 64 (2 ^ 20 + reason * 131072 + op % 128 * 256 + n % 256)

/-- The first failing check of R188 in the order 4, 1, 2, 3; `bad` is the word's own reason 2. -/
def tileFault (c : Ctx) (i : Instr) (bad : Bool) : Option (Nat × Nat) :=
  let ns := tileNames c i
  match ns.find? (fun n => decide (256 ≤ n.2)) with
  | some n => some (4, n.2)
  | none =>
    match ns.find? (fun n => (declOf c n).isNone) with
    | some n => some (1, n.2)
    | none =>
      if bad then some (2, (ns.headD (0, 0)).2)
      else
        match ns.find? (fun n => (otherNames c i).contains n || decide (1 < (ns.filter (· == n)).length)) with
        | some n => some (3, n.2)
        | none => none

/-- A tile word may go on (R28, R44, R188, R190): holds for its counter and its tiles, where no operand check fails. -/
def tileCheck (s : State) (cls : Nat) (i : Instr) (counted : Bool) (bad ready : Bool) : Res Unit :=
  let c := s.my
  match tileFault c i bad with
  | some (r, n) =>
    match (if counted then counterFits c.q.tl else .ok ()) with
    | .error e => .error e
    | .ok _ =>
      if r = 2 ∧ ready = false then holdOf .tile
      else trapOf 7 cls 0x02 (tileTval (opcodeOf i) r n)
  | none =>
    match (if counted then counterFits c.q.tl else .ok ()) with
    | .error e => .error e
    | .ok _ => if ready then .ok () else holdOf .tile

/-- A global operand of an engine (R172, R173): ALIGN, then TRANSLATION for any other form; both at issue. -/
def engineAddr (cls align : Nat) (va : W64) : Res Unit :=
  if va.toNat % align ≠ 0 then trapOf 8 cls 0x0A va
  else if addrForm va = .global then .ok () else trapOf 9 cls 0x07 va

/-- The address and pitch of a tile (R172, R173). A pitch out of alignment traps ALIGN with TVAL the base address (DEDUCED, log entry
39). Only the base is judged for its form here: the later rows of a pitched tile, and the rows of a gather, are addresses that the
instruction does not name, and one out of form ends the command with status 4 (DESIGN CHOICE, log entry 104). -/
def tileAddr (cls : Nat) (gloved : Bool) (va : W64) (pitch : Option W64) : Res Unit :=
  match pitch with
  | some p => if p.toNat % 64 ≠ 0 then trapOf 8 cls 0x0A va else engineAddr cls (if gloved then 256 else 64) va
  | none => engineAddr cls (if gloved then 256 else 64) va

/-- An engine command starts (R174, R175): its sequence number, its counter (`ctr` 0 copy and matrix, 1 window, collective and
stash), what it must wait for. -/
def startCmd (s : State) (cls path ctr : Nat) (op : CmdOp) (dur : Bool) : State :=
  let (seq, s1) := takeSeq s
  let c := s1.my
  let cmd : Cmd :=
    { op := op, pc := c.iss.pc, word := wordOfClass c cls, seq := seq, lvl := c.lvl, slot := cls - 5, path := path,
      counted := ctr, needs := pathNeeds c path, wen := c.wen, dur := dur, core := c.run.lcore,
      t0 := nowAt s c.run.lcore }
  let need : List Need := if dur then [{ id := seq.toNat, k := 5 }] else []
  s1.setMy { c with
    cmds := c.cmds ++ [cmd]
    q := { c.q with
      tl := if ctr = 0 then c.q.tl + 1 else c.q.tl
      cp := if ctr = 0 then c.q.cp else c.q.cp + 1
      durable := c.q.durable ++ need }
    iss := { c.iss with dur := c.iss.dur ++ need } }

/-- The tile table of the issuing context after a change. -/
def withTiles (s : State) (f : Tiles → Tiles) : State :=
  let c := s.my
  s.setMy { c with tiles := f c.tiles }

/-- The pitch operand of a tile word. -/
def pitchOf (c : Ctx) (sl : CSlot) (a : BitVec 4) (pitched : BitVec 1) : Option W64 :=
  if pitched = 1 then some (rdC c sl a.toNat) else none

/-- `tload` to a slot (R189 to R191). -/
def doTloadSlot (sl : CSlot) (base a : BitVec 4) (slot : BitVec 8) (pitched : BitVec 1) (s : State) : Res State :=
  let c := s.my
  let cls := CSlot.cls sl
  let n := slot.toNat
  let gl := nameGl c (0, n)
  match tileCheck s cls (.tloadSlot sl base a slot pitched) true (decide (pitched = 1) && gl)
      (decide (slotSt c.tiles n = .empty)) with
  | .error e => .error e
  | .ok _ =>
    match tileAddr cls gl (rdC c sl base.toNat) (pitchOf c sl a pitched) with
    | .error e => .error e
    | .ok _ =>
      .ok (startCmd (withTiles s (fun t => setSlot t n .filling)) cls 1 0
        (.tload (rdC c sl base.toNat) (pitchOf c sl a pitched) false n 0) false)

/-- `tloadSlot` run by itself: its effect settled as `complete` says. -/
def execTloadSlot (sl : CSlot) (base a : BitVec 4) (slot : BitVec 8) (pitched : BitVec 1) (s : State) : Host.Outcome State Fault Refusal := complete s (doTloadSlot sl base a slot pitched s)

/-- `tload` to the tail entry of a ring (R189 to R191, R255). -/
def doTloadRing (sl : CSlot) (base a : BitVec 4) (ring : BitVec 3) (pitched : BitVec 1) (s : State) : Res State :=
  let c := s.my
  let cls := CSlot.cls sl
  let m := ring.toNat
  let gl := nameGl c (1, m)
  let e := ringTail c.tiles m
  match tileCheck s cls (.tloadRing sl base a ring pitched) true (decide (pitched = 1) && gl)
      (decide (ringSt c.tiles m e = .empty)) with
  | .error er => .error er
  | .ok _ =>
    match tileAddr cls gl (rdC c sl base.toNat) (pitchOf c sl a pitched) with
    | .error er => .error er
    | .ok _ =>
      .ok (startCmd (withTiles s (fun t => { setRing t m e .filling with tail := fset t.tail m (ringNext c m e) })) cls 1 0
        (.tload (rdC c sl base.toNat) (pitchOf c sl a pitched) true m e) false)

/-- `tloadRing` run by itself: its effect settled as `complete` says. -/
def execTloadRing (sl : CSlot) (base a : BitVec 4) (ring : BitVec 3) (pitched : BitVec 1) (s : State) : Host.Outcome State Fault Refusal := complete s (doTloadRing sl base a ring pitched s)

/-- `rpush`: a ready slot into the tail entry of a ring (R190, R192). -/
def doRpush (sl : CSlot) (slot : BitVec 8) (ring : BitVec 3) (s : State) : Res State :=
  let c := s.my
  let cls := CSlot.cls sl
  let n := slot.toNat
  let m := ring.toNat
  let e := ringTail c.tiles m
  let bad := !(decide (nameFmt c (0, n) = nameFmt c (1, m)) && (nameGl c (0, n) == nameGl c (1, m)))
  match tileCheck s cls (.rpush sl slot ring) true bad
      (decide (slotSt c.tiles n = .ready) && decide (ringSt c.tiles m e = .empty)) with
  | .error er => .error er
  | .ok _ =>
    .ok (startCmd (withTiles s (fun t => setSlot { setRing t m e .filling with tail := fset t.tail m (ringNext c m e) } n
      (addReader (slotSt t n)))) cls 1 0 (.rpush n m e) false)

/-- `rpush` run by itself: its effect settled as `complete` says. -/
def execRpush (sl : CSlot) (slot : BitVec 8) (ring : BitVec 3) (s : State) : Host.Outcome State Fault Refusal := complete s (doRpush sl slot ring s)

/-- `tstore` and `tstore.dur` at issue (R190, R193). -/
def tstoreWord (sl : CSlot) (base a : BitVec 4) (slot : BitVec 8) (pitched : BitVec 1) (dur : Bool) (i : Instr) (s : State) :
    Res State :=
  let c := s.my
  let cls := CSlot.cls sl
  let n := slot.toNat
  let gl := nameGl c (0, n)
  match tileCheck s cls i true (decide (pitched = 1) && gl) (decide (slotSt c.tiles n = .ready)) with
  | .error e => .error e
  | .ok _ =>
    match tileAddr cls gl (rdC c sl base.toNat) (pitchOf c sl a pitched) with
    | .error e => .error e
    | .ok _ =>
      .ok (startCmd (withTiles s (fun t => setSlot t n (addReader (slotSt t n)))) cls 1 0
        (.tstore (rdC c sl base.toNat) (pitchOf c sl a pitched) n dur) dur)

/-- `tstore` (R193). -/
def doTstore (sl : CSlot) (base a : BitVec 4) (slot : BitVec 8) (pitched : BitVec 1) (s : State) : Res State :=
  tstoreWord sl base a slot pitched false (.tstore sl base a slot pitched) s

/-- `tstore` run by itself: its effect settled as `complete` says. -/
def execTstore (sl : CSlot) (base a : BitVec 4) (slot : BitVec 8) (pitched : BitVec 1) (s : State) : Host.Outcome State Fault Refusal := complete s (doTstore sl base a slot pitched s)

/-- `tstore.dur` (R193). -/
def doTstoreDur (sl : CSlot) (base a : BitVec 4) (slot : BitVec 8) (pitched : BitVec 1) (s : State) : Res State :=
  tstoreWord sl base a slot pitched true (.tstoreDur sl base a slot pitched) s

/-- `tstoreDur` run by itself: its effect settled as `complete` says. -/
def execTstoreDur (sl : CSlot) (base a : BitVec 4) (slot : BitVec 8) (pitched : BitVec 1) (s : State) : Host.Outcome State Fault Refusal := complete s (doTstoreDur sl base a slot pitched s)

/-- A word from one slot into another (R190, R194, R195). -/
def tileMove (sl : CSlot) (base : BitVec 4) (slot : BitVec 8) (i : Instr) (bad : Nat → Nat → Bool → Bool → Bool)
    (op : (src dst : Nat) → CmdOp) (s : State) : Res State :=
  let c := s.my
  let cls := CSlot.cls sl
  let n := slot.toNat
  let m := (rdC c sl base.toNat).toNat
  let isBad := bad (nameFmt c (0, m)) (nameFmt c (0, n)) (nameGl c (0, m)) (nameGl c (0, n))
  match tileCheck s cls i true isBad (decide (slotSt c.tiles m = .ready) && decide (slotSt c.tiles n = .empty)) with
  | .error e => .error e
  | .ok _ =>
    .ok (startCmd (withTiles s (fun t => setSlot (setSlot t n .filling) m (addReader (slotSt t m)))) cls 1 0 (op m n) false)

/-- `ttrn`: the transpose of a slot (R194). -/
def doTtrn (sl : CSlot) (base : BitVec 4) (slot : BitVec 8) (s : State) : Res State :=
  tileMove sl base slot (.ttrn sl base slot)
    (fun f g x y => !(decide (f = g) && (x == y)) || tfScaled f) (fun m n => .ttrn m n) s

/-- `ttrn` run by itself: its effect settled as `complete` says. -/
def execTtrn (sl : CSlot) (base : BitVec 4) (slot : BitVec 8) (s : State) : Host.Outcome State Fault Refusal := complete s (doTtrn sl base slot s)

/-- The formats of `tcvt` (R195). -/
def cvtFmt (f : Nat) : Bool := decide (1 ≤ f ∧ f ≤ 3) || tfMx f

/-- `tcvt`: a slot converted into another format; stochastic rounding takes SRSTATE (R195). -/
def doTcvt (sl : CSlot) (base : BitVec 4) (slot : BitVec 8) (rnd : BitVec 2) (s : State) : Res State :=
  let (sr, s1) := if rnd = 2 then takeSr s else (0, s)
  tileMove sl base slot (.tcvt sl base slot rnd)
    (fun f g _ _ => !(cvtFmt f && cvtFmt g && decide (f ≠ g))) (fun m n => .tcvt m n rnd.toNat sr) s1

/-- `tcvt` run by itself: its effect settled as `complete` says. -/
def execTcvt (sl : CSlot) (base : BitVec 4) (slot : BitVec 8) (rnd : BitVec 2) (s : State) : Host.Outcome State Fault Refusal := complete s (doTcvt sl base slot rnd s)

/-- `tzero`: the slot filled with zeros (R190, R196). -/
def doTzero (sl : CSlot) (slot : BitVec 8) (s : State) : Res State :=
  let c := s.my
  let cls := CSlot.cls sl
  let n := slot.toNat
  match tileCheck s cls (.tzero sl slot) true false
      (decide (slotSt c.tiles n = .empty) || decide (slotSt c.tiles n = .ready)) with
  | .error e => .error e
  | .ok _ => .ok (startCmd (withTiles s (fun t => setSlot t n .filling)) cls 1 0 (.tzero n) false)

/-- `tzero` run by itself: its effect settled as `complete` says. -/
def execTzero (sl : CSlot) (slot : BitVec 8) (s : State) : Host.Outcome State Fault Refusal := complete s (doTzero sl slot s)

/-- `tfree`: the slot is empty at the end of the seat cycle (R190, R196). -/
def doTfree (sl : CSlot) (slot : BitVec 8) (s : State) : Res State :=
  let c := s.my
  let n := slot.toNat
  match tileCheck s (CSlot.cls sl) (.tfree sl slot) false false
      (decide (slotSt c.tiles n = .empty) || decide (slotSt c.tiles n = .ready)) with
  | .error e => .error e
  | .ok _ => .ok (atEnd s (.tfree n))

/-- `tfree` run by itself: its effect settled as `complete` says. -/
def execTfree (sl : CSlot) (slot : BitVec 8) (s : State) : Host.Outcome State Fault Refusal := complete s (doTfree sl slot s)

/-- `tgath`: 128 rows gathered by four index entries (R197). -/
def doTgath (sl : CSlot) (base a : BitVec 4) (slot : BitVec 8) (w : BitVec 2) (s : State) : Res State :=
  let c := s.my
  let cls := CSlot.cls sl
  let n := slot.toNat
  match tileCheck s cls (.tgath sl base a slot w) true (tfScaled (nameFmt c (0, n)))
      (decide (slotSt c.tiles n = .empty)) with
  | .error e => .error e
  | .ok _ =>
    let va := rdC c sl base.toNat
    let pitch := rdC c sl a.toNat
    match both (tileAddr cls (nameGl c (0, n)) va (some pitch)) (takeEntries s cls w.toNat 4) with
    | .error e => .error e
    | .ok (_, es, s1) =>
      let idx := es.flatMap (fun e => (List.range 32).map (laneIndex e))
      .ok (startCmd (withTiles s1 (fun t => setSlot t n .filling)) cls 1 0 (.tgath va pitch n idx) false)

/-- `tgath` run by itself: its effect settled as `complete` says. -/
def execTgath (sl : CSlot) (base a : BitVec 4) (slot : BitVec 8) (w : BitVec 2) (s : State) : Host.Outcome State Fault Refusal := complete s (doTgath sl base a slot w s)

/-! Windows (R198, R199) -/

/-- Fields of an import entry (R359). -/
def impV (e : WinEntry) : Bool := bit e 0
/-- RO. -/
def impRo (e : WinEntry) : Bool := bit e 1
/-- SIZE. -/
def impSize (e : WinEntry) : Nat := (fld e 111 40).toNat
/-- GEN. -/
def impGen (e : WinEntry) : Nat := (fld e 151 8).toNat

/-- The page of a global address is durable, as it translates now (R187). -/
def durPage (s : State) (k : Nat) (va : W64) : Bool :=
  let c := s.ctx k
  match xlate s c.run.lcore c.run.space va { lvl := c.lvl } with
  | .ok x => pteDur x.leaf
  | .error _ => false

/-- A range of global memory holds a durable page. -/
def durRange (s : State) (k : Nat) (va : W64) (n : Nat) : Bool :=
  (List.range (n / 4096 + 2)).any (fun i => durPage s k (va + BitVec.ofNat 64 (4096 * i)))

/-- The checks of a window word, in order (R199). -/
def winCheck (s : State) (cls : Nat) (loc win : W64) (len : Nat) (get : Bool) : Res Unit :=
  let e := fget 0 s.dev.imports (fld win 48 16).toNat
  let off := (fld win 0 40).toNat
  if !impV e then trapOf 9 cls 0x07 win
  else if (fld win 40 8).toNat ≠ impGen e then trapOf 10 cls 0x14 win
  else if impSize e < off + len || (!get && impRo e) then trapOf 9 cls 0x08 win
  else if off % 256 ≠ 0 then trapOf 8 cls 0x0A win
  else engineAddr cls 256 loc

/-- A window word at issue. -/
def winWord (sl : CSlot) (base a : BitVec 4) (n : BitVec 12) (get : Bool) (op : (loc win : W64) → (len : Nat) → CmdOp)
    (s : State) : Res State :=
  let c := s.my
  let cls := CSlot.cls sl
  let loc := rdC c sl base.toNat
  let win := rdC c sl a.toNat
  let len := (n.toNat + 1) * 256
  match both (counterFits c.q.cp) (winCheck s cls loc win len get) with
  | .error e => .error e
  | .ok _ =>
    let s1 := startCmd s cls 4 1 (op loc win len) (get && durRange s s.me loc len)
    let c1 := s1.my
    let e := fget 0 s.dev.imports (fld win 48 16).toNat
    .ok (s1.setMy { c1 with
      cmds := c1.cmds.map (fun x => if x.seq = c.ctr.seqno then { x with peer := e } else x) })

/-- `wget`: bytes of a window into local memory (R199, R201). -/
def doWget (sl : CSlot) (base a : BitVec 4) (n : BitVec 12) (s : State) : Res State :=
  winWord sl base a n true (fun l w len => .wget l w len) s

/-- `wget` run by itself: its effect settled as `complete` says. -/
def execWget (sl : CSlot) (base a : BitVec 4) (n : BitVec 12) (s : State) : Host.Outcome State Fault Refusal := complete s (doWget sl base a n s)

/-- `wput`: local bytes into a window (R199, R201). -/
def doWput (sl : CSlot) (base a : BitVec 4) (n : BitVec 12) (s : State) : Res State :=
  winWord sl base a n false (fun l w len => .wput l w len) s

/-- `wput` run by itself: its effect settled as `complete` says. -/
def execWput (sl : CSlot) (base a : BitVec 4) (n : BitVec 12) (s : State) : Host.Outcome State Fault Refusal := complete s (doWput sl base a n s)

/-- `wadd`: local elements added into a window (R199, R201). -/
def doWadd (sl : CSlot) (base a : BitVec 4) (n : BitVec 12) (int : BitVec 1) (s : State) : Res State :=
  winWord sl base a n false (fun l w len => .wadd l w len (decide (int = 1))) s

/-- `wadd` run by itself: its effect settled as `complete` says. -/
def execWadd (sl : CSlot) (base a : BitVec 4) (n : BitVec 12) (int : BitVec 1) (s : State) : Host.Outcome State Fault Refusal := complete s (doWadd sl base a n int s)

/-- `coll`: a collective starts; its descriptor is read after issue (R202). -/
def doColl (sl : CSlot) (base : BitVec 4) (op : BitVec 3) (s : State) : Res State :=
  let c := s.my
  let cls := CSlot.cls sl
  let va := rdC c sl base.toNat
  match both (counterFits c.q.cp) (engineAddr cls 64 va) with
  | .error e => .error e
  | .ok _ => .ok (startCmd s cls 3 1 (.coll va op.toNat) true)

/-- `coll` run by itself: its effect settled as `complete` says. -/
def execColl (sl : CSlot) (base : BitVec 4) (op : BitVec 3) (s : State) : Host.Outcome State Fault Refusal := complete s (doColl sl base op s)

/-! The stash (R204, R205, R258) -/

/-- The translation of a block that `smap` binds: R, W and no durable attribute (R258, R346). -/
def smapBlock (s : State) (cls : Nat) (va : W64) : Res Unit :=
  let c := s.my
  match xlate s c.run.lcore c.run.space va { r := true, w := true, lvl := c.lvl } with
  | .error e => xlTrap cls va e
  | .ok x => if pteDur x.leaf then trapOf 9 cls 0x08 va else .ok ()

/-- `smap` and `sinv` act at the end of their bundle: they hold until the orders on the spill-and-stash path are met (R186, R275;
log entry 91). -/
def spillOrder (s : State) : Res Unit := if needsMet s s.me 3 (pathNeeds s.my 5) then .ok () else holdOf .other

/-- `smap`: binds stash entries to blocks of global memory (R204, R258). A misaligned offset traps with the offset as TVAL (log
entry 39). -/
def doSmap (sl : CSlot) (base a : BitVec 4) (n : BitVec 8) (s : State) : Res State :=
  let c := s.my
  let cls := CSlot.cls sl
  let va := rdC c sl base.toNat
  let off := rdC c sl a.toNat
  let cnt := n.toNat + 1
  if c.tiles.share.stashLen < off.toNat + 4096 * cnt then
    trapOf 7 cls 0x02 (tileTval (opcodeOf (.smap sl base a n)) 5 0)
  else if off.toNat % 4096 ≠ 0 then trapOf 8 cls 0x0A (if va.toNat % 4096 ≠ 0 then va else off)
  else
    match engineAddr cls 4096 va with
    | .error e => .error e
    | .ok _ =>
      match allRes ((List.range cnt).map (fun i => smapBlock s cls (va + BitVec.ofNat 64 (4096 * i)))) with
      | .error e => .error e
      | .ok _ => (spillOrder s).map (fun _ => atEnd s (.smap (off.toNat / 4096) cnt va))

/-- `smap` run by itself: its effect settled as `complete` says. -/
def execSmap (sl : CSlot) (base a : BitVec 4) (n : BitVec 8) (s : State) : Host.Outcome State Fault Refusal := complete s (doSmap sl base a n s)

/-- `swb`: writes dirty lines back; counted by cp (R205). -/
def doSwb (sl : CSlot) (base : BitVec 4) (n : BitVec 8) (s : State) : Res State :=
  let c := s.my
  let cls := CSlot.cls sl
  let va := rdC c sl base.toNat
  match both (counterFits c.q.cp) (engineAddr cls 4096 va) with
  | .error e => .error e
  | .ok _ => .ok (startCmd s cls 5 1 (.swb va (n.toNat + 1)) false)

/-- `swb` run by itself: its effect settled as `complete` says. -/
def execSwb (sl : CSlot) (base : BitVec 4) (n : BitVec 8) (s : State) : Host.Outcome State Fault Refusal := complete s (doSwb sl base n s)

/-- `sinv`: unmaps entries, their dirty lines written back or discarded (R205). -/
def doSinv (sl : CSlot) (base : BitVec 4) (n : BitVec 8) (discard : BitVec 1) (s : State) : Res State :=
  let va := rdC s.my sl base.toNat
  match engineAddr (CSlot.cls sl) 4096 va with
  | .error e => .error e
  | .ok _ => (spillOrder s).map (fun _ => atEnd s (.sinv va (n.toNat + 1) (decide (discard = 1))))

/-- `sinv` run by itself: its effect settled as `complete` says. -/
def execSinv (sl : CSlot) (base : BitVec 4) (n : BitVec 8) (discard : BitVec 1) (s : State) : Host.Outcome State Fault Refusal := complete s (doSinv sl base n discard s)

/-- `pref`: no visible effect and no fault (R206). -/
def doPref (_sl : CSlot) (_base : BitVec 4) (_disp : BitVec 14) (s : State) : Res State :=
  .ok s

/-- `pref` run by itself: its effect settled as `complete` says. -/
def execPref (sl : CSlot) (base : BitVec 4) (disp : BitVec 14) (s : State) : Host.Outcome State Fault Refusal := complete s (doPref sl base disp s)

end Sys2Proof.Machine
end

