-- ==== Sys2Proof/Machine/CtlWords.lean ====
section
/-! DEFINITION. The launch-control words of the copy slots (R207 to R209) and the M slot but for `mabort` (R216, R217). -/
namespace Sys2Proof.Machine

/-- An answer reserved in a load queue that no counter counts (R207, R209). -/
def reserveAnswer (s : State) (q : Nat) (kind : LoadKind) (needs : List Need) (va : W64) : State :=
  let c := s.my
  let i := s.nextId
  let l : LoadRec :=
    { id := i, agent := agentOf s.me 0, core := c.run.lcore, die := dieOf c.run.lcore, ctx := s.me, q := q, kind := kind,
      needs := needs, counted := false, va := va, space := c.run.space }
  atEnd { s with nextId := i + 1, loads := s.loads ++ [l] } (.reserve q { acc := i })

/-- `enq`: offers a launch record; a release at device scope (R207). -/
def doEnq (sl : CSlot) (base : BitVec 4) (q : BitVec 3) (lq : BitVec 6) (s : State) : Res State :=
  let cls := CSlot.cls sl
  let va := rdC s.my sl base.toNat
  match (engineAddr cls 256 va).bind (fun _ => checkUnits s cls 256 { r := true } [(va, 256)]) with
  | .error e => .error e
  | .ok ps =>
    let s1 := flushWrites (notePages s ps) s.me
    .ok (reserveAnswer s1 q.toNat (.enq va lq.toNat) (arriveNeeds s1 s1.me 3 ++ readNeeds s1.my ++ pathNeeds s1.my 0) va)

/-- `enq` run by itself: its effect settled as `complete` says. -/
def execEnq (sl : CSlot) (base : BitVec 4) (q : BitVec 3) (lq : BitVec 6) (s : State) : Host.Outcome State Fault Refusal := complete s (doEnq sl base q lq s)

/-- `cancel`: asks for an item to be cancelled; an unknown one is ignored (R208, R311). -/
def doCancel (sl : CSlot) (base : BitVec 4) (level : BitVec 3) (s : State) : Res State :=
  .ok (cancelItem s level.toNat (rdC s.my sl base.toNat).toNat)

/-- `cancel` run by itself: its effect settled as `complete` says. -/
def execCancel (sl : CSlot) (base : BitVec 4) (level : BitVec 3) (s : State) : Host.Outcome State Fault Refusal := complete s (doCancel sl base level s)

/-- `cnt`: reserves an entry that will hold a completion counter (R209). -/
def doCnt (sl : CSlot) (base : BitVec 4) (q level : BitVec 3) (kind : BitVec 1) (s : State) : Res State :=
  .ok (reserveAnswer s q.toNat (.cnt (rdC s.my sl base.toNat) level.toNat (decide (kind = 1))) [] 0)

/-- `cnt` run by itself: its effect settled as `complete` says. -/
def execCnt (sl : CSlot) (base : BitVec 4) (q level : BitVec 3) (kind : BitVec 1) (s : State) : Host.Outcome State Fault Refusal := complete s (doCnt sl base q level kind s)

/-- `mnop` (R216). -/
def doMnop (s : State) : Res State :=
  .ok s

/-- `mnop` run by itself: its effect settled as `complete` says. -/
def execMnop (s : State) : Host.Outcome State Fault Refusal := complete s (doMnop s)

/-- `mset`: a shadow parameter register from an immediate, latency 1 (R216). -/
def doMset (p : BitVec 3) (imm : BitVec 19) (s : State) : Res State :=
  putP s p.toNat 1 (imm.signExtend 64)

/-- `mset` run by itself: its effect settled as `complete` says. -/
def execMset (p : BitVec 3) (imm : BitVec 19) (s : State) : Host.Outcome State Fault Refusal := complete s (doMset p imm s)

/-- `mget`: a shadow parameter register from an s register, latency 2 (R216). -/
def doMget (p : BitVec 3) (a : BitVec 6) (s : State) : Res State :=
  trapFirst (clashTrap s.my 4 0 p.toNat 2)
    (match rdS s.my 4 a.toNat with
    | .error e => .error e
    | .ok v => putP s p.toNat 2 v)

/-- `mget` run by itself: its effect settled as `complete` says. -/
def execMget (p : BitVec 3) (a : BitVec 6) (s : State) : Host.Outcome State Fault Refusal := complete s (doMget p a s)

/-- `mseth`: every shadow register from its active one, latency 1 (R216). -/
def doMseth (s : State) : Res State :=
  (List.range 8).foldl (fun (r : Res State) n => match r with
    | .error e => .error e
    | .ok s1 => putP s1 n 1 (fget 0 s.my.regs.p n)) (.ok s)

/-- `mseth` run by itself: its effect settled as `complete` says. -/
def execMseth (s : State) : Host.Outcome State Fault Refusal := complete s (doMseth s)

/-- The profile a header names (R52, R297): nibble 0 with value 0 is profile 1; nibbles 1 to 15 with value 0 are nibble 0's. -/
def profileOf (profiles : W64) (slot : Nat) : Nat :=
  let n0 := (fld profiles 0 4).toNat
  let d := if n0 = 0 then 1 else n0
  if slot = 0 then d
  else
    let n := (fld profiles (4 * slot) 4).toNat
    if n = 0 then d else n

/-- What a call captures at issue (R217). -/
def captureCall (s : State) (seq : W32) (sr : W64) (routine : Nat) (nocorr limc e5 : Bool) (ceil start : Nat) : Call :=
  let c := s.my
  { pc := c.iss.pc, seq := seq, lvl := c.lvl, routine := routine, nocorr := nocorr, limc := limc, e5 := e5, ceil := ceil,
    start := start, prof := profileOf (s.launch c.run.launch).rec_.profiles (hdrProf c.iss.hdr).toNat, sr := sr,
    p := c.regs.psh, needs := pathNeeds c 2, t0 := nowAt s c.run.lcore }

/-- `mcall`: holds while a queued call has not started, then queues a call (R217). -/
def doMcall (routine : BitVec 10) (nocorr limc e5 : BitVec 1) (ceil start : BitVec 2) (s : State) : Res State :=
  let c := s.my
  if c.call.isSome then holdOf .callQueue
  else
    match counterFits c.q.tl with
    | .error e => .error e
    | .ok _ =>
      let (sr, s0) := takeSr s
      let s1 := startCmd s0 4 2 0 .matrix false
      let call := captureCall s0 c.ctr.seqno sr routine.toNat (decide (nocorr = 1)) (decide (limc = 1)) (decide (e5 = 1))
        ceil.toNat start.toNat
      let (i, s1) := takeId s1
      let s2 := s1.setMy { s1.my with call := some { call with ord := i } }
      let x := s2.core c.run.lcore
      .ok (s2.setCore c.run.lcore { x with calls := x.calls ++ [s2.me] })

/-- `mcall` run by itself: its effect settled as `complete` says. -/
def execMcall (routine : BitVec 10) (nocorr limc e5 : BitVec 1) (ceil start : BitVec 2) (s : State) : Host.Outcome State Fault Refusal := complete s (doMcall routine nocorr limc e5 ceil start s)

end Sys2Proof.Machine
end

