-- ==== Sys2Proof/Machine/Engines.lean ====
section
/-! DEFINITION. The copy engines (R174, R175, R191 to R197, R249, R252, R394): the chunks of a command, what each moves, and
what a tile command leaves when it completes. -/
namespace Sys2Proof.Machine

/-- A chunk of a command (R175): its global address, its bytes, and its offset in the command's buffer; then the further rows
that it takes in, of a command that steps from row to row. All lie in one page of 4 KiB. -/
structure Piece where
  va   : W64
  len  : Nat
  off  : Nat
  more : List (W64 × Nat × Nat) := []
  deriving DecidableEq, Repr

/-- The runs of bytes of a chunk: address, bytes, offset. -/
def Piece.runs (p : Piece) : List (W64 × Nat × Nat) := (p.va, p.len, p.off) :: p.more

/-- A run of bytes cut at the 4 KiB boundaries of its addresses and of a second address that it steps through with it, which
stands at `other` in its page when the offset is 0 (R175). -/
def cutBoth (other : Option Nat) : (fuel : Nat) → (va : W64) → (n off : Nat) → List Piece
  | 0, _, _, _ => []
  | fuel + 1, va, n, off =>
    if n = 0 then []
    else
      let own := 4096 - va.toNat % 4096
      let m := min n (match other with | some o => min own (4096 - (o + off) % 4096) | none => own)
      { va := va, len := m, off := off } :: cutBoth other fuel (va + BitVec.ofNat 64 m) (n - m) (off + m)

/-- A run of bytes as chunks. -/
def runPieces (va : W64) (n off : Nat) : List Piece := cutBoth none (n / 4096 + 2) va n off

/-- Neighbouring rows that lie in one page form one chunk (R175; log entry 41). -/
def joinRows : List Piece → List Piece
  | [] => []
  | p :: r =>
    match joinRows r with
    | [] => [p]
    | q :: qs => if p.va.toNat / 4096 = q.va.toNat / 4096 then { p with more := p.more ++ q.runs } :: qs else p :: q :: qs

/-- The rows of a tile at a pitch (R191, R193). -/
def rowPieces (va pitch : W64) (row : Nat) : List Piece :=
  joinRows ((List.range 128).flatMap (fun i => runPieces (va + BitVec.ofNat 64 i * pitch) row (row * i)))

/-- The declaration a command's slot or ring has. -/
def cmdDecl (c : Ctx) (ring : Bool) (n : Nat) : TileDecl :=
  match declOf c (if ring then 1 else 0, n) with
  | some d => d
  | none => { fmt := 1, gloved := false, depth := 1, base := 0 }

/-- SOFF as the glove read so far gives it, else the standard one (R249). -/
def readSoff (fmt : Nat) (buf : List Byte) : Int :=
  let g := buf.drop (tfData fmt)
  if tfScaled fmt then (if 64 ≤ g.length then cuffSoff (gloveCuff g) else (tfSoff fmt : Int)) else 0

/-- An address and a signed offset. -/
def addOff (va : W64) (o : Int) : W64 := va + BitVec.ofInt 64 o

/-- The runs of a tile in global memory: data, glove, scales where SOFF says (R191, R193, R249). Glove and scale block form
chunks of their own (R175). -/
def tileRuns (va : W64) (d : TileDecl) (buf : List Byte) : List (W64 × Nat × Nat) :=
  let n := tfData d.fmt
  if d.gloved then
    [(va, n, 0), (va + BitVec.ofNat 64 n, 1280, n), (addOff va (readSoff d.fmt buf), tfScaleBytes d.fmt, n + 1280)]
  else [(va, n, 0)]

/-- The chunks a `tload` reads or a `tstore` writes (R175, R191, R193). -/
def tilePieces (va : W64) (pitch : Option W64) (d : TileDecl) (buf : List Byte) : List Piece :=
  match pitch with
  | some p => rowPieces va p (tfData d.fmt / 128)
  | none => (tileRuns va d buf).flatMap (fun r => runPieces r.1 r.2.1 r.2.2)

/-- The rows a `tgath` reads: nothing for an absent index (R197). -/
def gathPieces (va pitch : W64) (idx : List (Option Nat)) (row : Nat) : List Piece :=
  joinRows ((idx.zipIdx).flatMap (fun (p : Option Nat × Nat) => match p.1 with
    | some i => runPieces (va + BitVec.ofNat 64 i * pitch) row (row * p.2)
    | none => []))

/-- The chunks of a tile command. -/
def cmdPieces (c : Ctx) (x : Cmd) : List Piece :=
  match x.op with
  | .tload va pitch ring n _ => tilePieces va pitch (cmdDecl c ring n) x.buf
  | .tstore va pitch n _ => tilePieces va pitch (cmdDecl c false n) x.buf
  | .tgath va pitch n idx => gathPieces va pitch idx (tfData (cmdDecl c false n).fmt / 128)
  | _ => []

/-- The status of a failed translation or read of an engine (R174, R344, R350). -/
def statusOfX : XErr → Nat
  | .code 0x08 => 5
  | .code 0x13 => 2
  | _ => 4

/-- A command that has failed keeps its status until it completes. -/
def failCmd (x : Cmd) (status : Nat) (detail : W64) : Cmd :=
  if x.status = 0 then { x with status := status, detail := detail } else x

/-- The local start of the slot or ring entry a command fills or reads. -/
def tileAt (c : Ctx) (ring : Bool) (n e : Nat) : Nat := (cmdDecl c ring n).entry e

/-- A list of bytes with others in place from an offset on. -/
def patch (bs : List Byte) (o : Nat) (xs : List Byte) : List Byte :=
  (bs ++ List.replicate (o - bs.length) 0).take o ++ xs ++ bs.drop (o + xs.length)

/-- The core at which an engine command acts: a copy command goes with its context, the others stay where they were issued
(R263, R329). -/
def Cmd.coreOf (c : Ctx) (x : Cmd) : Nat := if x.path = 1 then c.run.lcore else x.core

/-- Path `p` of context `k`, on a core. -/
def engViewer (k p core : Nat) : Viewer := { agent := agentOf k p, core := core, die := dieOf core }

/-- Bytes read by an engine, each granule at a moment of its own (R266), or the status of the failure (R174, R175, R350). -/
def readChunk (s : State) (k path core lvl : Nat) (free : Bool) (va : W64) (n : Nat) : Except (Nat × W64) (List Byte) :=
  match xlate s core (s.ctx k).run.space va { r := true, lvl := lvl } with
  | .error e => .error (statusOfX e, va)
  | .ok x =>
    match (List.range n).find? (fun i => poisoned s (x.key + i)) with
    | some i => .error (2, va + BitVec.ofNat 64 i)
    | none => .ok ((List.range n).map (fun i =>
        readByte s (engViewer k path core) k path s.nextId ((x.key + i) / 64) free (x.key + i)))

/-- What a read by an engine leaves: cached translations (R347), the moments of its reads (R266), and what it observed (R270,
R275). -/
def noteRead (s : State) (k path core lvl seq : Nat) (free : Bool) (va : W64) (n : Nat) : State :=
  let sp := (s.ctx k).run.space
  let s1 := noteAbort (noteXl s core sp va) core sp va (BitVec.ofNat 32 seq)
  let s1 := askStores s1 core sp ((List.range ((va.toNat % 256 + n + 255) / 256)).map (fun i => BitVec.ofNat 64 (va.toNat / 256 * 256 + 256 * i))) (fromCtx s k) (2 ^ 32 * k + seq)
  match xlate s core (s.ctx k).run.space va { r := true, lvl := lvl } with
  | .error _ => s1
  | .ok x =>
    let keys := (List.range n).map (x.key + ·)
    let obs := ((keys.map (· / 64)).eraseDups.flatMap (fun g =>
      observe s (engViewer k path core) k path s.nextId g free (keys.filter (fun i => decide (i / 64 = g))))).eraseDups
    noteSaw (noteTimes s1 k path free (keys.map (fun i => (i / 64, i)))) k path seq obs

/-- The runs of a chunk read by an engine, each with its offset. -/
def readRuns (s : State) (k path core lvl : Nat) (free : Bool) : List (W64 × Nat × Nat) → Except (Nat × W64) (List (Nat × List Byte))
  | [] => .ok []
  | (va, n, o) :: r =>
    match readChunk s k path core lvl free va n with
    | .error e => .error e
    | .ok bs => (readRuns s k path core lvl free r).map (fun rs => (o, bs) :: rs)

/-- A chunk of a command read by its engine. -/
def readPiece (s : State) (k : Nat) (x : Cmd) (p : Piece) : Except (Nat × W64) (List (Nat × List Byte)) :=
  readRuns s k x.path (x.coreOf (s.ctx k)) x.lvl x.needs.isEmpty p.runs

/-- What that read leaves. -/
def notePiece (s : State) (k : Nat) (x : Cmd) (p : Piece) : State :=
  p.runs.foldl (fun s r => noteRead s k x.path (x.coreOf (s.ctx k)) x.lvl x.seq.toNat x.needs.isEmpty r.1 r.2.1) s

/-- The bytes of a chunk put in place. -/
def patchRuns (buf : List Byte) (rs : List (Nat × List Byte)) : List Byte := rs.foldl (fun b r => patch b r.1 r.2) buf

/-- The granule writes of a run: one record for each aligned 64 bytes (R266). The granule at `cuff` persists last (R280). -/
def granuleRecs (c : Ctx) (k : Nat) (x : Cmd) (xl : Xl) (va : W64) (cuff : Option W64) : (fuel id off : Nat) → List Byte → List WriteRec
  | 0, _, _, _ => []
  | fuel + 1, id, off, bs =>
    if bs = [] then []
    else
      let key := xl.key + off
      let m := 64 - key % 64
      let a := va + BitVec.ofNat 64 off
      { id := id, agent := agentOf k x.path, core := x.coreOf c, die := dieOf (x.coreOf c), home := pteHome xl.leaf,
        cells := cellsAt key (bs.take m), vis := id, needs := [], ctx := k, seq := x.seq, pc := x.pc, lvl := x.lvl,
        durable := pteDur xl.leaf, host := pteBias xl.leaf, va := a, space := c.run.space,
        launch := c.run.launch, last := decide (cuff = some a) }
        :: granuleRecs c k x xl va cuff fuel (id + 1) (off + m) (bs.drop m)

/-- Bytes of a run set out as writes of an engine. -/
def putChunk (s : State) (k : Nat) (x : Cmd) (xl : Xl) (va : W64) (bs : List Byte) (cuff : Option W64) : State :=
  let recs := granuleRecs (s.ctx k) k x xl va cuff (bs.length / 64 + 2) s.nextId 0 bs
  { s with nextId := s.nextId + recs.length, writes := s.writes ++ recs }

/-- The address of the first byte of a write that lies in a granule with an error that the write does not replace whole (R350). -/
def badByte (s : State) (bytes : List (Nat × W64)) : Option W64 :=
  let keys := bytes.map (·.1)
  (bytes.find? (fun b => poisoned s b.1
    && (isDead b.1 || !(List.range 64).all (fun i => keys.contains (b.1 / 64 * 64 + i))))).map (·.2)

/-- The watched bytes in a range of global memory, as bits of MASK (R394). -/
def rangeWatch (c : Ctx) (va : W64) (n : Nat) : Nat := watchBits c [(va, n)]

/-- The engines check a command's beats (R394). -/
def engWatch (c : Ctx) (x : Cmd) : Bool := x.wen && bit c.ctr.watchm 18 && decide (addrForm c.ctr.watcha = .global)

/-- The report of a struck beat, with the bytes written past it (R394, R395). -/
def watchReport (x : Cmd) (mask skid : Nat) : Report :=
  { cause := 0x0B, status := 0, kind := 8, lvl := x.lvl, seq := x.seq, pc := x.pc, bytes := 0,
    detail := BitVec.ofNat 64 (mask + 65536 + 131072 * x.path + 1048576 * skid) }

/-- The end of the first beat of 256 bytes that holds a watched byte, counted from the start of the bytes at `va`. -/
def struckBeat (c : Ctx) (va : W64) (n : Nat) : Option (Nat × Nat) :=
  let first := 256 - va.toNat % 256
  (List.range (n / 256 + 2)).findSome? (fun i =>
    let lo := if i = 0 then 0 else first + 256 * (i - 1)
    let hi := min n (first + 256 * i)
    let m := rangeWatch c (va + BitVec.ofNat 64 lo) (hi - lo)
    if lo < hi ∧ m ≠ 0 then some (hi, m) else none)

/-- The runs of a chunk without their first `n` bytes. -/
def dropRuns : (n : Nat) → List (W64 × List Byte) → List (W64 × List Byte)
  | _, [] => []
  | n, (va, bs) :: r => if bs.length ≤ n then dropRuns (n - bs.length) r else (va + BitVec.ofNat 64 n, bs.drop n) :: r

/-- Runs written one after another, up to the end of the beat that holds a watched byte and at most one beat further (R394):
the state, the bytes written, and the strike. `xl` translates the page at `va`. -/
def putRuns (s : State) (k : Nat) (x : Cmd) (xl : Xl) (page : W64) (cuff : Option W64) : (done : Nat) → List (W64 × List Byte) →
    State × Nat × Option (Nat × Nat)
  | done, [] => (s, done, none)
  | done, (va, bs) :: r =>
    let xr := { xl with key := xl.key - page.toNat % 4096 + va.toNat % 4096 }
    match (if engWatch (s.ctx k) x then struckBeat (s.ctx k) va bs.length else none) with
    | some (n, m) =>
      let e := if Config.watchSkid s.ticks then min bs.length (n + 256) else n
      (putChunk { s with ticks := s.ticks + 1 } k x xr va (bs.take e) cuff, done + e, some (m, e - n))
    | none => putRuns (putChunk s k x xr va bs cuff) k x xl page cuff (done + bs.length) r

/-- A chunk an engine writes to global memory: translated once, then written whole, or up to the struck beat, and at most one
beat after it, when a watched byte is met (R175, R350, R394); the command after it. -/
def writeChunk (s : State) (k : Nat) (x : Cmd) (need : Need5) (okLeaf : W64 → Bool) (runs : List (W64 × List Byte)) (cuff : Option W64) :
    State :=
  let c := s.ctx k
  let va := (runs.headD (0, [])).1
  match xlate s (x.coreOf c) c.run.space va { need with lvl := x.lvl } with
  | .error e => putCmd (noteAbort s (x.coreOf c) c.run.space va x.seq) k (failCmd x (statusOfX e) va)
  | .ok xl =>
    if !okLeaf xl.leaf then putCmd s k (failCmd x 6 va)
    else
      let rest := dropRuns x.sub runs
      let bytes := rest.flatMap (fun r => (List.range r.2.length).map (fun i =>
        (xl.key - va.toNat % 4096 + r.1.toNat % 4096 + i, r.1 + BitVec.ofNat 64 i)))
      match badByte s bytes with
      | some a => putCmd (noteAbort s (x.coreOf c) c.run.space a x.seq) k (failCmd x 2 a)
      | none =>
        match putRuns s k x xl va cuff 0 rest with
        | (s1, _, none) => putCmd s1 k { x with sub := 0, done := x.done + 1 }
        | (s1, n, some (m, skid)) =>
          let whole := decide (bytes.length ≤ n)
          let x1 := { x with watch := 1, sub := if whole then 0 else x.sub + n, done := if whole then x.done + 1 else x.done }
          addReport (putCmd s1 k x1) k (watchReport x m skid)

/-- A command may move: what it waits for has happened, it is not held, its context is on a bank for a copy command (R329,
R394). -/
def cmdMoves (s : State) (k : Nat) (x : Cmd) : Bool :=
  needsMet s k 3 x.needs && decide (x.watch = 0) && decide (x.status = 0)
    && !(s.dies.any (fun p => p.2.flip.isSome)
      && (cmdPieces (s.ctx k) x).any (fun p => flipBlocks s (s.ctx k).run.space p.va))
    && (decide (x.path ≠ 1) || !(s.ctx k).run.saved)

/-- The three parts of a footprint. -/
def tileParts (d : TileDecl) (bs : List Byte) : List Byte × List Byte × List Byte :=
  (bs.take (tfData d.fmt), (bs.drop (tfData d.fmt)).take 1280, (bs.drop (tfData d.fmt + 1280)).take 512)

/-- A footprint in core store verifies, or is bare (R191 to R195). -/
def footVerifies (d : TileDecl) (bs : List Byte) : Bool :=
  !d.gloved || (let p := tileParts d bs; tileVerifies d.fmt p.1 p.2.1 p.2.2)

/-- A footprint built from data and scales with a new glove (R252). -/
def footOf (d : TileDecl) (seq : W32) (data scales : List Byte) : List Byte :=
  if d.gloved then
    data ++ gloveOf (cuffOf d.fmt seq.toNat (tfSoff d.fmt)) (tileSums d.fmt data scales) ++ scales
  else data

/-- The transpose of a footprint (R194). -/
def transposeFoot (d : TileDecl) (bs : List Byte) : List Byte :=
  let p := tileParts d bs
  let el := (List.range 16384).map (fun e => tileElem d.fmt p.1 (128 * (e % 128) + e / 128))
  let data := packElems d.fmt el
  if d.gloved then
    data ++ p.2.1.take 64 ++ (p.2.1.drop 576).take 512 ++ (p.2.1.drop 64).take 512 ++ List.replicate 192 0
  else data

/-- The elements and scales of a tile in another format (R195): one row of 32 elements after another. -/
def convertTile (src dst rnd : Nat) (sr : W64) (data scales : List Byte) : List Nat × List Nat :=
  let val := fun e => tileValue src (tileScale scales (e / 128) (e % 128)) (tileElem src data e)
  let mode := fun e => rndOf rnd (srRandom sr e)
  if tfMx dst then
    let blks := (List.range 512).map (fun b => mxBlock (tfElem dst) (fun i => mode (32 * b + i))
      ((List.range 32).map (fun i => val (32 * b + i))))
    (blks.flatMap (·.2), blks.map (·.1))
  else
    match ffOf (tfElem dst) with
    | some f => ((List.range 16384).map (fun e => encF f (mode e) false (val e)), [])
    | none => ([], [])

/-- The footprint that `tcvt` writes (R195). -/
def cvtFoot (d g : TileDecl) (rnd : Nat) (sr : W64) (seq : W32) (bs : List Byte) : List Byte :=
  let p := tileParts d bs
  let r := convertTile d.fmt g.fmt rnd sr p.1 p.2.2
  footOf g seq (packElems g.fmt r.1) (r.2.map (BitVec.ofNat 8))

/-- The footprint that `tzero` writes (R196). -/
def zeroFoot (d : TileDecl) (seq : W32) : List Byte :=
  footOf d seq (List.replicate (tfData d.fmt) (if d.fmt = 0x14 then 8 else 0)) (List.replicate (tfScaleBytes d.fmt) 0)

/-- A reader leaves a tile (R254). -/
def dropReader : TileState → TileState
  | .draining n => if n ≤ 1 then .ready else .draining (n - 1)
  | t => t

/-- The tile table of a context changed. -/
def onTiles (s : State) (k : Nat) (f : Tiles → Tiles) : State :=
  let c := s.ctx k
  s.setCtx k { c with tiles := f c.tiles }

/-- The state of what a command fills set. -/
def setDest (t : Tiles) (ring : Bool) (n e : Nat) (x : TileState) : Tiles := if ring then setRing t n e x else setSlot t n x

/-- The source slot of a local command is left. -/
def leaveSrc (t : Tiles) (n : Nat) : Tiles := setSlot t n (dropReader (slotSt t n))

/-- The tile-table moves of a tile command that ends (R190). -/
def endTiles (t : Tiles) (op : CmdOp) (ok : Bool) : Tiles :=
  let st : TileState := if ok then .ready else .empty
  match op with
  | .tload _ _ ring n e => setDest t ring n e st
  | .rpush n m e => setRing (leaveSrc t n) m e st
  | .tstore _ _ n _ => leaveSrc t n
  | .ttrn m n => setSlot (leaveSrc t m) n st
  | .tcvt m n _ _ => setSlot (leaveSrc t m) n st
  | .tzero n => setSlot t n .ready
  | .tgath _ _ n _ => setSlot t n st
  | _ => t

/-- The local slot a command reads as a tile. -/
def srcSlot : CmdOp → Option Nat
  | .rpush n _ _ | .tstore _ _ n _ | .ttrn n _ | .tcvt n _ _ _ => some n
  | _ => none

/-- Reads a source slot into the command's buffer and verifies it, twice at most (R191 to R195). -/
def readSource (s : State) (k : Nat) (x : Cmd) (n : Nat) : State :=
  let c := s.ctx k
  let d := cmdDecl c false n
  let bs := localBytes s k 1 (d.entry 0) d.foot
  if footVerifies d bs then putCmd s k { x with buf := bs, done := 1 }
  else if x.tries = 0 then putCmd s k { x with tries := 1 }
  else putCmd s k (failCmd x 1 (localAddr (d.entry 0)))

/-- One chunk of a tile command (R175, R191 to R197). -/
def tileChunk (s : State) (k : Nat) (x : Cmd) : State :=
  let c := s.ctx k
  match x.op with
  | .tload _ _ ring n e =>
    match (cmdPieces c x)[x.done]? with
    | none => s
    | some p =>
      match readPiece s k x p with
      | .error (st, a) => putCmd (notePiece s k x p) k (failCmd x st a)
      | .ok rs =>
        putCmd (rs.foldl (fun s r => localWrite s k (tileAt c ring n e + r.1) r.2) (notePiece s k x p)) k
          { x with buf := patchRuns x.buf rs, done := x.done + 1 }
  | .tgath _ _ n _ =>
    match (cmdPieces c x)[x.done]? with
    | none => s
    | some p =>
      match readPiece s k x p with
      | .error (st, a) => putCmd (notePiece s k x p) k (failCmd x st a)
      | .ok rs =>
        let buf := if x.done = 0 then List.replicate (tfData (cmdDecl c false n).fmt) 0 else x.buf
        putCmd (notePiece s k x p) k { x with buf := patchRuns buf rs, done := x.done + 1 }
  | .tstore va _ n dur =>
    if x.done = 0 then readSource s k x n
    else
      match (cmdPieces c x)[x.done - 1]? with
      | none => s
      | some p =>
        let d := cmdDecl c false n
        writeChunk (noteXl s c.run.lcore c.run.space p.va) k x { w := true } (fun leaf => pteDur leaf == dur)
          (p.runs.map (fun r => (r.1, (x.buf.drop r.2.2).take r.2.1)))
          (if d.gloved then some (va + BitVec.ofNat 64 (tfData d.fmt)) else none)
  | .rpush n _ _ | .ttrn n _ | .tcvt n _ _ _ => if x.done = 0 then readSource s k x n else s
  | .tzero _ => putCmd s k { x with done := 1 }
  | _ => s

/-- Every chunk of a tile command has been moved. -/
def tileMoved (c : Ctx) (x : Cmd) : Bool :=
  match x.op with
  | .tload _ _ _ _ _ | .tgath _ _ _ _ => decide ((cmdPieces c x).length ≤ x.done)
  | .tstore _ _ _ _ => decide ((cmdPieces c x).length + 1 ≤ x.done)
  | .rpush _ _ _ | .ttrn _ _ | .tcvt _ _ _ _ | .tzero _ => decide (1 ≤ x.done)
  | _ => false

/-- What a tile command writes into core store when it completes whole, and where. -/
def tileResult (c : Ctx) (x : Cmd) : Option (Nat × List Byte) :=
  match x.op with
  | .tload _ _ ring n e =>
    let d := cmdDecl c ring n
    if d.gloved ∧ tfScaled d.fmt = true then
      some (d.entry e + tfData d.fmt, bytesOf 64 (cuffMoved (gloveCuff (x.buf.drop (tfData d.fmt))) (tfSoff d.fmt)).toNat)
    else none
  | .rpush _ m e => some ((cmdDecl c true m).entry e, x.buf)
  | .ttrn m n => some (tileAt c false n 0, transposeFoot (cmdDecl c false m) x.buf)
  | .tcvt m n rnd sr => some (tileAt c false n 0, cvtFoot (cmdDecl c false m) (cmdDecl c false n) rnd sr x.seq x.buf)
  | .tzero n => some (tileAt c false n 0, zeroFoot (cmdDecl c false n) x.seq)
  | .tgath _ _ n _ =>
    let d := cmdDecl c false n
    let data := if x.buf = [] then List.replicate (tfData d.fmt) 0 else x.buf
    some (tileAt c false n 0, footOf d x.seq data [])
  | _ => none

/-- The glove of a tile as loaded verifies (R191). -/
def loadVerifies (c : Ctx) (x : Cmd) : Bool :=
  match x.op with
  | .tload _ _ ring n _ => footVerifies (cmdDecl c ring n) x.buf
  | _ => true

/-- The address of the tile a `tload` reads (R174). -/
def loadAddr (x : Cmd) : W64 := match x.op with | .tload va _ _ _ _ => va | _ => 0

/-- A tile command ends (R174, R190, R252): whole, with what it writes in place, or failed. -/
def tileComplete (s : State) (k : Nat) (x : Cmd) : State :=
  let c := s.ctx k
  let done := (cmdWrites s k x.seq.toNat).all (fun w => w.performedAt 3)
  if x.status ≠ 0 then
    if done then endCmd (onTiles s k (fun t => endTiles t x.op false)) k x else s
  else if !tileMoved c x || !done || decide (x.watch ≠ 0) then s
  else if !loadVerifies c x then
    if x.tries = 0 then putCmd s k { x with tries := 1, done := 0, buf := [] }
    else endCmd (onTiles s k (fun t => endTiles t x.op false)) k (failCmd x 1 (loadAddr x))
  else
    let s1 := match tileResult c x with
      | some (o, bs) => localWrite s k o bs
      | none => s
    endCmd (onTiles s1 k (fun t => endTiles t x.op true)) k x

end Sys2Proof.Machine
end

