-- ==== Sys2Proof/Machine/Accept.lean ====
section
/-! DEFINITION. Accepting a launch record (R207, R244, R296 to R302, R312, R362): what the dispatcher reads, every check of R298,
and the launch that an accepted record makes. -/
namespace Sys2Proof.Machine

/-- Bytes a die's dispatcher reads in an address space; nothing where a page fails the check or an error cannot be corrected
(R298, R344, R346, R350). -/
def dispRead (s : State) (d space : Nat) (va : W64) (n : Nat) (need : Need5) : Option (List Byte) :=
  (runPieces va n 0).foldl (fun r p => match r with
    | none => none
    | some bs =>
      match xlate s (2048 + d) space p.va need with
      | .error _ => none
      | .ok x =>
        if (List.range (p.len / 64 + 2)).any (fun i => poisoned s (min (x.key + 64 * i) (x.key + p.len - 1))) then none
        else some (bs ++ viewBytes s (dieViewer d) s.nextId x.key p.len)) (some [])

/-- A bias flip of a page of an address space is in progress (R353). -/
def flipIn (s : State) (space : Nat) : Bool :=
  s.dies.any (fun p => match p.2.flip with | some f => decide (f.space = space) | none => false)

/-- A field of a number: `len` bits from bit `lo`. -/
def numFld (x lo len : Nat) : Nat := x / 2 ^ lo % 2 ^ len

/-- The address space of a launch queue (R341). -/
def queueSpace (s : State) (q : Nat) : Nat := numFld (fget 0 s.dev.ctl (0x4300 + q / 8 * 8)).toNat (8 * (q % 8)) 6

/-- Order 1 of R298: reserved bits and refused values. -/
def recordShape (x : Nat) : Bool :=
  let kind := numFld x 0 8
  decide (numFld x 1088 960 = 0 ∧ numFld x 794 6 = 0 ∧ numFld x 25 39 = 0 ∧ numFld x 23 1 = 0 ∧ numFld x 19 1 = 0
    ∧ numFld x 15 1 = 0 ∧ numFld x 11 1 = 0)
  && (decide (kind = 1 ∧ numFld x 20 3 ≤ 3 ∧ 1 ≤ numFld x 16 3 ∧ numFld x 16 3 ≤ 6) &&
      (List.range 16).all (fun i => decide (numFld x (704 + 4 * i) 4 ≤ 3))
    || decide (kind = 2 ∧ numFld x 8 4 = 0 ∧ numFld x 16 48 = 0 ∧ numFld x 64 736 = 0))

/-- The extents of a record (R296). -/
def recordExts (x : Nat) : List Nat := (List.range (numFld x 16 3)).map (fun d => numFld x (320 + 32 * d) 32)

/-- Orders 2 to 4 of R298: extents, Morton with one dimension, and the flags of DET. -/
def recordDims (x : Nat) : Bool :=
  let nd := numFld x 16 3
  let es := recordExts x
  es.all (fun e => decide (e ≠ 0))
  && (List.range (6 - nd)).all (fun i => decide (numFld x (320 + 32 * (nd + i)) 32 = 0))
  && decide (es.foldl (· * ·) 1 ≤ 2 ^ 48)
  && !(decide (numFld x 20 3 = 2) && decide (nd = 1))
  && !(decide (numFld x 8 1 = 1) && (decide (numFld x 9 1 = 0) || decide (numFld x 24 1 = 1) || decide (numFld x 10 1 = 1)))

/-! Partitions (R244, R248, R299) -/

/-- A number rounded up to a multiple. -/
def roundUpTo (m x : Nat) : Nat := (x + m - 1) / m * m

/-- A declaration of a partition descriptor: format, gloved, depth; `none` when it is not declared. -/
def readDecl (v : Nat) (ring : Bool) : Option TileDecl :=
  if numFld v 8 1 = 0 then none
  else some { fmt := numFld v 0 8, gloved := decide (numFld v 9 1 = 1), depth := if ring then numFld v 16 6 + 1 else 1, base := 0 }

/-- A declaration is one that R248 allows. -/
def declOk (v : Nat) (ring : Bool) : Bool :=
  decide (numFld v 10 6 = 0) && (!ring || decide (numFld v 22 10 = 0))
  && (match readDecl v ring with
      | none => true
      | some d => tfOk d.fmt && (d.gloved || !tfScaled d.fmt))

/-- Declarations laid out from a local address on, each at a multiple of 256 (R244). -/
def layDecls : (at_ : Nat) → List (Nat × TileDecl) → Nat × FMap TileDecl
  | a, [] => (a, [])
  | a, (n, d) :: r =>
    let b := roundUpTo 256 a
    let q := layDecls (b + d.span) r
    (q.1, (n, { d with base := b }) :: q.2)

/-- A seat's share laid out (R244): an absent stash window takes no place, so that the spill area starts where the rings end. -/
def layShare (base len accFirst accCnt stash : Nat) (slots rings : List (Nat × TileDecl)) : Share :=
  let a := layDecls base slots
  let b := layDecls a.1 rings
  let st := if stash = 0 then b.1 else roundUpTo 4096 b.1
  { base := base, len := len, slots := a.2, rings := b.2, stashBase := st, stashLen := stash, spillBase := st + stash,
    spillLen := base + len - (st + stash), accFirst := accFirst, accCnt := accCnt }

/-- A share keeps the rules of R244. -/
def shareOk (h : Share) : Bool :=
  decide (h.base % 4096 = 0) && decide (h.len % 4096 = 0) && decide (h.base + h.len ≤ 2 ^ 22)
  && decide (h.spillBase + 16384 ≤ h.base + h.len) && decide (h.accFirst ≤ 15) && decide (h.accCnt ≤ 16)
  && decide (h.accFirst + h.accCnt ≤ 16)

/-- A little-endian number at an offset of a descriptor. -/
def numAt (bs : List Byte) (o n : Nat) : Nat := ofBytes ((bs.drop o).take n)

/-- The two shares of a partition descriptor, when it is one that R244 and R299 allow; a launch with one seat has no second. -/
def readPartition (bs : List Byte) (two : Bool) : Option (Share × Share) :=
  let slots := (List.range 256).filterMap (fun n => (readDecl (numAt bs (0x40 + 2 * n) 2) false).map (fun d => (n, d)))
  let rings := (List.range 8).filterMap (fun m => (readDecl (numAt bs (0x240 + 4 * m) 4) true).map (fun d => (m, d)))
  let stash := numAt bs 0x14 4
  let h0 := layShare (numAt bs 0 4) (numAt bs 4 4) (numAt bs 0x10 1) (numAt bs 0x11 1) stash slots rings
  let h1 := layShare (numAt bs 8 4) (numAt bs 12 4) (numAt bs 0x12 1) (numAt bs 0x13 1) stash slots rings
  let decls := (List.range 256).all (fun n => declOk (numAt bs (0x40 + 2 * n) 2) false)
    && (List.range 8).all (fun m => declOk (numAt bs (0x240 + 4 * m) 4) true)
  let zeros := decide (numAt bs 0x18 40 = 0) && decide (numAt bs 0x260 32 = 0)
  let ok := decls && zeros && decide (stash % 4096 = 0) && decide (stash ≤ 2 ^ 20) && shareOk h0
    && (if two then shareOk h1 && !h0.meets h1 && decide (h0.accCnt + h1.accCnt ≤ 16)
        else decide (numAt bs 8 8 = 0) && decide (numAt bs 0x12 2 = 0))
  if ok then some (h0, if two then h1 else {}) else none

/-! Placement maps (R301, R306) -/

/-- An entry of a placement map: LO, HI, CORES, DIE; nothing where its reserved bits are set. -/
def readEntry (bs : List Byte) (i : Nat) : Option (Nat × Nat × W64 × Nat) :=
  let o := 64 + 32 * i
  if numAt bs (o + 24) 1 < 32 ∧ numAt bs (o + 25) 7 = 0 then
    some (numAt bs o 8, numAt bs (o + 8) 8, BitVec.ofNat 64 (numAt bs (o + 16) 8), numAt bs (o + 24) 1)
  else none

/-- The entries follow each other from an index to the end of the space (R301). -/
def entriesOk : (from_ n : Nat) → List (Nat × Nat × W64 × Nat) → Bool
  | a, n, [] => decide (a = n)
  | a, n, (lo, hi, cores, _) :: r => decide (lo = a ∧ lo < hi ∧ cores ≠ 0) && entriesOk hi n r

/-- The logical cores that an entry names, rising. -/
def entryCores (cores : W64) (die : Nat) : List Nat := ((List.range 64).filter (fun c => bit cores c)).map (64 * die + ·)

/-- The static ranges of an entry under DET (R306). -/
def staticRanges (lo hi : Nat) (cs : List Nat) : List (Nat × Nat × Nat) :=
  let k := cs.length
  ((cs.zipIdx).map (fun (p : Nat × Nat) => (p.1, lo + p.2 * (hi - lo) / k, lo + (p.2 + 1) * (hi - lo) / k))).filter
    (fun r => decide (r.2.1 < r.2.2))

/-- The pools of a map (R306). -/
def poolsOf (det : Bool) (es : List (Nat × Nat × W64 × Nat)) : List Pool :=
  es.map (fun e =>
    { a := if det then e.2.1 else e.1, b := e.2.1, lo := e.1, hi := e.2.1, die := e.2.2.2, cores := e.2.2.1, claimed := [],
      static := if det then staticRanges e.1 e.2.1 (entryCores e.2.2.1 e.2.2.2) else [] })

/-- The entries of a placement map as read, when it keeps the rules of R301. -/
def readMap (s : State) (d space : Nat) (va : W64) (n : Nat) : Option (List (Nat × Nat × W64 × Nat)) :=
  if va.toNat % 64 ≠ 0 then none
  else
    match dispRead s d space va 64 { r := true, lvl := 2 } with
    | none => none
    | some h =>
      let count := numAt h 0 4
      if count < 1 ∨ 64 < count ∨ numAt h 4 60 ≠ 0 then none
      else
        match dispRead s d space va (64 + 32 * count) { r := true, lvl := 2 } with
        | none => none
        | some bs =>
          let es := (List.range count).map (readEntry bs)
          let got := es.filterMap id
          if es.all Option.isSome && entriesOk 0 n got then some got else none

/-! Microprogram images (R300) -/

/-- The image at an address, when it is well formed (R300). -/
def readImage (s : State) (d space : Nat) (va : W64) : Option MicroImage :=
  if va.toNat % 64 ≠ 0 then none
  else
    match dispRead s d space va 16 { r := true, lvl := 2 } with
    | none => none
    | some h =>
      let nw := numAt h 0 4
      let first := numAt h 4 4
      let nr := numAt h 8 4
      if 16384 < first + nw ∨ 1024 < nr ∨ numAt h 12 4 ≠ 0 then none
      else
        match dispRead s d space va (16 + 8 * nr + 8 * nw) { r := true, lvl := 2 } with
        | none => none
        | some bs =>
          let es := (List.range nr).map (fun i => numAt bs (16 + 8 * i) 8)
          let ix := es.map (fun e => numFld e 32 10)
          if es.all (fun e => decide (numFld e 42 22 = 0) && decide (numFld e 14 17 = 0)) && decide (ix.eraseDups.length = ix.length) then
            some { first := first
                   words := (List.range nw).map (fun i => BitVec.ofNat 64 (numAt bs (16 + 8 * nr + 8 * i) 8))
                   entries := es.map (fun e => (numFld e 32 10, BitVec.ofNat 32 e)) }
          else none

/-! Acceptance -/

/-- Order 5 of R298: an address passes the check of its page. -/
def entryOk (s : State) (d space : Nat) (va : W64) (need : Need5) : Bool :=
  match xlate s (2048 + d) space va need with
  | .ok _ => true
  | .error _ => false

/-- The fields of a record that every kind reads. -/
def recordBase (x space queue : Nat) : LaunchRec :=
  { kind := numFld x 0 8, prio := numFld x 12 3, job := numFld x 864 32, phase := numFld x 832 32, graph := numFld x 800 32,
    after0 := numFld x 896 32, after1 := numFld x 928 32, doneaddr := BitVec.ofNat 64 (numFld x 960 64),
    failaddr := BitVec.ofNat 64 (numFld x 1024 64), n := 1, space := space, queue := queue }

/-- The fields of a kernel launch's record. -/
def recordKernel (x space queue : Nat) (h : Share × Share) : LaunchRec :=
  let w := fun lo => BitVec.ofNat 64 (numFld x lo 64)
  { recordBase x space queue with
    det := decide (numFld x 8 1 = 1), stmp := decide (numFld x 9 1 = 1), pre := decide (numFld x 10 1 = 1)
    seats := numFld x 24 1, route := numFld x 20 3, ndims := numFld x 16 3, exts := recordExts x
    n := (recordExts x).foldl (· * ·) 1, args := w 128, entry := w 64, handler := w 192, seed := w 256, micro := w 640
    profiles := w 704, inmask := numFld x 768 8, outslot := [numFld x 776 8, numFld x 784 8], outen := numFld x 792 2
    share0 := h.1, share1 := h.2 }

/-- Orders 5 to 9 of R298 for a kernel launch: the record, its pools and its microprogram image, when nothing refuses it. -/
def judgeKernel (s : State) (d space queue x : Nat) : Option (LaunchRec × List Pool × Option MicroImage) :=
  let w := fun lo => BitVec.ofNat 64 (numFld x lo 64)
  let entry : W64 := w 64
  let handler : W64 := w 192
  let args : W64 := w 128
  if !recordDims x || decide (entry.toNat % 4 ≠ 0) || decide (handler.toNat % 4 ≠ 0) || !entryOk s d space entry { x := true }
      || (decide (handler ≠ 0) && !entryOk s d space handler { x := true, lvl := 2 })
      || (decide (args ≠ 0) && !entryOk s d space args { r := true }) || decide (numFld x 576 64 % 64 ≠ 0) then none
  else
    match dispRead s d space (w 576) 640 { r := true, lvl := 2 } with
    | none => none
    | some bs =>
      match readPartition bs (decide (numFld x 24 1 = 1)) with
      | none => none
      | some h =>
        let r := recordKernel x space queue h
        let rings := (List.range 8).all (fun i => !(r.inmask.testBit i) || (fget? h.1.rings i).isSome)
        let slots := (List.range 2).all (fun i => !(r.outen.testBit i) || (fget? h.1.slots (r.outslot.getD i 0)).isSome)
        match readMap s d space (w 512) r.n with
        | none => none
        | some es =>
          let image := if r.micro = 0 then none else readImage s d space r.micro
          if !rings || !slots || (decide (r.micro ≠ 0) && image.isNone) then none
          else some (r, poolsOf r.det es, image)

/-- The dies, and under DET the cores, that a launch needs are ready (R298, R362). -/
def placesReady (s : State) (det : Bool) (ps : List Pool) : Bool :=
  ps.all (fun p => bit (drdy s p.die) 0 && (!det || (entryCores p.cores p.die).all (coreReady s)))

/-- The identifier of the next launch (R312). -/
def freshLaunch (s : State) : (fuel : Nat) → (i : Nat) → Nat
  | 0, i => i
  | fuel + 1, i =>
    let j := if i % 2 ^ 32 = 0 then 1 else i % 2 ^ 32
    match fget? s.dev.launches j with
    | some l => if l.alive then freshLaunch s fuel (j + 1) else j
    | none => j

/-- A record is accepted: it joins its queue under a new identifier (R312); its static ranges are placed at once (R306, R318). -/
def acceptRecord (s : State) (q : Nat) (r : LaunchRec) (ps : List Pool) (image : Option MicroImage) : W64 × State :=
  let i := freshLaunch s (s.dev.launches.length + 1) s.dev.nextLaunch
  let s1 := s.setLaunch i { rec_ := r, pools := ps, image := image }
  let s2 := { s1 with dev := { s1.dev with nextLaunch := i + 1, queues := fset s1.dev.queues q (fget [] s1.dev.queues q ++ [i]) } }
  (BitVec.ofNat 64 (i * 2 ^ 32),
   (ps.flatMap (·.static)).foldl (fun s t => notePlaced s i t.2.1 t.2.2 (dieOf t.1)) s2)

/-- The dispatcher's walks are installed like any other (R347), and what aborts them leaves its record (R350, R362). -/
def noteWalks (s : State) (d space : Nat) (vas : List W64) : State :=
  vas.foldl (fun s va => if va = 0 then s else noteAbort (noteXl s (2048 + d) space va) (2048 + d) space va 0) s

/-- A record offered to a queue is judged by the dispatcher of a die (R207, R298, R312): the answer, and the state after. -/
def offerRecord (s : State) (d q : Nat) (va : W64) : W64 × State :=
  let space := queueSpace s q
  if 256 ≤ (fget [] s.dev.queues q).length then (1, s)
  else
    match (if va.toNat % 256 = 0 then dispRead s d space va 256 { r := true, lvl := 2 } else none) with
    | none => (2, s)
    | some bs =>
      let x := ofBytes bs
      if !recordShape x then (2, s)
      else if numFld x 0 8 = 2 then acceptRecord s q (recordBase x space q) [] none
      else
        let s1 := noteWalks s d space ([64, 192, 128, 576, 512, 640].map (fun lo => BitVec.ofNat 64 (numFld x lo 64)))
        match judgeKernel s d space q x with
        | none => (2, s1)
        | some (r, ps, i) => if placesReady s r.det ps then acceptRecord s1 q r ps i else (3, s1)

end Sys2Proof.Machine
end

