-- ==== Sys2Proof/Machine/Array.lean ====
section
/-! DEFINITION. The arithmetic of one stream step and of a drain (R88 to R99, R213, R232, R234): narrowing, products in the
window, the check lanes, the monitors, the accumulator and check pairs. -/
namespace Sys2Proof.Machine

/-! Files of words taken as lists -/

/-- `n` values of a file from key `lo` on, of an already cut file. -/
def denseGo {α : Type} (d : α) : (n lo : Nat) → FMap α → List α
  | 0, _, _ => []
  | n + 1, lo, m =>
    match m with
    | [] => d :: denseGo d n (lo + 1) []
    | (k, v) :: r => if k = lo then v :: denseGo d n (lo + 1) r else d :: denseGo d n (lo + 1) ((k, v) :: r)

/-- The values of a file at keys `lo` to `lo + n - 1`. -/
def dense {α : Type} (d : α) (m : FMap α) (lo n : Nat) : List α :=
  denseGo d n lo (m.filter (fun p => decide (lo ≤ p.1 ∧ p.1 < lo + n)))

/-- A file with the values at keys `lo` on replaced by a list. -/
def splice {α : Type} (m : FMap α) (lo : Nat) (xs : List α) : FMap α :=
  m.filter (fun p => decide (p.1 < lo)) ++ (xs.zipIdx).map (fun (p : α × Nat) => (lo + p.2, p.1))
    ++ m.filter (fun p => decide (lo + xs.length ≤ p.1))

/-! Narrowing (R84, R85, R88, R232) -/

/-- An operand as it enters the array: its format, the codes of its rows and their scale bytes, four to a row, and the elements
that the downcast clamped (R99). -/
structure Operand where
  fmt   : Nat
  data  : List (List Nat)
  scale : List (List Nat)
  sat   : Nat
  deriving DecidableEq, Repr

/-- A climbable source format (R226, R232). -/
def tfWide (fmt : Nat) : Bool := decide (fmt = 1 ∨ fmt = 2 ∨ fmt = 3)

/-- A list cut into pieces of `n`. -/
def piecesOf {α : Type} (n : Nat) : (fuel : Nat) → List α → List (List α)
  | 0, _ => []
  | fuel + 1, xs => if xs.isEmpty then [] else xs.take n :: piecesOf n fuel (xs.drop n)


/-- The rows of a tile as stored. -/
def tileRows (fmt : Nat) (data scales : List Byte) (n : Nat) : Operand :=
  { fmt := fmt
    data := (List.range n).map (fun i => (List.range 128).map (fun j => tileElem fmt data (128 * i + j)))
    scale := (List.range n).map (fun i => (List.range 4).map (fun b => tileScale scales i (32 * b)))
    sat := 0 }

/-- One row formed into MX blocks (R84): its elements, its scales and its clamps. -/
def mxRow (code : Nat) (vs : List FVal) : List Nat × List Nat × Nat :=
  let bs := (piecesOf 32 4 vs).map (fun b =>
    let r := mxBlock code (fun _ => .rne) b
    let n := if r.1 = 255 then 0
      else (b.filter (fun v => mxClamps code .rne (scaleV v (127 - (r.1 : Int))))).length
    (r.2, r.1, n))
  (bs.flatMap (·.1), bs.map (·.2.1), (bs.map (·.2.2)).sum)

/-- The element format of rung 0 or 1 (R232). -/
def rungElem (rung : Nat) (e5 : Bool) : Nat := if rung = 0 then 11 else if e5 then 10 else 9
/-- The tile format of an MX element. -/
def rungTile (rung : Nat) (e5 : Bool) : Nat := if rung = 0 then 0x12 else if e5 then 0x11 else 0x10

/-- A climbable operand narrowed to a rung (R232); any other enters in its own format. An f32 element rounds to BF16 with sat = 0
of R85, which R232 leaves open (DESIGN CHOICE, log entry 100). -/
def narrowOp (o : Operand) (climb : Bool) (rung : Nat) (e5 : Bool) : Operand :=
  if !climb then o
  else if rung ≤ 1 then
    let rs := o.data.map (fun r => mxRow (rungElem rung e5) (r.map (fun x => elemV (tfElem o.fmt) x)))
    { fmt := rungTile rung e5, data := rs.map (·.1), scale := rs.map (·.2.1), sat := (rs.map (·.2.2)).sum }
  else if o.fmt = 1 then
    { o with fmt := 2, data := o.data.map (fun r => r.map (fun x => encF fbf16 .rne false (elemV 8 x))) }
  else o

/-- A scaled number. -/
def withScale (S : Nat) (v : FVal) : FVal := if S % 256 = 255 then .nan else scaleV v ((S % 256 : Nat) - 127)

/-- The terms an element enters as: two powers of two for DS8, itself otherwise (R81, R88). -/
def elemTerms (fmt S x : Nat) : List FVal :=
  if fmt = 0x14 then
    [withScale S (.fin (decide (x / 128 % 2 = 1)) 1 (-(x / 16 % 8 : Nat))),
     withScale S (.fin (decide (x / 8 % 2 = 1)) 1 (-(x % 8 : Nat)))]
  else [tileValue fmt S x]

/-- The terms of every element of a row. -/
def rowTerms (o : Operand) (i : Nat) : List (List FVal) :=
  let sc := o.scale.getD i []
  ((o.data.getD i []).zipIdx).map (fun (p : Nat × Nat) => elemTerms o.fmt (sc.getD (p.2 / 32) 127) p.1)

/-- S_max of R88: the largest scale, 127 without scales or with none but NaN. -/
def opTopScale (o : Operand) : Nat :=
  if tfScaled o.fmt then
    (match (o.scale.flatMap id).filter (fun x => decide (x ≠ 255)) with
     | [] => 127
     | x :: xs => xs.foldl max x)
  else 127

/-- The exponent of a finite element (R88): emin for a subnormal one. An infinity or a NaN has none and is left out of the
measured largest exponent, of which R88 does not say it (DESIGN CHOICE, log entry 99). -/
def elemExp (f : FFmt) (x : Nat) : Option Int :=
  match decF f x with
  | .fin _ _ e => some (e + f.p)
  | _ => none

/-- e_fmtmax of R88. -/
def opTopExp (o : Operand) : Int :=
  if o.fmt = 0x14 then 0
  else if tfScaled o.fmt then mxEmax (tfElem o.fmt)
  else
    match ffOf (tfElem o.fmt) with
    | none => 0
    | some f => ((o.data.flatMap id).filterMap (elemExp f)).foldl max (1 - (f.bias : Int))

/-! The step (R88 to R91, R93, R96, R99, R213) -/

/-- A column of B as its PE rows hold it: the logical K of each and its terms. -/
abbrev PeCol := List (Nat × List FVal)

/-- A column sum of one A row (R90, R93), with the terms that underflowed (R99). -/
structure ColSum where
  sum  : Int
  nan  : Bool
  pinf : Bool
  ninf : Bool
  und  : Nat
  deriving DecidableEq, Repr

/-- The element is not finite (R93). -/
def ColSum.special (c : ColSum) : Bool := c.nan || c.pinf || c.ninf

/-- The window of a profile and its rounding point (R94). -/
def profW (prof : Nat) : Int := if prof = 2 then 48 else 40
/-- The product rounding of a profile (R94). -/
def profRnd (prof : Nat) : Rnd := if prof = 2 then .rne else .rz

/-- A finite value in units of 2^k, rounded on its magnitude; 0 for any other. -/
def signedUnits (mode : Rnd) (v : FVal) (k : Int) : Int :=
  match v with
  | .fin neg m e => let n : Int := roundUnits mode m e k; if neg then -n else n
  | _ => 0

/-- The magnitude of a finite value in units of 2^k, rounded up. R96 rounds the bounds M toward +∞ and does not say at which grain:
here each product of a magnitude lane is rounded up to u·2^-16 before it is summed (DESIGN CHOICE, log entry 98). -/
def ceilUnits (v : FVal) (k : Int) : Nat :=
  match v with
  | .fin _ m e => if k ≤ e then m * 2 ^ (e - k).toNat else (m + 2 ^ (k - e).toNat - 1) / 2 ^ (k - e).toNat
  | _ => 0

/-- One product term added to a column sum (R89, R90, R93). -/
def addTerm (mode : Rnd) (u : Int) (c : ColSum) (v : FVal) : ColSum :=
  match v with
  | .nan => { c with nan := true }
  | .inf false => { c with pinf := true }
  | .inf true => { c with ninf := true }
  | .fin neg m e =>
    let n := roundUnits mode m e u
    { c with sum := if neg then c.sum - n else c.sum + n, und := if m ≠ 0 ∧ n = 0 then c.und + 1 else c.und }

/-- The value zero. -/
def zeroV : FVal := .fin false 0 0

/-- The column sum of a row and a column (R89, R90). -/
def colSum (mode : Rnd) (u : Int) (row : List FVal) (col : PeCol) : ColSum :=
  col.foldl (fun c p => (p.2.map (mulV (row.getD p.1 zeroV))).foldl (addTerm mode u) c)
    { sum := 0, nan := false, pinf := false, ninf := false, und := 0 }

/-- The exact sum of finite values; others add nothing (R213). -/
def finSum (vs : List FVal) : FVal := (vs.filter isFin).foldl addV zeroV
/-- The exact sum of their magnitudes. -/
def finAbs (vs : List FVal) : FVal := finSum (vs.map absV)

/-- A step that has been streamed: element sums by row, the check values and bounds of its rows, of its columns and of the
columns of each block, in units of 2^chk, and its monitors. -/
structure StepRes where
  uexp : Int
  chk  : Int
  row0 : Nat
  sums : List (List ColSum)
  rowK : List Int
  rowM : List Nat
  colK : List Int
  colM : List Nat
  /-- For each block written: its number, its rows, and its columns' check values and bounds. -/
  blks : List (Nat × Nat × List Int × List Nat)
  sat  : Nat
  und  : Nat
  can  : Nat
  deriving DecidableEq, Repr

/-- The terms of column `n` of B that stand for logical position `k`. -/
def termsAt (col : PeCol) (k : Nat) : List FVal := (col.filter (fun p => decide (p.1 = k))).flatMap (·.2)

/-- The check values and bounds of the columns over some rows (R213, R96). -/
def colChecks (rows : List (List FVal)) (cols : List PeCol) (kdim : Nat) (q : Int) : List Int × List Nat :=
  let s := (List.range kdim).map (fun k => finSum (rows.map (fun r => r.getD k zeroV)))
  let a := (List.range kdim).map (fun k => finAbs (rows.map (fun r => r.getD k zeroV)))
  (cols.map (fun col => (col.map (fun p => (p.2.map (fun t => signedUnits .rz (mulV (s.getD p.1 zeroV) t) q)).sum)).sum),
   cols.map (fun col => (col.map (fun p => (p.2.map (fun t => ceilUnits (mulV (a.getD p.1 zeroV) (absV t)) q)).sum)).sum))

/-- The runs of rows that fall in one accumulator block each: block, first row of the step, rows (R213). -/
def blockRuns (row0 n : Nat) : List (Nat × Nat × Nat) :=
  (List.range 16).filterMap (fun b =>
    let lo := max row0 (128 * b)
    let hi := min (row0 + n) (128 * (b + 1))
    if lo < hi then some (b, lo - row0, hi - lo) else none)

/-- A counter of R99. -/
def cap16 (n : Nat) : Nat := min n 65535

/-- The columns of a step that cancel (R99). -/
def cancels (sums : List (List ColSum)) (colM : List Nat) (fs c : Nat) : Nat :=
  ((colM.zipIdx).filter (fun (p : Nat × Nat) =>
    let D := (sums.map (fun (r : List ColSum) => match r[p.2]? with | some x => x.sum | none => 0)).sum.natAbs
    decide (0 < p.1) && (decide (D = 0) || decide (c + fs + Nat.log2 D < Nat.log2 p.1)))).length

/-- A stream step at its rung (R89 to R99, R213): rows of A, columns of B, the largest scales and exponents, the first
accumulator row, and the clamps counted. -/
def streamStep (prof c : Nat) (rows : List (List FVal)) (cols : List PeCol) (kdim : Nat) (topA topB : Nat × Int) (row0 sat : Nat) :
    StepRes :=
  let u : Int := if prof = 3 then 0
    else ((topA.1 : Int) - 127) + ((topB.1 : Int) - 127) + topA.2 + topB.2 + 2 - profW prof
  let fs : Nat := if prof = 3 then 0 else 16
  let q := u - fs
  let sums := rows.map (fun r => cols.map (colSum (profRnd prof) u r))
  let R := (List.range kdim).map (fun k => finSum (cols.flatMap (fun col => termsAt col k)))
  let RA := (List.range kdim).map (fun k => finAbs (cols.flatMap (fun col => termsAt col k)))
  let whole := colChecks rows cols kdim q
  { uexp := u, chk := q, row0 := row0, sums := sums
    rowK := rows.map (fun r => ((r.zipIdx).map (fun p => signedUnits .rz (mulV p.1 (R.getD p.2 zeroV)) q)).sum)
    rowM := rows.map (fun r => ((r.zipIdx).map (fun p => ceilUnits (mulV (absV p.1) (RA.getD p.2 zeroV)) q)).sum)
    colK := whole.1, colM := whole.2
    blks := (blockRuns row0 rows.length).map (fun b =>
      let w := colChecks ((rows.drop b.2.1).take b.2.2) cols kdim q
      (b.1, b.2.2, w.1, w.2))
    sat := if prof = 3 then 0 else cap16 sat
    und := if prof = 3 then 0 else cap16 (sums.map (fun r => (r.map (·.und)).sum)).sum
    can := if prof = 3 then 0 else cap16 (cancels sums whole.2 fs c) }

/-- The tolerance of a line of `n` products (R96), in check units. -/
def tolOf (prof n M : Nat) : Nat :=
  if prof = 3 then 0
  else min (n * (if prof = 2 then 32768 else 65536)) M + (n + 65535) / 65536 * 65536

/-- A difference as a profile compares it: modulo 2^32 under profile 3 (R96). -/
def diffOf (prof : Nat) (x : Int) : Int := if prof = 3 then asInt 32 (wrapInt 32 x) else x

/-- Lines beyond tolerance: line, difference, tolerance. -/
abbrev Beyond := List (Nat × Int × Nat)

/-- The lines of a list of (sum, special, check value, bound) that are beyond tolerance (R93, R96). -/
def beyondOf (prof n fs : Nat) (ls : List (Int × Bool × Int × Nat)) : Beyond :=
  (ls.zipIdx).filterMap (fun (p : (Int × Bool × Int × Nat) × Nat) =>
    let d := diffOf prof (p.1.1 * 2 ^ fs - p.1.2.2.1)
    let t := tolOf prof n p.1.2.2.2
    if p.1.2.1 = false ∧ t < d.natAbs then some (p.2, d, t) else none)

/-- Products of a row line: twice as many for a DS8 operand (R96). -/
def rowProducts (ds8 : Bool) : Nat := if ds8 then 32768 else 16384

/-- The rows of a step beyond tolerance. -/
def stepRows (prof : Nat) (ds8 : Bool) (r : StepRes) : Beyond :=
  beyondOf prof (rowProducts ds8) (r.uexp - r.chk).toNat
    ((r.sums.zip (r.rowK.zip r.rowM)).map (fun p => ((p.1.map (·.sum)).sum, p.1.any ColSum.special, p.2.1, p.2.2)))

/-- The columns of a step beyond tolerance. -/
def stepCols (prof : Nat) (ds8 : Bool) (r : StepRes) : Beyond :=
  beyondOf prof ((if ds8 then 256 else 128) * r.sums.length) (r.uexp - r.chk).toNat
    (((r.colK.zip r.colM).zipIdx).map (fun (p : (Int × Nat) × Nat) =>
      let xs := r.sums.filterMap (fun row => row[p.2]?)
      ((xs.map (·.sum)).sum, xs.any ColSum.special, p.1.1, p.1.2)))

/-- One element is located (R97). -/
def locate (rows cols : Beyond) : Option (Nat × Nat × Int) :=
  match rows, cols with
  | [(i, di, ti)], [(j, dj, tj)] => if (di - dj).natAbs ≤ ti + tj then some (i, j, dj) else none
  | _, _ => none

/-- An integer over 2^fs rounded to nearest, ties to even. -/
def nearestInt (x : Int) (fs : Nat) : Int :=
  let n : Int := roundUnits .rne x.natAbs 0 fs
  if x < 0 then -n else n

/-- One element's column sum changed. -/
def mapSum (r : StepRes) (i j : Nat) (f : Int → Int) : StepRes :=
  { r with sums := (r.sums.zipIdx).map (fun (p : List ColSum × Nat) =>
      if p.2 = i then (p.1.zipIdx).map (fun (e : ColSum × Nat) => if e.2 = j then { e.1 with sum := f e.1.sum } else e.1)
      else p.1) }

/-- The located element corrected (R97). -/
def correctStep (prof : Nat) (r : StepRes) (i j : Nat) (dj : Int) : StepRes :=
  let fs := (r.uexp - r.chk).toNat
  mapSum r i j (fun C => diffOf prof (nearestInt (C * 2 ^ fs - dj) fs))

/-- Bits 31:0 of a column sum upset by a mask (R238). -/
def upsetSum (m : W32) (x : Int) : Int :=
  let lo : Nat := wrapInt 32 x
  x - lo + ((BitVec.ofNat 32 lo ^^^ m).toNat : Int)

/-! The accumulator and check pairs (R91, R213) -/

/-- FP32 sum, RNE. -/
def f32Add (a b : Nat) : Nat := encF ff32 .rne false (addV (decF ff32 a) (decF ff32 b))
/-- FP32 difference, RNE. -/
def f32Sub (a b : Nat) : Nat := encF ff32 .rne false (addV (decF ff32 a) (negV (decF ff32 b)))
/-- `two_sum` of R91. -/
def twoSum (a b : Nat) : Nat × Nat :=
  let s := f32Add a b
  let bb := f32Sub s a
  (s, f32Add (f32Sub a (f32Sub s bb)) (f32Sub b bb))

/-- A value as the pair that enters (R91): x = RNE of V, y = RNE of V − x; an overflow is (±inf, +0). -/
def pairOf (v : FVal) : Nat × Nat :=
  let x := encF ff32 .rne false v
  if isFin (decF ff32 x) then (x, encF ff32 .rne false (addV v (negV (decF ff32 x)))) else (x, 0)

/-- A pair added to a pair (R91). -/
def addPair (h l x y : Nat) : Nat × Nat :=
  let p := twoSum h x
  let t := f32Add (f32Add l y) p.2
  let r := twoSum p.1 t
  if isFin (decF ff32 r.1) then r else (r.1, 0)

/-- The value that a column sum enters with (R91, R93). -/
def sumValue (u : Int) (c : ColSum) : FVal :=
  if c.nan || (c.pinf && c.ninf) then .nan
  else if c.pinf then .inf false
  else if c.ninf then .inf true
  else ofInt false c.sum u

/-- A column sum added to the accumulator pair of its element (R91, R93, R94). An element that a NaN or an infinity enters, or
that holds one, becomes the FP32 sum with low word +0 (log entry 49). -/
def commitPair (prof : Nat) (u : Int) (h l : Nat) (c : ColSum) : Nat × Nat :=
  if prof = 3 then ((h + wrapInt 32 c.sum) % 2 ^ 32, 0)
  else
    let p := pairOf (sumValue u c)
    if c.special || !isFin (decF ff32 h) then (f32Add h p.1, 0) else addPair h l p.1 p.2

/-- A check value added to a check pair (R213). -/
def checkPair (prof : Nat) (q : Int) (h l : Nat) (K : Int) : Nat × Nat :=
  if prof = 3 then ((h + wrapInt 32 K) % 2 ^ 32, 0)
  else
    let p := pairOf (ofInt false K q)
    addPair h l p.1 p.2

/-- A positive value in FP32 rounded toward +∞. -/
def f32Up (m : Nat) (e : Int) : Nat :=
  let b := roundMag ff32 .rz m e
  min (if ltV (decF ff32 b) (.fin false m e) then b + 1 else b) 0x7F800000

/-- A bound with a step's bound added, rounded toward +∞ (R213). -/
def addBound (b : Nat) (M : Nat) (q : Int) : Nat :=
  match addV (decF ff32 b) (.fin false M q) with
  | .fin _ m e => f32Up m e
  | _ => 0x7F800000

/-- The pairs of a block of 256 words, h and l by turns. -/
def pairsOf : List W32 → List (Nat × Nat)
  | h :: l :: r => (h.toNat, l.toNat) :: pairsOf r
  | _ => []

/-- The words of pairs. -/
def wordsOf (ps : List (Nat × Nat)) : List W32 := ps.flatMap (fun p => [BitVec.ofNat 32 p.1, BitVec.ofNat 32 p.2])

/-- The pairs of accumulator rows (R91), from absolute row `r` on, as committed. -/
def commitRows (prof : Nat) (acc : FMap W32) (r : Nat) (x : StepRes) : FMap W32 :=
  let old := pairsOf (dense 0 acc (256 * r) (256 * x.sums.length))
  splice acc (256 * r) (wordsOf ((old.zip (x.sums.flatMap id)).map (fun p => commitPair prof x.uexp p.1.1 p.1.2 p.2)))

/-- One line's check pair and bound with a step's added. -/
def commitLine (prof : Nat) (q : Int) (chk : FMap W32) (key : Nat) (K : Int) (M : Nat) : FMap W32 :=
  let p := checkPair prof q (fget 0 chk key).toNat (fget 0 chk (key + 1)).toNat K
  fsets chk key [BitVec.ofNat 32 p.1, BitVec.ofNat 32 p.2, BitVec.ofNat 32 (addBound (fget 0 chk (key + 2)).toNat M q)]

/-- A tolerance in check units as the drain sums hold it (in units of 2^-1074). -/
def tolUnits (t : Nat) (q : Int) : Nat := t * 2 ^ (q + 1074).toNat

/-- A file with an amount added at a key. -/
def bumpAt (m : FMap Nat) (k n : Nat) : FMap Nat := fset m k (fget 0 m k + n)

/-- The check values, bounds and tolerance terms of a step entered into its blocks (R98, R213); `b0` is block 0 of the seat. -/
def commitChecks (prof : Nat) (ds8 : Bool) (b0 : Nat) (x : StepRes) (m : FMap W32 × FMap Nat) : FMap W32 × FMap Nat :=
  let rows := ((x.rowK.zip x.rowM).zipIdx).foldl (fun (m : FMap W32 × FMap Nat) (p : (Int × Nat) × Nat) =>
    let r := 128 * b0 + x.row0 + p.2
    let key := 256 * (r / 128) + r % 128
    (commitLine prof x.chk m.1 (3 * key) p.1.1 p.1.2,
     bumpAt m.2 key (tolUnits (tolOf prof (rowProducts ds8) p.1.2) x.chk))) m
  x.blks.foldl (fun (m : FMap W32 × FMap Nat) b =>
    let m := ((b.2.2.1.zip b.2.2.2).zipIdx).foldl (fun (m : FMap W32 × FMap Nat) (p : (Int × Nat) × Nat) =>
      let key := 256 * (b0 + b.1) + 128 + p.2
      (commitLine prof x.chk m.1 (3 * key) p.1.1 p.1.2,
       bumpAt m.2 key (tolUnits (tolOf prof ((if ds8 then 256 else 128) * b.2.1) p.1.2) x.chk))) m
    (m.1, bumpAt m.2 (4096 + b0 + b.1) 1)) rows

/-- A block cleared (R231): its pairs, check pairs, bounds and sums. -/
def clearBlock (acc chk : FMap W32) (tol : FMap Nat) (b : Nat) : FMap W32 × FMap W32 × FMap Nat :=
  (acc.filter (fun (p : Nat × W32) => decide (p.1 / 32768 ≠ b)),
   chk.filter (fun (p : Nat × W32) => decide (p.1 / 768 ≠ b)),
   tol.filter (fun (p : Nat × Nat) => decide (p.1 / 256 ≠ b) && decide (p.1 ≠ 4096 + b)))

/-! Drains (R92, R98, R230, R234) -/

/-- The exact real of a pair. -/
def pairValue (p : Nat × Nat) : FVal := addV (decF ff32 p.1) (decF ff32 p.2)
/-- A finite value in units of 2^-1074, exact for every FP32 and every tolerance. -/
def exact1074 (v : FVal) : Int := match v with | .fin neg m e => atExp neg m e (-1074) | _ => 0

/-- What a line of a drain compares: the difference of the sum of its pairs and its check value, and its tolerance, in units of
2^-1120; none for a line that is exempt, or whose bound is infinite, so that no difference is beyond it (R98, R213, R234). -/
def drainLine (prof : Nat) (chk : FMap W32) (tol : FMap Nat) (b line : Nat) (ps : List (Nat × Nat)) : Option (Int × Nat) :=
  let key := 256 * b + line
  let h := (fget 0 chk (3 * key)).toNat
  if prof = 3 then
    some (asInt 32 (wrapInt 32 ((ps.map (fun p => (p.1 : Int))).sum - h)), 0)
  else
    let c := pairValue (h, (fget 0 chk (3 * key + 1)).toNat)
    let M := decF ff32 (fget 0 chk (3 * key + 2)).toNat
    if !isFin (decF ff32 h) || !isFin M || ps.any (fun p => !isFin (decF ff32 p.1) || !isFin (decF ff32 p.2)) then none
    else
      let d := (ps.map (fun p => exact1074 (pairValue p))).sum - exact1074 c
      let bound := (exact1074 M).natAbs
      some (d * 2 ^ 46, fget 0 tol key * 2 ^ 46 + fget 0 tol (4096 + b) * bound)

/-- The lines of a drain beyond tolerance, from the first line on. -/
def drainBeyond (prof : Nat) (chk : FMap W32) (tol : FMap Nat) (b line0 : Nat) (ls : List (List (Nat × Nat))) : Beyond :=
  (ls.zipIdx).filterMap (fun (p : List (Nat × Nat) × Nat) =>
    match drainLine prof chk tol b (line0 + p.2) p.1 with
    | some (d, t) => if t < d.natAbs then some (p.2, d, t) else none
    | none => none)

/-- The rows of a block of pairs. -/
def blockRows (ps : List (Nat × Nat)) : List (List (Nat × Nat)) := piecesOf 128 128 ps
/-- The columns of its rows. -/
def blockCols (rows : List (List (Nat × Nat))) : List (List (Nat × Nat)) :=
  (List.range 128).map (fun j => rows.map (fun r => r.getD j (0, 0)))

/-- A pair corrected at a drain (R234): the exact value less the difference of its column. -/
def correctPair (prof : Nat) (p : Nat × Nat) (dj : Int) : Nat × Nat :=
  if prof = 3 then (wrapInt 32 ((p.1 : Int) - dj), 0)
  else pairOf (addV (pairValue p) (ofInt false (-dj) (-1120)))

/-- The elements and scales a drain writes (R84, R85, R92, R230). An output in a format without block scales rounds with sat = 0 of
R85, which R92 leaves open (DESIGN CHOICE, log entry 100). -/
def drainOut (prof fmt rnd : Nat) (sr : W64) (ps : List (Nat × Nat)) : List Nat × List Nat :=
  let mode := fun e => rndOf rnd (srRandom sr e)
  if prof = 3 then (ps.map (·.1), [])
  else if tfMx fmt then
    let bs := ((piecesOf 32 512 ps).zipIdx).map (fun (p : List (Nat × Nat) × Nat) =>
      mxBlock (tfElem fmt) (fun i => mode (32 * p.2 + i)) (p.1.map pairValue))
    (bs.flatMap (·.2), bs.map (·.1))
  else
    match ffOf (tfElem fmt) with
    | some f => ((ps.zipIdx).map (fun p => encF f (mode p.2) false (pairValue p.1)), [])
    | none => ((ps.zipIdx).map (fun p => toIntFmt (tfElem fmt) (mode p.2) (pairValue p.1)), [])

end Sys2Proof.Machine
end

