-- ==== Sys2Proof/Machine/Matrix.lean ====
section
/-! DEFINITION. The matrix sequencer of a core (R215, R218 to R236): its store, the tiles a microword names, planes, stream steps
and their decisions, the checksum log, drains, and the ends of calls. -/
namespace Sys2Proof.Machine

/-! The store (R222, R241) -/

/-- The words of the vendor library, from store index 0 (R241). -/
def vendorWords : List W64 :=
  [0x1C80000000000000, 0x1800000000000000, 0x1C00000000000000, 0x0602000000000000, 0x0800000000000000,
   0x0E00020000000000, 0x2602000000000000, 0x2000000000000000, 0x1420400000000000, 0x2000000000000000,
   0x3000000000000000, 0x1C00000000000000, 0x0602000000000000, 0x0800000000000000, 0x0E00020000000000,
   0x2602000000000000, 0x2000000000000000, 0x3000000000000000, 0x1420440000000000, 0x3000000000000000]

/-- The routine-table entries of the vendor library (R241). -/
def vendorTable : List W32 := [0x80000000, 0x8000000B, 0x80000012]

/-- The microword at an index of a core's store. -/
def storeAt (x : CoreSt) (i : Nat) : W64 := fget (vendorWords.getD i 0) x.ustore i
/-- An entry of a core's routine table. -/
def routineAt (x : CoreSt) (i : Nat) : W32 := fget (vendorTable.getD i 0) x.rtab i

/-- No call of either seat runs or is queued (R214). -/
def CoreSt.idlePoint (x : CoreSt) : Bool := x.run.isNone && x.calls.isEmpty

/-! The running call -/

/-- The running call of a core replaced. -/
def putRun (s : State) (core : Nat) (r : ArrayRun) : State :=
  let x := s.core core
  s.setCore core { x with run := some r }

/-- A cause of R220 stops the running call (R219): from here on it commits nothing, so its uncommitted steps are squashed
(R233). -/
def stopRun (s : State) (core : Nat) (r : ArrayRun) (reason idx rung row col status : Nat) : State :=
  putRun s core { r with stop := some (reason, idx, rung, row, col, status) }

/-- The sequencer at an index: past the store, or at an illegal microword, the call stops (R62, R223). -/
def enterIdx (s : State) (core : Nat) (r : ArrayRun) (i : Nat) : State :=
  if 16384 ≤ i then stopRun s core r 0x12 16383 0 0 0 0
  else
    match decodeMicro (storeAt (s.core core) i) with
    | none => stopRun s core { r with idx := i } 0x10 i 0 0 0 0
    | some _ => putRun s core { r with idx := i }

/-- What a microword comes to: a cause of R220, a wait, or a state with the index it goes on at (none: the call has
returned). -/
abbrev MicroRes := Except Nat (Option (State × Option Nat))

/-- A microword has started; the next one follows. -/
def goOn (s : State) (r : ArrayRun) : MicroRes := .ok (some (s, some (r.idx + 1)))
/-- A microword waits. -/
def microWait : MicroRes := .ok none

/-! Tiles named by microwords (R224, R254) -/

/-- The tiles a source field names: `n` of them from its first (R224, R228). -/
def tileRefs (c : Ctx) (src : BitVec 9) (n : Nat) : Except Nat (List TileRef) :=
  let num := (fld src 0 8).toNat
  if bit src 8 then
    if num / 64 ≠ 0 then .error 0x16
    else
      let m := num % 8
      match fget? c.tiles.share.rings m with
      | none => .error 0x13
      | some d =>
        if d.depth < num / 8 + n then .error 0x13
        else .ok ((List.range n).map (fun i =>
          { ring := true, num := m, ent := (fget 0 c.tiles.head m + num / 8 + i) % d.depth }))
  else if (List.range n).all (fun i => (fget? c.tiles.share.slots (num + i)).isSome) then
    .ok ((List.range n).map (fun i => { ring := false, num := num + i, ent := 0 }))
  else .error 0x13

/-- The declaration of a tile. -/
def refDecl (c : Ctx) (t : TileRef) : TileDecl := cmdDecl c t.ring t.num
/-- The state of a tile. -/
def refSt (c : Ctx) (t : TileRef) : TileState := if t.ring then ringSt c.tiles t.num t.ent else slotSt c.tiles t.num
/-- A tile's state set. -/
def setRef (ts : Tiles) (t : TileRef) (x : TileState) : Tiles := setDest ts t.ring t.num t.ent x

/-- The slots a plane keeps draining (R226, R231). -/
def planeSlots (p : Plane) : List Nat :=
  (if !p.ring && p.kept then [p.num] else []) ++ (if p.sp && p.metaKept then [p.metaSlot] else [])
/-- The slots the running call reads (R254). -/
def heldSlots (r : ArrayRun) : List Nat :=
  (r.active.toList ++ r.shadow.toList).flatMap planeSlots
    ++ r.steps.flatMap (fun st => (st.srcs.filter (fun t => !t.ring)).map (·.num))

/-- A microword that needs a tile ready accepts it (R254): ready, or draining only for readers of the same call. -/
def accepts (c : Ctx) (r : ArrayRun) (t : TileRef) : Bool :=
  match refSt c t with
  | .ready => true
  | .draining n => !t.ring && decide (n = ((heldSlots r).filter (fun x => decide (x = t.num))).length)
  | _ => false

/-- Readers added to slots. -/
def holdSlots (t : Tiles) (ns : List Nat) : Tiles := ns.foldl (fun t n => setSlot t n (addReader (slotSt t n))) t
/-- Readers taken from slots. -/
def freeSlots (t : Tiles) (ns : List Nat) : Tiles := ns.foldl (fun t n => setSlot t n (dropReader (slotSt t n))) t

/-- The slots among some tiles. -/
def slotsIn (ts : List TileRef) : List Nat := (ts.filter (fun t => !t.ring)).map (·.num)

/-- The bytes of a tile as the matrix path reads them. -/
def refBytes (s : State) (k : Nat) (t : TileRef) : List Byte :=
  let d := refDecl (s.ctx k) t
  localBytes s k 2 (d.entry t.ent) d.foot

/-- A tile's rows as stored, from its bytes. -/
def rowsOf (d : TileDecl) (bs : List Byte) (n : Nat) : Operand :=
  let p := tileParts { d with gloved := true } bs
  tileRows d.fmt p.1 (if d.gloved then p.2.2 else []) n

/-- A format admitted as A by a profile (R94, R226). -/
def admitA (prof fmt : Nat) : Bool := if prof = 3 then decide (fmt = 5) else tfWide fmt || tfMx fmt
/-- A format admitted as B. -/
def admitB (prof fmt : Nat) : Bool := admitA prof fmt || (decide (prof ≠ 3) && decide (fmt = 0x14))

/-! Planes (R212, R226) -/

/-- The selections of a column from its row of the meta slot (R226); none where a nibble breaks its condition. -/
def columnSel (bs : List Byte) (n : Nat) : Option (List Nat) :=
  let gs := (List.range 64).map (fun g =>
    let b := (bs.getD (32 * n + g / 2) 0).toNat / 16 ^ (g % 2) % 16
    (4 * g + b % 4, 4 * g + b / 4))
  if gs.all (fun p => decide (p.1 < p.2)) then some (gs.flatMap (fun p => [p.1, p.2])) else none

/-- A plane loaded from its source at a rung (R226). -/
def loadPlane (s : State) (k : Nat) (src : TileRef) (sp : Bool) (meta_ rung : Nat) (e5 : Bool) : Except Nat Plane :=
  let c := s.ctx k
  let d := refDecl c src
  let climb := tfWide d.fmt
  let o := narrowOp (rowsOf d (refBytes s k src) 128) climb rung e5
  let sel := if sp then
      let ms := refBytes s k { ring := false, num := meta_, ent := 0 }
      (List.range 128).foldr (fun n (r : Option (List (List Nat))) =>
        match columnSel ms n, r with
        | some x, some xs => some (x :: xs)
        | _, _ => none) (some [])
    else some []
  match sel with
  | none => .error 0x16
  | some sl =>
    .ok { ring := src.ring, num := src.num, ent := src.ent, sp := sp, metaSlot := meta_, climb := climb, kept := true,
          rung := rung, fmt := o.fmt, data := o.data, scale := o.scale, sel := sl, sat := o.sat }

/-- The plane's narrowed operand. -/
def Plane.op (p : Plane) : Operand := { fmt := p.fmt, data := p.data, scale := p.scale, sat := p.sat }
/-- The columns of B in the PEs (R212). -/
def Plane.cols (p : Plane) : List PeCol :=
  (List.range 128).map (fun n => (if p.sp then p.sel.getD n [] else List.range 128).zip (rowTerms p.op n))
/-- The source of a plane. -/
def Plane.src (p : Plane) : TileRef := { ring := p.ring, num := p.num, ent := p.ent }
/-- A plane that climbs: wide, and its source retained (R232). -/
def Plane.climbs (p : Plane) : Bool := p.climb && p.kept && p.metaKept

/-! The checksum log and the evidence (R215, R237, R373 to R375) -/

/-- The physical column that serves a column (R376). -/
def physCol (m : W64) (j : Nat) : Nat :=
  if bit m 8 ∧ (fld m 0 8).toNat = j then 130 else if bit m 17 ∧ (fld m 9 8).toNat = j then 131 else j

/-- A location adds to the evidence of the physical column that computed the element (R215, R375). -/
def addEvidence (s : State) (core j : Nat) : State :=
  let x := relOf s core
  let p := physCol x.mapped j
  let v := fget 0 x.evid p
  let n := (fld v 0 2).toNat
  let v1 : BitVec 8 := BitVec.ofNat 8 (v.toNat / 4 * 4 + min 3 (n + 1))
  setRel s core { x with evid := fset x.evid p (if n = 1 then v1 ||| 0x80 else v1) }

/-- One entry of the checksum log (R237, R374), traced and a trigger source. -/
def logCheck (s : State) (core : Nat) (r : ArrayRun) (kind rung row col lines : Nat) (pcol : Nat) : State :=
  let x := relOf s core
  let c := s.ctx r.ctx
  let lo : W64 := BitVec.ofNat 64 (2 ^ 63 + kind % 8 * 2 ^ 60 + rung % 4 * 2 ^ 58 + row % 2048 * 2 ^ 45 + col % 128 * 2 ^ 38
    + min lines 63 * 2 ^ 32 + r.call.seq.toNat)
  let hi : W64 := BitVec.ofNat 64 (c.run.launch % 2 ^ 32 + pcol % 256 * 2 ^ 32 + c.run.bank % 2 * 2 ^ 40)
  let s1 := setRel s core { x with
    cklog := fset x.cklog (x.written % 64) { lo := lo, hi := hi, ctx := r.ctx }
    written := x.written + 1 }
  let d := dieOf core
  raiseSource (traceAll s1 d 5 c.run.launch (recordBytes (traceHead s1 d (physOf s core) 0 5)
    (bytesOf 8 lo.toNat ++ bytesOf 8 hi.toNat) 32)) d 16

/-! Decisions (R232, R233, R236) -/

/-- The check lines of a comparison: the located element, or the lowest row and column beyond. -/
structure Verdict where
  rows : Beyond
  cols : Beyond
  at_  : Option (Nat × Nat × Int)

/-- The row of the log and the report. -/
def Verdict.row (v : Verdict) : Nat := match v.rows with | (i, _, _) :: _ => i | [] => 0
/-- The column. -/
def Verdict.col (v : Verdict) : Nat := match v.cols with | (j, _, _) :: _ => j | [] => 0
/-- LINES. -/
def Verdict.lines (v : Verdict) : Nat := v.rows.length + v.cols.length
/-- A line is beyond tolerance. -/
def Verdict.bad (v : Verdict) : Bool := !v.rows.isEmpty || !v.cols.isEmpty

/-- The comparison of a step (R96, R97). -/
def judge (prof : Nat) (ds8 : Bool) (x : StepRes) : Verdict :=
  let rows := stepRows prof ds8 x
  let cols := stepCols prof ds8 x
  { rows := rows, cols := cols, at_ := locate rows cols }

/-- Evidence and the physical column of a located element; 0xFF without one (R215, R374). -/
def evidenceOf (s : State) (core : Nat) (v : Verdict) : State × Nat :=
  match v.at_ with
  | some (_, j, _) => (addEvidence s core j, physCol (relOf s core).mapped j)
  | none => (s, 255)

/-- DTCNT counts of a context (R236). -/
def bumpDt (s : State) (k i : Nat) (f : W64 → W64) : State :=
  let c := s.ctx k
  s.setCtx k { c with ctr := { c.ctr with dtcnt := fset c.ctr.dtcnt i (f (fget 0 c.ctr.dtcnt i)) } }

/-- A detour counted. -/
def dtDetour (v : W64) : W64 := putFld v 0 ((fld v 0 32) + 1)
/-- A limit counted. -/
def dtLimit (v : W64) : W64 := putFld v 32 ((fld v 32 32) + 1)

/-- The step at the head of the running call replaced. -/
def putStep (s : State) (core : Nat) (r : ArrayRun) (st : StepRec) : State :=
  putRun s core { r with steps := st :: r.steps.drop 1 }

/-- An armed upset of an element of this attempt (R238, TGT 10). -/
def upsetStep (s : State) (core first : Nat) (x : StepRes) : State × StepRes :=
  let y := s.core core
  let v := y.ckinj
  let row := (fld v 45 11).toNat
  let lo := 128 * first + x.row0
  if bit v 63 ∧ (fld v 61 2).toNat = 2 ∧ lo ≤ row ∧ row < lo + x.sums.length then
    (s.setCore core { y with ckinj := putFld v 63 (0 : BitVec 1) },
     mapSum x (row - lo) (fld v 38 7).toNat (upsetSum (fld v 0 32)))
  else (s, x)

/-- Ring entries popped at the head (R228, R231). -/
def popRing (c : Ctx) (m n : Nat) : Ctx :=
  match fget? c.tiles.share.rings m with
  | none => c
  | some d =>
    let h := fget 0 c.tiles.head m
    let t := (List.range n).foldl (fun t i => setRing t m ((h + i) % d.depth) .empty) c.tiles
    { c with tiles := { t with head := fset t.head m ((h + n) % d.depth) } }

/-- Planes loaded from a tile that has been popped stop being reloadable (R231). -/
def unkeep (ts : List TileRef) (p : Plane) : Plane :=
  let p := if ts.contains p.src then { p with kept := false } else p
  if p.sp ∧ ts.contains { ring := false, num := p.metaSlot, ent := 0 } then { p with metaKept := false } else p

/-- The planes of a call after tiles are popped. -/
def ArrayRun.unkeep (r : ArrayRun) (ts : List TileRef) : ArrayRun :=
  { r with active := r.active.map (Machine.unkeep ts), shadow := r.shadow.map (Machine.unkeep ts) }

/-- The step at the head leaves: its slots are released; an `mmv` goes on with its next weight tile until the last, and then
advances its address (R228, R229, R232). -/
def stepDone1 (s : State) (core : Nat) (r : ArrayRun) (st : StepRec) : State :=
  let c := s.ctx r.ctx
  let leave := fun (c : Ctx) => { c with tiles := freeSlots c.tiles (slotsIn st.srcs) }
  let r1 := { r with steps := r.steps.drop 1 }
  match st.mmv with
  | some (w, n, P, fmt, gl) =>
    if w + 1 < n then putStep s core { r with wtries := 0 } { st with mmv := some (w + 1, n, P, fmt, gl), rung := none, tries := 0, limit := false }
    else
      let F := (tfFoot fmt gl + 255) / 256 * 256
      let c1 := leave c
      putRun (s.setCtx r.ctx { c1 with regs := { c1.regs with p := fset c1.regs.p st.pa (P + BitVec.ofNat 64 (n * F)) } }) core
        { r1 with wtries := 0 }
  | none =>
    let c1 := leave c
    match st.pop, st.srcs with
    | true, t :: _ => putRun (s.setCtx r.ctx (popRing c1 t.num st.srcs.length)) core (r1.unkeep st.srcs)
    | _, _ => putRun (s.setCtx r.ctx c1) core r1

/-- COMMIT (R91, R98, R213, R232, R236). -/
def commitStep (s : State) (core : Nat) (r : ArrayRun) (st : StepRec) (x : StepRes) (rung : Nat) (climb ds8 limit : Bool) : State :=
  let first := (s.ctx r.ctx).tiles.share.accFirst
  let y := s.core core
  let prof := r.call.prof
  let m := commitChecks prof ds8 first x (y.chk, y.tol)
  let s1 := s.setCore core { y with acc := commitRows prof y.acc (128 * first + x.row0) x, chk := m.1, tol := m.2 }
  let s2 := if climb then bumpDt s1 r.ctx rung (· + 1) else s1
  let s3 := if limit then bumpDt s2 r.ctx 3 dtLimit else s2
  let r1 := if st.mmv.isNone then { r with active := r.active.map (fun p => { p with sat := 0, used := true }) } else r
  stepDone1 s3 core r1 st

/-- An attempt reaches its decision (R232): the budgets, then the comparison. A disagreement of the duplicated downcast units over
an operand narrowed for it (R213; log entry 96) locates no element and goes to recompute. -/
def decideAttempt (s : State) (core : Nat) (r : ArrayRun) (st : StepRec) (x0 : StepRes) (rung : Nat) (climb ds8 : Bool) : State :=
  let prof := r.call.prof
  let first := (s.ctx r.ctx).tiles.share.accFirst
  let u := upsetStep s core first x0
  let y := u.1.core core
  let apart := y.disagree && climb
  let s := u.1.setCore core { y with disagree := false }
  let x := u.2
  let b := fun i => st.bud.getD i 65535
  let beyond := decide (b 0 < x.sat ∨ b 1 < x.und ∨ b 2 < x.can)
  let st := { st with rung := some rung }
  if beyond ∧ climb = true ∧ rung < st.ceil then
    putStep (bumpDt s r.ctx 3 dtDetour) core r { st with rung := some (rung + 1) }
  else if beyond ∧ st.limc = false then
    stopRun (logCheck s core r 7 rung 0 0 0 255) core r 0x03 st.index rung 0 0 0
  else
    let limit := st.limit || beyond
    let v0 := judge prof ds8 x
    let v := if apart then { v0 with at_ := none } else v0
    if !v.bad && !apart then commitStep s core r st x rung climb ds8 limit
    else
      let e := evidenceOf s core v
      let row := x.row0 + v.row
      match v.at_, st.corr with
      | some (i, j, dj), true =>
        commitStep (logCheck e.1 core r 1 rung row v.col v.lines e.2) core r st (correctStep prof x i j dj) rung climb ds8 limit
      | a, _ =>
        if st.tries = 0 then
          putStep (logCheck e.1 core r (if a.isSome then 3 else 4) rung row v.col v.lines e.2) core r
            { st with tries := 1, limit := limit }
        else
          stopRun (logCheck e.1 core r 5 rung row v.col v.lines e.2) core r 0x01 st.index rung row v.col 0

/-- The larger scale and exponent of several operands (R88). -/
def tops (os : List Operand) : Nat × Int :=
  match os with
  | [] => (127, 0)
  | o :: rest => rest.foldl (fun m o => (max m.1 (opTopScale o), max m.2 (opTopExp o))) (opTopScale o, opTopExp o)

/-- The rows of A of a list of operands: one after another, or in pairs along K under a sparse plane (R228). -/
def aRows (sp : Bool) : List Operand → List (List FVal)
  | [] => []
  | a :: rest =>
    let ra := (List.range a.data.length).map (fun i => (rowTerms a i).map (fun t => t.headD zeroV))
    if sp then
      match rest with
      | b :: more =>
        let rb := (List.range b.data.length).map (fun i => (rowTerms b i).map (fun t => t.headD zeroV))
        (ra.zip rb).map (fun p => p.1 ++ p.2) ++ aRows sp more
      | [] => []
    else ra ++ aRows sp rest

/-- An attempt of an `mstrm` step: the plane is brought to the step's rung, the step streamed and judged (R228, R232). -/
def attemptStrm (s : State) (core : Nat) (r : ArrayRun) (st : StepRec) (p : Plane) : State :=
  let c := s.ctx r.ctx
  let rung := st.rung.getD (if p.climbs then max st.start p.rung else st.start)
  let pl : Except Nat Plane := if p.climbs ∧ p.rung ≠ rung then
      (loadPlane s r.ctx p.src p.sp p.metaSlot rung st.e5).map (fun q => { q with sat := if p.used then 0 else q.sat, used := p.used })
    else .ok p
  match pl with
  | .error e => stopRun s core r e st.index 0 0 0 0
  | .ok p =>
    let r := { r with active := some p }
    let os := st.srcs.map (fun t =>
      let d := refDecl c t
      narrowOp (rowsOf d (refBytes s r.ctx t) 128) (tfWide d.fmt) rung st.e5)
    let climb := p.climbs || st.srcs.any (fun t => tfWide (refDecl c t).fmt)
    let x := streamStep r.call.prof (st.bud.getD 3 63) (aRows p.sp os) p.cols (if p.sp then 256 else 128) (tops os)
      (tops [p.op]) (128 * st.blk) ((os.map (·.sat)).sum + p.sat)
    decideAttempt s core r st x rung climb (decide (p.fmt = 0x14))

/-- The runs of a weight tile: its standard footprint (R229, R249). -/
def weightRuns (d : TileDecl) (va : W64) : List (W64 × Nat × Nat) := (runPieces va d.foot 0).flatMap Piece.runs

/-- A weight tile as read verifies: its glove does, and its SOFF is the standard one (R229, R249). -/
def weightVerifies (d : TileDecl) (bs : List Byte) : Bool :=
  footVerifies d bs && (!d.gloved || decide (readSoff d.fmt bs = (tfSoff d.fmt : Int)))

/-- What the reads of a weight tile leave behind them (R266, R270, R347). -/
def noteWeights (s : State) (k core lvl seq : Nat) (free : Bool) (rs : List (W64 × Nat × Nat)) : State :=
  rs.foldl (fun s r => noteRead s k 2 core lvl seq free r.1 r.2.1) s

/-- The resident vectors of an `mmv` at a rung: the first rows of its slot in the row registers, narrowed when the slot's format
climbs, with the largest exponent of the whole operand tile (R88, R212, R229). -/
def loadRows (s : State) (k vec nv rung : Nat) (e5 : Bool) : RowRegs :=
  let src : TileRef := { ring := false, num := vec, ent := 0 }
  let d := refDecl (s.ctx k) src
  let o := narrowOp (rowsOf d (refBytes s k src) 128) (tfWide d.fmt) rung e5
  let v := narrowOp (rowsOf d (refBytes s k src) nv) (tfWide d.fmt) rung e5
  { climb := tfWide d.fmt, rung := rung, fmt := v.fmt, data := v.data, scale := v.scale, sat := v.sat, top := opTopExp o }

/-- The row registers as an operand. -/
def RowRegs.op (x : RowRegs) : Operand := { fmt := x.fmt, data := x.data, scale := x.scale, sat := x.sat }

/-- The row registers at a rung: loaded again from the slot when they climb and stand at another (R232). -/
def rowsAt (s : State) (k : Nat) (st : StepRec) (rung : Nat) : RowRegs :=
  match st.rows with
  | some x => if x.climb ∧ x.rung ≠ rung then loadRows s k st.vec st.nv rung st.e5 else x
  | none => loadRows s k st.vec st.nv rung st.e5

/-- One weight tile of an `mmv` (R229). -/
def attemptMmv (s : State) (core : Nat) (r : ArrayRun) (st : StepRec) (w : Nat) (P : W64) (fmt : Nat) (gl : Bool) : State :=
  let c := s.ctx r.ctx
  let d : TileDecl := { fmt := fmt, gloved := gl, depth := 1, base := 0 }
  let va := P + BitVec.ofNat 64 (w * ((tfFoot fmt gl + 255) / 256 * 256))
  let rs := weightRuns d va
  let free := r.call.needs.isEmpty
  if rs.any (fun p => flipBlocks s c.run.space p.1) then s
  else
    match readRuns s r.ctx 2 c.run.lcore r.call.lvl free rs with
    | .error (status, _) => stopRun s core r 0x18 st.index 0 0 0 status
    | .ok parts =>
      let s := noteWeights s r.ctx c.run.lcore r.call.lvl r.call.seq.toNat free rs
      let bs := patchRuns [] parts
      if !weightVerifies d bs then
        if r.wtries = 0 then putRun s core { r with wtries := 1 } else stopRun s core r 0x17 st.index 0 0 0 1
      else
        let rung := st.rung.getD st.start
        let v := rowsAt s r.ctx st rung
        let b := rowsOf d bs 128
        let cols := (List.range 128).map (fun n => (List.range 128).zip (rowTerms b n))
        let x := streamStep r.call.prof (st.bud.getD 3 63) (aRows false [v.op]) cols 128 (opTopScale v.op, v.top) (tops [b])
          (128 * st.blk + 8 * w) v.sat
        decideAttempt s core r { st with rows := some v } x rung v.climb (decide (fmt = 0x14))

/-- The attempt at the head of the running call's steps (R232, R233). -/
def attempt (s : State) (core : Nat) : State :=
  match (s.core core).run with
  | none => s
  | some r =>
    match r.steps with
    | [] => s
    | st :: _ =>
      if r.stop.isSome then s
      else
      match st.mmv with
      | some (w, _, P, fmt, gl) => attemptMmv s core r st w P fmt gl
      | none =>
        match r.active with
        | some p => attemptStrm s core r st p
        | none => s

/-! Drains (R230, R234) -/

/-- A drain's destination moved. -/
def drainDest (s : State) (k : Nat) (d : DrainRec) (x : TileState) : State := onTiles s k (fun t => setRef t d.dst x)

/-- The comparison of a drain (R98, R234). -/
def judgeDrain (prof : Nat) (y : CoreSt) (b : Nat) (ps : List (Nat × Nat)) : Verdict :=
  let rows := drainBeyond prof y.chk y.tol b 0 (blockRows ps)
  let cols := drainBeyond prof y.chk y.tol b 128 (blockCols (blockRows ps))
  { rows := rows, cols := cols, at_ := locate rows cols }

/-- The output of a drain written, its block cleared when asked, its destination ready (R230, R252). -/
def drainWrite (s : State) (core : Nat) (r : ArrayRun) (d : DrainRec) (b : Nat) (ps : List (Nat × Nat)) : State :=
  let c := s.ctx r.ctx
  let t := refDecl c d.dst
  let o := drainOut r.call.prof t.fmt d.rnd (r.call.sr + BitVec.ofNat 64 d.draw) ps
  let s1 := localWrite s r.ctx (t.entry d.dst.ent) (footOf t r.call.seq (packElems t.fmt o.1) (o.2.map (BitVec.ofNat 8)))
  let s2 := drainDest s1 r.ctx d .ready
  if d.clr then
    let y := s2.core core
    let m := clearBlock y.acc y.chk y.tol b
    s2.setCore core { y with acc := m.1, chk := m.2.1, tol := m.2.2 }
  else s2

/-- The oldest drain of the running call finishes (R230, R234). -/
def drainFinish (s : State) (core : Nat) : State :=
  match (s.core core).run with
  | none => s
  | some r =>
    match r.drains with
    | [] => s
    | d :: rest =>
      if r.stop.isSome then s
      else
      let r := { r with drains := rest }
      let s := putRun s core r
      let b := (s.ctx r.ctx).tiles.share.accFirst + d.blk
      let y := s.core core
      let ps := pairsOf (dense 0 y.acc (32768 * b) 32768)
      let v := judgeDrain r.call.prof y b ps
      if !v.bad then drainWrite s core r d b ps
      else
        let e := evidenceOf s core v
        let row := 128 * d.blk + v.row
        match v.at_, d.corr with
        | some (i, j, dj), true =>
          let s1 := logCheck e.1 core r 2 0 row v.col v.lines e.2
          let p := correctPair r.call.prof (ps.getD (128 * i + j) (0, 0)) dj
          let z := s1.core core
          let s2 := s1.setCore core { z with acc := fsets z.acc (32768 * b + 256 * i + 2 * j) (wordsOf [p]) }
          drainWrite s2 core r d b (ps.set (128 * i + j) p)
        | _, _ =>
          stopRun (drainDest (logCheck e.1 core r 6 0 row v.col v.lines e.2) r.ctx d .empty) core r 0x02 d.index 0 row v.col 0

/-! Ends of calls (R219 to R221) -/

/-- A context's matrix command leaves, and tl with it (R219). -/
def endMatrix (s : State) (k : Nat) (seq : W32) : State :=
  match (s.ctx k).cmds.find? (fun x => decide (x.seq = seq) && decide (x.path = 2)) with
  | some x => endCmd s k x
  | none => s

/-- The running call of a core is over: drains in progress fail, slots it was reading are left, the array is free. -/
def clearRun (s : State) (core : Nat) (r : ArrayRun) : State :=
  let s1 := r.drains.foldl (fun s d => drainDest s r.ctx d .empty) s
  let s2 := onTiles s1 r.ctx (fun t => freeSlots t (heldSlots r))
  let x := s2.core core
  sampleFor (endMatrix (s2.setCore core { x with run := none }) r.ctx r.call.seq) r.ctx 4 r.call.t0

/-- The cause a reason raises (R220). -/
def reasonCause (reason : Nat) : TrapCode := if reason ≤ 2 then 0x11 else if reason = 3 then 0x12 else 0x17

/-- The detail word of R220. -/
def matrixDetail (reason idx rung row col : Nat) : W64 :=
  BitVec.ofNat 64 (reason % 256 + idx % 16384 * 2 ^ 8 + row % 2048 * 2 ^ 22 + col % 128 * 2 ^ 33 + rung % 4 * 2 ^ 40)

/-- `mabort` of a context: its running and queued calls end without a report (R221). -/
def abortCalls (s : State) (k : Nat) : State :=
  let core := (s.ctx k).run.lcore
  let s1 := match (s.core core).run with
    | some r => if r.ctx = k then clearRun s core r else s
    | none => s
  let c := s1.ctx k
  let seqs := (c.cmds.filter (fun x => decide (x.path = 2))).map (·.seq)
  let x := s1.core core
  let s2 := (s1.setCore core { x with calls := x.calls.filter (fun i => decide (i ≠ k)) }).setCtx k
    { c with call := none, savedCall := none }
  seqs.foldl (fun s q => endMatrix s k q) s2

/-! Starts (R218, R240) -/

/-- The call state at the start of a call (R218). -/
def callRun (k : Nat) (det : Bool) (a : Call) : ArrayRun :=
  { ctx := k, call := a, idx := 0, start := a.start, ceil := a.ceil, e5 := a.e5, limc := a.limc,
    corr := !a.nocorr && !det }

/-- The place in the order of issue of a context's next call: one that goes on after an exchange was issued before a queued one
(R218, R240). -/
def callOrd (c : Ctx) : Nat :=
  match c.savedCall, c.call with
  | some r, _ => r.call.ord
  | none, some a => a.ord
  | none, none => 0

/-- The context whose call the free array starts (R218, R242): a determinism-flagged one, else the one issued earliest. -/
def nextCall (s : State) (core : Nat) : Option Nat :=
  let q := (s.core core).calls
  match q.find? (fun k => (s.ctx k).run.det) with
  | some k => some k
  | none => q.foldl (fun (r : Option Nat) k => match r with
      | some j => if callOrd (s.ctx k) < callOrd (s.ctx j) then some k else some j
      | none => some k) none

/-- A list without its first `k`. -/
def eraseFirst (k : Nat) : List Nat → List Nat
  | [] => []
  | x :: xs => if x = k then xs else x :: eraseFirst k xs

/-- A queued call starts, or a saved one goes on (R218, R222, R240). -/
def startCall (s : State) (core : Nat) : State :=
  let x := s.core core
  match x.run, nextCall s core with
  | none, some k =>
    let c := s.ctx k
    let take := fun (s : State) => let x := s.core core; s.setCore core { x with calls := eraseFirst k x.calls }
    match c.savedCall with
    | some r => if x.busyMap ≠ 0 then s else putRun (take (s.setCtx k { c with savedCall := none })) core { r with reload := true, park := false }
    | none =>
      match c.call with
      | none => take s
      | some a =>
        if !needsMet s k 2 a.needs || decide (x.busyMap ≠ 0) then s
        else
          let s1 := take (s.setCtx k { c with call := none, regs := { c.regs with p := a.p } })
          let e := routineAt x a.routine
          let r := callRun k c.run.det a
          if bit e 31 then enterIdx s1 core r (fld e 0 14).toNat
          else stopRun s1 core r 0x11 0 0 0 0 0
  | _, _ => s

/-- A plane reloaded from its recorded source after an exchange (R240): waits while the source is not ready, fails when it has
been freed, though something else be there by now. -/
def reloadPlane (s : State) (k : Nat) (r : ArrayRun) (p : Option Plane) : Except Nat (Option (Option Plane)) :=
  match p with
  | none => .ok (some none)
  | some p =>
    let c := s.ctx k
    let ts := p.src :: (if p.sp then [{ ring := false, num := p.metaSlot, ent := 0 }] else [])
    if !p.kept || !p.metaKept || ts.any (fun t => decide (refSt c t = .empty)) then .error 0x16
    else if !ts.all (accepts c r) then .ok none
    else
      (loadPlane s k p.src p.sp p.metaSlot p.rung r.e5).map (fun q =>
        some (some { q with sat := if p.used then 0 else q.sat, used := p.used }))

/-- The planes of a resumed call are loaded again before its next microword (R240). -/
def reloadRun (s : State) (core : Nat) (r : ArrayRun) : State :=
  let bare := { r with active := none, shadow := none }
  match reloadPlane s r.ctx bare r.active, reloadPlane s r.ctx bare r.shadow with
  | .error e, _ => stopRun s core bare e r.idx 0 0 0 0
  | _, .error e => stopRun s core bare e r.idx 0 0 0 0
  | .ok (some a), .ok (some b) =>
    let r1 := { r with active := a, shadow := b, reload := false }
    putRun (onTiles s r.ctx (fun t => holdSlots t ((a.toList ++ b.toList).flatMap planeSlots))) core r1
  | _, _ => s

/-- The running call of the core whose turn it is takes a microword (R223): waits leave everything as it is. -/
def microStep (s : State) (f : Nat → ArrayRun → MicroRes) : Host.Outcome State Fault Refusal :=
  match s.turn with
  | .issue _ | .units _ => .next s
  | .micro core =>
    match (s.core core).run with
    | none => .next s
    | some r =>
      if r.stop.isSome || r.returned || r.park then .next s
      else if r.reload then .next (reloadRun s core r)
      else
        match f core r with
        | .error e => .next (stopRun s core r e r.idx 0 0 0 0)
        | .ok none => .next s
        | .ok (some (s1, none)) => .next s1
        | .ok (some (s1, some i)) =>
          match (s1.core core).run with
          | some r1 => .next (enterIdx s1 core r1 i)
          | none => .next s1

/-- Every earlier microword of the call has finished (R231). -/
def callQuiet (r : ArrayRun) : Bool := r.steps.isEmpty && r.drains.isEmpty && !r.loading

end Sys2Proof.Machine
end

