-- ==== Sys2Proof/Machine/Micro.lean ====
section
/-! DEFINITION. The microwords (R223 to R231), `mabort` (R221), and the events of a matrix call (R218 to R220, R226, R230,
R232). -/
namespace Sys2Proof.Machine

/-- `mabort`: the seat's running and queued calls end without a report (R221). -/
def doMabort (s : State) : Res State :=
  .ok (abortCalls s s.me)

/-- `mabort` run by itself: its effect settled as `complete` says. -/
def execMabort (s : State) : Host.Outcome State Fault Refusal := complete s (doMabort s)

/-- `mnop`: nothing (R231). -/
def execMicrowordMnop (s : State) : Host.Outcome State Fault Refusal :=
  microStep s (fun _ r => goOn s r)

/-- The single tile a field names. -/
def oneRef (c : Ctx) (src : BitVec 9) : Except Nat TileRef :=
  match tileRefs c src 1 with
  | .error e => .error e
  | .ok ts => .ok (ts.headD { ring := false, num := 0, ent := 0 })

/-- The slot that a meta field names: a bare one of format n8 (R226). -/
def metaRef (c : Ctx) (sp : Bool) (m : Nat) : Except Nat (List TileRef) :=
  if !sp then (if m = 0 then .ok [] else .error 0x16)
  else
    match fget? c.tiles.share.slots m with
    | some d => if d.fmt = 6 ∧ d.gloved = false then .ok [{ ring := false, num := m, ent := 0 }] else .error 0x13
    | none => .error 0x13

/-- `mldw`: the stationary operand is loaded into the shadow plane (R226). -/
def execMldw (src : BitVec 9) (sp : BitVec 1) (metaSlot : BitVec 8) (s : State) : Host.Outcome State Fault Refusal :=
  microStep s (fun core r =>
    let c := s.ctx r.ctx
    match metaRef c (decide (sp = 1)) metaSlot.toNat, oneRef c src with
    | .error e, _ => .error e
    | _, .error e => .error e
    | .ok ms, .ok t =>
      if !admitB r.call.prof (refDecl c t).fmt then .error 0x14
      else if r.shadow.isSome || r.loading || !(t :: ms).all (accepts c r) then microWait
      else
        (loadPlane s r.ctx t (decide (sp = 1)) metaSlot.toNat r.start r.e5).bind (fun p =>
          let r1 := { r with shadow := some p, loading := true }
          goOn (putRun (onTiles s r.ctx (fun x => holdSlots x (planeSlots p))) core r1) r1))

/-- `mswp`: the shadow plane becomes active once every step on the active one has committed (R227). -/
def execMswp (s : State) : Host.Outcome State Fault Refusal :=
  microStep s (fun core r =>
    if r.shadow.isNone then .error 0x16
    else if !r.steps.isEmpty || r.loading then microWait
    else
      let r1 := { r with active := r.shadow, shadow := none }
      goOn (putRun (onTiles s r.ctx (fun x => freeSlots x (r.active.toList.flatMap planeSlots))) core r1) r1)

/-- A stream step as it starts, with the ladder, the budgets and the policy of the call (R231, R232). -/
def newStep (r : ArrayRun) (srcs : List TileRef) (blk tiles : Nat) (pop : Bool) : StepRec :=
  { mmv := none, srcs := srcs, blk := blk, tiles := tiles, pop := pop, index := r.idx, start := r.start, ceil := r.ceil,
    e5 := r.e5, limc := r.limc, corr := r.corr, bud := r.bud }

/-- A step starts: its slots drain until it commits (R228, R229). -/
def beginStep (s : State) (core : Nat) (r : ArrayRun) (st : StepRec) : MicroRes :=
  let r1 := { r with steps := r.steps ++ [st] }
  goOn (putRun (onTiles s r.ctx (fun x => holdSlots x (slotsIn st.srcs))) core r1) r1

/-- `mstrm`: a stream step of 128·t rows starts (R228). -/
def execMstrm (src : BitVec 9) (tiles : BitVec 3) (blk : BitVec 4) (pop : BitVec 1) (s : State) : Host.Outcome State Fault Refusal :=
  microStep s (fun core r =>
    let c := s.ctx r.ctx
    let t := tiles.toNat + 1
    if pop = 1 ∧ (bit src 8 = false ∨ (fld src 3 3).toNat ≠ 0) then .error 0x16
    else
      match r.active with
      | none => .error 0x16
      | some p =>
        match tileRefs c src (if p.sp then 2 * t else t) with
        | .error e => .error e
        | .ok ts =>
          if !ts.all (fun x => admitA r.call.prof (refDecl c x).fmt) then .error 0x14
          else if c.tiles.share.accCnt < blk.toNat + t then .error 0x15
          else if !ts.all (accepts c r) || decide (2 ≤ r.steps.length) || r.steps.any (fun x => x.mmv.isSome) then microWait
          else beginStep s core r (newStep r ts blk.toNat t (decide (pop = 1))))

/-- The tile format of a weight-tile code of `mmv`, admitted by a profile (R229). -/
def weightFmt (prof wfmt : Nat) (gl : Bool) : Except Nat Nat :=
  if prof = 3 then (if wfmt = 0 then .ok 5 else .error 0x14)
  else
    match wfmt with
    | 7 => .ok 2
    | 9 => if gl then .ok 0x10 else .error 0x14
    | 10 => if gl then .ok 0x11 else .error 0x14
    | 11 => if gl then .ok 0x12 else .error 0x14
    | 12 => if gl then .ok 0x14 else .error 0x14
    | _ => .error 0x14

/-- `mmv`: one step for each weight tile, over resident vectors (R229). -/
def execMmv (vec : BitVec 8) (nv pa : BitVec 3) (cnt : BitVec 8) (blk wfmt : BitVec 4) (gl : BitVec 1) (s : State) : Host.Outcome State Fault Refusal :=
  microStep s (fun core r =>
    let c := s.ctx r.ctx
    let n := cnt.toNat + 1
    let v := nv.toNat + 1
    match fget? c.tiles.share.slots vec.toNat, weightFmt r.call.prof wfmt.toNat (decide (gl = 1)) with
    | none, _ => .error 0x13
    | _, .error e => .error e
    | some d, .ok fmt =>
      let t : TileRef := { ring := false, num := vec.toNat, ent := 0 }
      if !admitA r.call.prof d.fmt then .error 0x14
      else if 128 * c.tiles.share.accCnt < 128 * blk.toNat + 8 * (n - 1) + v then .error 0x15
      else if !accepts c r t || !r.steps.isEmpty then microWait
      else
        beginStep s core r { newStep r [t] blk.toNat 1 false with
          mmv := some (0, n, fget 0 c.regs.p pa.toNat, fmt, decide (gl = 1)), pa := pa.toNat, vec := vec.toNat, nv := v
          rows := some (loadRows s r.ctx vec.toNat v r.start r.e5) })

/-- The destination of a drain (R230): a slot, or the tail entry of a ring. -/
def drainRef (c : Ctx) (dst : BitVec 9) : Except Nat TileRef :=
  let num := (fld dst 0 8).toNat
  if bit dst 8 then
    if num / 8 ≠ 0 then .error 0x16
    else if (fget? c.tiles.share.rings num).isNone then .error 0x13
    else .ok { ring := true, num := num, ent := ringTail c.tiles num }
  else if (fget? c.tiles.share.slots num).isNone then .error 0x13
  else .ok { ring := false, num := num, ent := 0 }

/-- An output format admitted by a profile (R82, R230). -/
def admitOut (prof fmt : Nat) : Bool :=
  if prof = 3 then decide (fmt = 4) else decide (fmt ≠ 4 ∧ fmt ≠ 5 ∧ fmt ≠ 0x14)

/-- A step of the call adds into block `b` (R228, R229). -/
def stepTouches (b : Nat) (st : StepRec) : Bool :=
  match st.mmv with
  | some (_, n, _, _, _) => decide (st.blk ≤ b ∧ 128 * b < 128 * st.blk + 8 * (n - 1) + st.nv)
  | none => decide (st.blk ≤ b ∧ b < st.blk + st.tiles)

/-- `mdrn`: an accumulator block starts to drain into an empty tile (R230). -/
def execMdrn (blk : BitVec 4) (dst : BitVec 9) (rnd : BitVec 2) (clr : BitVec 1) (s : State) : Host.Outcome State Fault Refusal :=
  microStep s (fun core r =>
    let c := s.ctx r.ctx
    if rnd = 3 then .error 0x16
    else
      match drainRef c dst with
      | .error e => .error e
      | .ok t =>
        if !admitOut r.call.prof (refDecl c t).fmt then .error 0x14
        else if c.tiles.share.accCnt ≤ blk.toNat then .error 0x15
        else if r.steps.any (stepTouches blk.toNat) || !r.drains.isEmpty || decide (refSt c t ≠ .empty) then microWait
        else
          let d : DrainRec := { blk := blk.toNat, dst := t, rnd := rnd.toNat, clr := decide (clr = 1), draw := r.draw,
                                index := r.idx, corr := r.corr }
          let r1 := { r with drains := r.drains ++ [d], draw := if rnd = 2 then r.draw + 1 else r.draw }
          let s1 := drainDest s r.ctx d .filling
          let s2 := if t.ring then
              onTiles s1 r.ctx (fun x => { x with tail := fset x.tail t.num (ringNext c t.num t.ent) })
            else s1
          goOn (putRun s2 core r1) r1)

/-- `mclr`: blocks are cleared once the work on them is finished (R231). -/
def execMclr (blk nb : BitVec 4) (s : State) : Host.Outcome State Fault Refusal :=
  microStep s (fun core r =>
    let h := (s.ctx r.ctx).tiles.share
    let bs := (List.range (nb.toNat + 1)).map (blk.toNat + ·)
    if h.accCnt < blk.toNat + nb.toNat + 1 then .error 0x15
    else if bs.any (fun b => r.steps.any (stepTouches b) || r.drains.any (fun d => decide (d.blk = b))) then microWait
    else
      let x := s.core core
      let m := bs.foldl (fun (m : FMap W32 × FMap W32 × FMap Nat) b => clearBlock m.1 m.2.1 m.2.2 (h.accFirst + b)) (x.acc, x.chk, x.tol)
      goOn (s.setCore core { x with acc := m.1, chk := m.2.1, tol := m.2.2 }) r)

/-- The index after the `mend` that closes a loop opened before `i` (R231); past the store when there is none. -/
def skipLoop (x : CoreSt) : (fuel depth i : Nat) → Nat
  | 0, _, i => i
  | fuel + 1, depth, i =>
    let mop := (fld (storeAt x i) 58 6).toNat
    if mop = 7 then skipLoop x fuel (depth + 1) (i + 1)
    else if mop = 8 then (if depth = 0 then i + 1 else skipLoop x fuel (depth - 1) (i + 1))
    else skipLoop x fuel depth (i + 1)

/-- `mloop`: a microloop opens; count 0 skips it (R231). -/
def execMloop (pc : BitVec 3) (im : BitVec 1) (cnt : BitVec 16) (s : State) : Host.Outcome State Fault Refusal :=
  microStep s (fun core r =>
    if (im = 1 ∧ pc ≠ 0) ∨ 4 ≤ r.loops.length then .error 0x16
    else
      let n := if im = 1 then cnt.toNat else (fld (fget 0 (s.ctx r.ctx).regs.p pc.toNat) 0 32).toNat
      if n = 0 then .ok (some (s, some (skipLoop (s.core core) (16384 - (r.idx + 1)) 0 (r.idx + 1))))
      else
        let r1 := { r with loops := (r.idx + 1, n) :: r.loops }
        goOn (putRun s core r1) r1)

/-- `mend`: the innermost microloop closes or repeats (R231). -/
def execMend (s : State) : Host.Outcome State Fault Refusal :=
  microStep s (fun core r =>
    match r.loops with
    | [] => .error 0x16
    | (a, n) :: rest =>
      if n = 1 then
        let r1 := { r with loops := rest }
        goOn (putRun s core r1) r1
      else .ok (some (putRun s core { r with loops := (a, n - 1) :: rest }, some a)))

/-- Filled entries of a ring: from the head up to the tail, modulo the depth, a failed one among them (R190, R255). With head and
tail at one entry R255 does not tell a ring filled all round from one with none: it is filled when any of its entries is not
empty (DESIGN CHOICE, log entry 95). -/
def ringFilled (c : Ctx) (m : Nat) : Nat :=
  match fget? c.tiles.share.rings m with
  | none => 0
  | some d =>
    let h := fget 0 c.tiles.head m
    let t := ringTail c.tiles m
    if h = t then (if (List.range d.depth).any (fun e => decide (ringSt c.tiles m e ≠ .empty)) then d.depth else 0)
    else (t + d.depth - h) % d.depth

/-- The tiles `mpop` names (R231). -/
def popRefs (c : Ctx) (src : BitVec 9) (n : Nat) : Except Nat (List TileRef) :=
  if bit src 8 then
    if (fld src 3 5).toNat ≠ 0 then .error 0x16
    else
      let m := (fld src 0 3).toNat
      match fget? c.tiles.share.rings m with
      | none => .error 0x13
      | some d =>
        if ringFilled c m < n then .error 0x16
        else .ok ((List.range n).map (fun i => { ring := true, num := m, ent := (fget 0 c.tiles.head m + i) % d.depth }))
  else if n ≠ 1 then .error 0x16
  else oneRef c src |>.map (fun t => [t])

/-- `mpop`: ring entries are popped or a slot is freed once the steps that read them have committed (R231); it waits at a ring
entry that failed to fill, which is never consumed (R190). -/
def execMpop (src : BitVec 9) (n : BitVec 4) (s : State) : Host.Outcome State Fault Refusal :=
  microStep s (fun core r =>
    let c := s.ctx r.ctx
    match popRefs c src (n.toNat + 1) with
    | .error e => .error e
    | .ok ts =>
      let reads := r.steps.any (fun st => st.srcs.any ts.contains)
        || (r.steps.any (fun st => st.mmv.isNone) && r.active.toList.any (fun p =>
              ts.contains p.src || (p.sp && ts.contains { ring := false, num := p.metaSlot, ent := 0 })))
      if reads || (bit src 8 && ts.any (fun t => decide (refSt c t = .empty))) then microWait
      else
        let c1 := if bit src 8 then popRing c (fld src 0 3).toNat ts.length
          else { c with tiles := setSlot c.tiles (fld src 0 8).toNat .empty }
        let r1 := r.unkeep ts
        goOn (putRun (s.setCtx r.ctx c1) core r1) r1)

/-- `mbud`: the monitor budgets from an active parameter register (R231). -/
def execMbud (pb : BitVec 3) (s : State) : Host.Outcome State Fault Refusal :=
  microStep s (fun core r =>
    let v := fget 0 (s.ctx r.ctx).regs.p pb.toNat
    if (fld v 54 10).toNat ≠ 0 then .error 0x16
    else
      let r1 := { r with bud := [(fld v 0 16).toNat, (fld v 16 16).toNat, (fld v 32 16).toNat, (fld v 48 6).toNat] }
      goOn (putRun s core r1) r1)

/-- `mchk`: correction forbidden, or allowed unless NOCORR or determinism forbids it (R231, R235). -/
def execMchk (nc : BitVec 1) (s : State) : Host.Outcome State Fault Refusal :=
  microStep s (fun core r =>
    let r1 := { r with corr := decide (nc = 0) && !r.call.nocorr && !(s.ctx r.ctx).run.det }
    goOn (putRun s core r1) r1)

/-- `mret`: the call completes once its work is finished (R219, R231). -/
def execMret (s : State) : Host.Outcome State Fault Refusal :=
  microStep s (fun core r => if callQuiet r then .ok (some (putRun s core { r with returned := true }, none)) else microWait)

/-- `mwt`: waits for every earlier microword of the call (R231). -/
def execMwt (s : State) : Host.Outcome State Fault Refusal :=
  microStep s (fun _ r => if callQuiet r then goOn s r else microWait)

/-- `mlad`: the ladder of later stream steps (R231). -/
def execMlad (st cl : BitVec 2) (e5 lc : BitVec 1) (s : State) : Host.Outcome State Fault Refusal :=
  microStep s (fun core r =>
    if st = 3 ∨ cl = 3 ∨ cl < st then .error 0x16
    else
      let r1 := { r with start := st.toNat, ceil := cl.toNat, e5 := decide (e5 = 1), limc := decide (lc = 1) }
      goOn (putRun s core r1) r1)

/-- The free array starts a queued call, or a saved one goes on (R218, R240). -/
def execCallStart (core : Nat) (s : State) : Host.Outcome State Fault Refusal :=
  .next (startCall s core)

/-- A stream step attempt reaches its decision (R232). -/
def execStreamStepDecision (core : Nat) (s : State) : Host.Outcome State Fault Refusal :=
  .next (attempt s core)

/-- A load of the shadow plane finishes (R226, R227). -/
def execPlaneLoadComplete (core : Nat) (s : State) : Host.Outcome State Fault Refusal :=
  match (s.core core).run with
  | some r => .next (putRun s core { r with loading := false })
  | none => .next s

/-- A drain is compared and its output written, or it stops the call (R230, R234). -/
def execDrainComplete (core : Nat) (s : State) : Host.Outcome State Fault Refusal :=
  .next (drainFinish s core)

/-- A call that has returned or stopped ends; a failure makes one report (R219, R220). -/
def execCallEnd (core : Nat) (s : State) : Host.Outcome State Fault Refusal :=
  match (s.core core).run with
  | none => .next s
  | some r =>
    match r.stop with
    | some (reason, idx, rung, row, col, status) =>
      .next (addReport (clearRun s core r) r.ctx
        { cause := reasonCause reason, status := status, kind := 3, lvl := r.call.lvl, seq := r.call.seq, pc := r.call.pc,
          detail := matrixDetail reason idx rung row col, bytes := 0 })
    | none => .next (if r.returned then clearRun s core r else s)

end Sys2Proof.Machine
end

