-- ==== Sys2Proof/Machine/Scalar.lean ====
section
/-! DEFINITION. Scalar arithmetic, compares and constants (R102 to R111, R123). -/
namespace Sys2Proof.Machine

/-- `nop` does nothing (R130). -/
def doNop (s : State) : Res State :=
  .ok s

/-- `nop` run by itself: its effect settled as `complete` says. -/
def execNop (s : State) : Host.Outcome State Fault Refusal := complete s (doNop s)

/-- `add` (R104). -/
def doAdd (d a b : BitVec 6) (w : BitVec 2) (s : State) : Res State :=
  saWord 1 d a b w (fun _ x y => x + y) s

/-- `add` run by itself: its effect settled as `complete` says. -/
def execAdd (d a b : BitVec 6) (w : BitVec 2) (s : State) : Host.Outcome State Fault Refusal := complete s (doAdd d a b w s)

/-- `sub` (R104). -/
def doSub (d a b : BitVec 6) (w : BitVec 2) (s : State) : Res State :=
  saWord 1 d a b w (fun n x y => x + (2 ^ n - y)) s

/-- `sub` run by itself: its effect settled as `complete` says. -/
def execSub (d a b : BitVec 6) (w : BitVec 2) (s : State) : Host.Outcome State Fault Refusal := complete s (doSub d a b w s)

/-- `and` (R104). -/
def doAnd (d a b : BitVec 6) (w : BitVec 2) (s : State) : Res State :=
  saWord 1 d a b w (fun _ x y => x &&& y) s

/-- `and` run by itself: its effect settled as `complete` says. -/
def execAnd (d a b : BitVec 6) (w : BitVec 2) (s : State) : Host.Outcome State Fault Refusal := complete s (doAnd d a b w s)

/-- `or` (R104). -/
def doOr (d a b : BitVec 6) (w : BitVec 2) (s : State) : Res State :=
  saWord 1 d a b w (fun _ x y => x ||| y) s

/-- `or` run by itself: its effect settled as `complete` says. -/
def execOr (d a b : BitVec 6) (w : BitVec 2) (s : State) : Host.Outcome State Fault Refusal := complete s (doOr d a b w s)

/-- `xor` (R104). -/
def doXor (d a b : BitVec 6) (w : BitVec 2) (s : State) : Res State :=
  saWord 1 d a b w (fun _ x y => x ^^^ y) s

/-- `xor` run by itself: its effect settled as `complete` says. -/
def execXor (d a b : BitVec 6) (w : BitVec 2) (s : State) : Host.Outcome State Fault Refusal := complete s (doXor d a b w s)

/-- `andn`: A and not B (R104). -/
def doAndn (d a b : BitVec 6) (w : BitVec 2) (s : State) : Res State :=
  saWord 1 d a b w (fun n x y => x &&& (2 ^ n - 1 - y)) s

/-- `andn` run by itself: its effect settled as `complete` says. -/
def execAndn (d a b : BitVec 6) (w : BitVec 2) (s : State) : Host.Outcome State Fault Refusal := complete s (doAndn d a b w s)

/-- `shl`: the amount is B modulo n (R104). -/
def doShl (d a b : BitVec 6) (w : BitVec 2) (s : State) : Res State :=
  saWord 1 d a b w (fun n x y => x * 2 ^ (y % n)) s

/-- `shl` run by itself: its effect settled as `complete` says. -/
def execShl (d a b : BitVec 6) (w : BitVec 2) (s : State) : Host.Outcome State Fault Refusal := complete s (doShl d a b w s)

/-- `shr` (R104). -/
def doShr (d a b : BitVec 6) (w : BitVec 2) (s : State) : Res State :=
  saWord 1 d a b w (fun n x y => x / 2 ^ (y % n)) s

/-- `shr` run by itself: its effect settled as `complete` says. -/
def execShr (d a b : BitVec 6) (w : BitVec 2) (s : State) : Host.Outcome State Fault Refusal := complete s (doShr d a b w s)

/-- `sra`: A read signed (R104). -/
def doSra (d a b : BitVec 6) (w : BitVec 2) (s : State) : Res State :=
  saWord 1 d a b w (fun n x y => wrapInt n (asInt n x / (2 : Int) ^ (y % n))) s

/-- `sra` run by itself: its effect settled as `complete` says. -/
def execSra (d a b : BitVec 6) (w : BitVec 2) (s : State) : Host.Outcome State Fault Refusal := complete s (doSra d a b w s)

/-- `rol` within n bits (R104). -/
def doRol (d a b : BitVec 6) (w : BitVec 2) (s : State) : Res State :=
  saWord 1 d a b w (fun n x y => rolNat n x (y % n)) s

/-- `rol` run by itself: its effect settled as `complete` says. -/
def execRol (d a b : BitVec 6) (w : BitVec 2) (s : State) : Host.Outcome State Fault Refusal := complete s (doRol d a b w s)

/-- `mul`, latency 3 (R106). -/
def doMul (d a b : BitVec 6) (w : BitVec 2) (s : State) : Res State :=
  saWord 3 d a b w (fun _ x y => x * y) s

/-- `mul` run by itself: its effect settled as `complete` says. -/
def execMul (d a b : BitVec 6) (w : BitVec 2) (s : State) : Host.Outcome State Fault Refusal := complete s (doMul d a b w s)

/-- `mulh`: the high half of the signed product (R106). -/
def doMulh (d a b : BitVec 6) (w : BitVec 2) (s : State) : Res State :=
  saWord 3 d a b w mulHigh s

/-- `mulh` run by itself: its effect settled as `complete` says. -/
def execMulh (d a b : BitVec 6) (w : BitVec 2) (s : State) : Host.Outcome State Fault Refusal := complete s (doMulh d a b w s)

/-- `mulhn`: the high half of the unsigned product (R106). -/
def doMulhn (d a b : BitVec 6) (w : BitVec 2) (s : State) : Res State :=
  saWord 3 d a b w (fun n x y => x * y / 2 ^ n) s

/-- `mulhn` run by itself: its effect settled as `complete` says. -/
def execMulhn (d a b : BitVec 6) (w : BitVec 2) (s : State) : Host.Outcome State Fault Refusal := complete s (doMulhn d a b w s)

/-- `div`, latency 18; a zero divisor gives all ones (R106). -/
def doDiv (d a b : BitVec 6) (w : BitVec 2) (s : State) : Res State :=
  saWord 18 d a b w divSigned s

/-- `div` run by itself: its effect settled as `complete` says. -/
def execDiv (d a b : BitVec 6) (w : BitVec 2) (s : State) : Host.Outcome State Fault Refusal := complete s (doDiv d a b w s)

/-- `divn` (R106). -/
def doDivn (d a b : BitVec 6) (w : BitVec 2) (s : State) : Res State :=
  saWord 18 d a b w (fun n x y => if y = 0 then 2 ^ n - 1 else x / y) s

/-- `divn` run by itself: its effect settled as `complete` says. -/
def execDivn (d a b : BitVec 6) (w : BitVec 2) (s : State) : Host.Outcome State Fault Refusal := complete s (doDivn d a b w s)

/-- `rem`: A − B · q with q truncated toward zero (R106). -/
def doRem (d a b : BitVec 6) (w : BitVec 2) (s : State) : Res State :=
  saWord 18 d a b w remSigned s

/-- `rem` run by itself: its effect settled as `complete` says. -/
def execRem (d a b : BitVec 6) (w : BitVec 2) (s : State) : Host.Outcome State Fault Refusal := complete s (doRem d a b w s)

/-- `remn` (R106). -/
def doRemn (d a b : BitVec 6) (w : BitVec 2) (s : State) : Res State :=
  saWord 18 d a b w (fun _ x y => if y = 0 then x else x % y) s

/-- `remn` run by itself: its effect settled as `complete` says. -/
def execRemn (d a b : BitVec 6) (w : BitVec 2) (s : State) : Host.Outcome State Fault Refusal := complete s (doRemn d a b w s)

/-- `min`, read signed (R104). -/
def doMin (d a b : BitVec 6) (w : BitVec 2) (s : State) : Res State :=
  saWord 1 d a b w (fun n x y => if asInt n x ≤ asInt n y then x else y) s

/-- `min` run by itself: its effect settled as `complete` says. -/
def execMin (d a b : BitVec 6) (w : BitVec 2) (s : State) : Host.Outcome State Fault Refusal := complete s (doMin d a b w s)

/-- `max`, read signed (R104). -/
def doMax (d a b : BitVec 6) (w : BitVec 2) (s : State) : Res State :=
  saWord 1 d a b w (fun n x y => if asInt n x ≤ asInt n y then y else x) s

/-- `max` run by itself: its effect settled as `complete` says. -/
def execMax (d a b : BitVec 6) (w : BitVec 2) (s : State) : Host.Outcome State Fault Refusal := complete s (doMax d a b w s)

/-- `minn`, read unsigned (R104). -/
def doMinn (d a b : BitVec 6) (w : BitVec 2) (s : State) : Res State :=
  saWord 1 d a b w (fun _ x y => if x ≤ y then x else y) s

/-- `minn` run by itself: its effect settled as `complete` says. -/
def execMinn (d a b : BitVec 6) (w : BitVec 2) (s : State) : Host.Outcome State Fault Refusal := complete s (doMinn d a b w s)

/-- `maxn`, read unsigned (R104). -/
def doMaxn (d a b : BitVec 6) (w : BitVec 2) (s : State) : Res State :=
  saWord 1 d a b w (fun _ x y => if x ≤ y then y else x) s

/-- `maxn` run by itself: its effect settled as `complete` says. -/
def execMaxn (d a b : BitVec 6) (w : BitVec 2) (s : State) : Host.Outcome State Fault Refusal := complete s (doMaxn d a b w s)

/-- `clz`: leading zeros; n when A = 0 (R104). -/
def doClz (d a : BitVec 6) (w : BitVec 2) (s : State) : Res State :=
  saWord 1 d a 0 w (fun n x _ => leadZeros n x) s

/-- `clz` run by itself: its effect settled as `complete` says. -/
def execClz (d a : BitVec 6) (w : BitVec 2) (s : State) : Host.Outcome State Fault Refusal := complete s (doClz d a w s)

/-- `popc`: one bits (R104). -/
def doPopc (d a : BitVec 6) (w : BitVec 2) (s : State) : Res State :=
  saWord 1 d a 0 w (fun n x _ => oneBits n x) s

/-- `popc` run by itself: its effect settled as `complete` says. -/
def execPopc (d a : BitVec 6) (w : BitVec 2) (s : State) : Host.Outcome State Fault Refusal := complete s (doPopc d a w s)

/-- `ctz`: trailing zeros; n when A = 0 (R104). -/
def doCtz (d a : BitVec 6) (w : BitVec 2) (s : State) : Res State :=
  saWord 1 d a 0 w (fun n x _ => trailZeros n x) s

/-- `ctz` run by itself: its effect settled as `complete` says. -/
def execCtz (d a : BitVec 6) (w : BitVec 2) (s : State) : Host.Outcome State Fault Refusal := complete s (doCtz d a w s)

/-- `cmov`: no pending write when B = 0 (R105). -/
def doCmov (d a b : BitVec 6) (w : BitVec 2) (s : State) : Res State :=
  trapFirst
    (match rdS s.my 1 b.toNat with
    | .ok y => if y.toNat % 2 ^ saBits w = 0 then none else clashS s.my d.toNat 1
    | .error _ => none)
    (match both (rdS s.my 1 a.toNat) (rdS s.my 1 b.toNat) with
    | .error e => .error e
    | .ok (x, y) =>
      if y.toNat % 2 ^ saBits w = 0 then .ok s else putS s d.toNat 1 (saExt w (x.toNat % 2 ^ saBits w)))

/-- `cmov` run by itself: its effect settled as `complete` says. -/
def execCmov (d a b : BitVec 6) (w : BitVec 2) (s : State) : Host.Outcome State Fault Refusal := complete s (doCmov d a b w s)

/-- `ceq` (R107). -/
def doCeq (d a b : BitVec 6) (w : BitVec 2) (s : State) : Res State :=
  saWord 1 d a b w (fun _ x y => b2n (decide (x = y))) s

/-- `ceq` run by itself: its effect settled as `complete` says. -/
def execCeq (d a b : BitVec 6) (w : BitVec 2) (s : State) : Host.Outcome State Fault Refusal := complete s (doCeq d a b w s)

/-- `cne` (R107). -/
def doCne (d a b : BitVec 6) (w : BitVec 2) (s : State) : Res State :=
  saWord 1 d a b w (fun _ x y => b2n (decide (x ≠ y))) s

/-- `cne` run by itself: its effect settled as `complete` says. -/
def execCne (d a b : BitVec 6) (w : BitVec 2) (s : State) : Host.Outcome State Fault Refusal := complete s (doCne d a b w s)

/-- `clt`, signed (R107). -/
def doClt (d a b : BitVec 6) (w : BitVec 2) (s : State) : Res State :=
  saWord 1 d a b w (fun n x y => b2n (decide (asInt n x < asInt n y))) s

/-- `clt` run by itself: its effect settled as `complete` says. -/
def execClt (d a b : BitVec 6) (w : BitVec 2) (s : State) : Host.Outcome State Fault Refusal := complete s (doClt d a b w s)

/-- `cle`, signed (R107). -/
def doCle (d a b : BitVec 6) (w : BitVec 2) (s : State) : Res State :=
  saWord 1 d a b w (fun n x y => b2n (decide (asInt n x ≤ asInt n y))) s

/-- `cle` run by itself: its effect settled as `complete` says. -/
def execCle (d a b : BitVec 6) (w : BitVec 2) (s : State) : Host.Outcome State Fault Refusal := complete s (doCle d a b w s)

/-- `cltn`, unsigned (R107). -/
def doCltn (d a b : BitVec 6) (w : BitVec 2) (s : State) : Res State :=
  saWord 1 d a b w (fun _ x y => b2n (decide (x < y))) s

/-- `cltn` run by itself: its effect settled as `complete` says. -/
def execCltn (d a b : BitVec 6) (w : BitVec 2) (s : State) : Host.Outcome State Fault Refusal := complete s (doCltn d a b w s)

/-- `clen`, unsigned (R107). -/
def doClen (d a b : BitVec 6) (w : BitVec 2) (s : State) : Res State :=
  saWord 1 d a b w (fun _ x y => b2n (decide (x ≤ y))) s

/-- `clen` run by itself: its effect settled as `complete` says. -/
def execClen (d a b : BitVec 6) (w : BitVec 2) (s : State) : Host.Outcome State Fault Refusal := complete s (doClen d a b w s)

/-- `addi` (R108). -/
def doAddi (d a : BitVec 6) (imm : BitVec 8) (s : State) : Res State :=
  sbWord d a imm (fun x i => x + i) s

/-- `addi` run by itself: its effect settled as `complete` says. -/
def execAddi (d a : BitVec 6) (imm : BitVec 8) (s : State) : Host.Outcome State Fault Refusal := complete s (doAddi d a imm s)

/-- `andi` (R108). -/
def doAndi (d a : BitVec 6) (imm : BitVec 8) (s : State) : Res State :=
  sbWord d a imm (fun x i => x &&& i) s

/-- `andi` run by itself: its effect settled as `complete` says. -/
def execAndi (d a : BitVec 6) (imm : BitVec 8) (s : State) : Host.Outcome State Fault Refusal := complete s (doAndi d a imm s)

/-- `ori` (R108). -/
def doOri (d a : BitVec 6) (imm : BitVec 8) (s : State) : Res State :=
  sbWord d a imm (fun x i => x ||| i) s

/-- `ori` run by itself: its effect settled as `complete` says. -/
def execOri (d a : BitVec 6) (imm : BitVec 8) (s : State) : Host.Outcome State Fault Refusal := complete s (doOri d a imm s)

/-- `xori` (R108). -/
def doXori (d a : BitVec 6) (imm : BitVec 8) (s : State) : Res State :=
  sbWord d a imm (fun x i => x ^^^ i) s

/-- `xori` run by itself: its effect settled as `complete` says. -/
def execXori (d a : BitVec 6) (imm : BitVec 8) (s : State) : Host.Outcome State Fault Refusal := complete s (doXori d a imm s)

/-- `shli`, amount 0 to 63 (R108). -/
def doShli (d a : BitVec 6) (imm : BitVec 8) (s : State) : Res State :=
  sbWord d a imm (fun x i => x <<< (i.toNat % 64)) s

/-- `shli` run by itself: its effect settled as `complete` says. -/
def execShli (d a : BitVec 6) (imm : BitVec 8) (s : State) : Host.Outcome State Fault Refusal := complete s (doShli d a imm s)

/-- `shri` (R108). -/
def doShri (d a : BitVec 6) (imm : BitVec 8) (s : State) : Res State :=
  sbWord d a imm (fun x i => x >>> (i.toNat % 64)) s

/-- `shri` run by itself: its effect settled as `complete` says. -/
def execShri (d a : BitVec 6) (imm : BitVec 8) (s : State) : Host.Outcome State Fault Refusal := complete s (doShri d a imm s)

/-- `srai` (R108). -/
def doSrai (d a : BitVec 6) (imm : BitVec 8) (s : State) : Res State :=
  sbWord d a imm (fun x i => x.sshiftRight (i.toNat % 64)) s

/-- `srai` run by itself: its effect settled as `complete` says. -/
def execSrai (d a : BitVec 6) (imm : BitVec 8) (s : State) : Host.Outcome State Fault Refusal := complete s (doSrai d a imm s)

/-- `ceqi` (R107). -/
def doCeqi (d a : BitVec 6) (imm : BitVec 8) (s : State) : Res State :=
  sbWord d a imm (fun x i => boolWord (x == i)) s

/-- `ceqi` run by itself: its effect settled as `complete` says. -/
def execCeqi (d a : BitVec 6) (imm : BitVec 8) (s : State) : Host.Outcome State Fault Refusal := complete s (doCeqi d a imm s)

/-- `clti`, signed (R107). -/
def doClti (d a : BitVec 6) (imm : BitVec 8) (s : State) : Res State :=
  sbWord d a imm (fun x i => boolWord (x.slt i)) s

/-- `clti` run by itself: its effect settled as `complete` says. -/
def execClti (d a : BitVec 6) (imm : BitVec 8) (s : State) : Host.Outcome State Fault Refusal := complete s (doClti d a imm s)

/-- `cltni`, both read unsigned (R107). -/
def doCltni (d a : BitVec 6) (imm : BitVec 8) (s : State) : Res State :=
  sbWord d a imm (fun x i => boolWord (x.ult i)) s

/-- `cltni` run by itself: its effect settled as `complete` says. -/
def execCltni (d a : BitVec 6) (imm : BitVec 8) (s : State) : Host.Outcome State Fault Refusal := complete s (doCltni d a imm s)

/-- `li`: zext(imm14) (R109). -/
def doLi (d : BitVec 6) (imm : BitVec 14) (s : State) : Res State :=
  putS s d.toNat 1 (imm.setWidth 64)

/-- `li` run by itself: its effect settled as `complete` says. -/
def execLi (d : BitVec 6) (imm : BitVec 14) (s : State) : Host.Outcome State Fault Refusal := complete s (doLi d imm s)

/-- `lis`: shift left 14 and insert, reading d at issue (R109). -/
def doLis (d : BitVec 6) (imm : BitVec 14) (s : State) : Res State :=
  match rdS s.my 1 d.toNat with
  | .error e => .error e
  | .ok x => putS s d.toNat 1 ((x <<< 14) ||| imm.setWidth 64)

/-- `lis` run by itself: its effect settled as `complete` says. -/
def execLis (d : BitVec 6) (imm : BitVec 14) (s : State) : Host.Outcome State Fault Refusal := complete s (doLis d imm s)

/-- `get`: 64 bits of another file, latency 2 (R110). -/
def doGet (d : BitVec 6) (file : BitVec 3) (idx : BitVec 5) (lane : BitVec 6) (s : State) : Res State :=
  putS s d.toNat 2 (getSource s.my file.toNat idx.toNat lane.toNat)

/-- `get` run by itself: its effect settled as `complete` says. -/
def execGet (d : BitVec 6) (file : BitVec 3) (idx : BitVec 5) (lane : BitVec 6) (s : State) : Host.Outcome State Fault Refusal := complete s (doGet d file idx lane s)

/-- `push`: an entry of 8 bytes appended to store queue w (R111). -/
def doPush (w : BitVec 2) (a : BitVec 6) (s : State) : Res State :=
  match rdS s.my 1 a.toNat with
  | .error e => .error e
  | .ok x => .ok (pushEntry s w.toNat { data := wide64 x, count := 8 })

/-- `push` run by itself: its effect settled as `complete` says. -/
def execPush (w : BitVec 2) (a : BitVec 6) (s : State) : Host.Outcome State Fault Refusal := complete s (doPush w a s)

/-- `spill`: 64 bits parked at the end of the bundle (R42, R43, R123). -/
def doSpill (id : BitVec 8) (a : BitVec 6) (s : State) : Res State :=
  match rdS s.my 1 a.toNat with
  | .error e => .error e
  | .ok x => spillWord s 1 id.toNat (wide64 x) false

/-- `spill` run by itself: its effect settled as `complete` says. -/
def execSpill (id : BitVec 8) (a : BitVec 6) (s : State) : Host.Outcome State Fault Refusal := complete s (doSpill id a s)

/-- `fill`: the map as it stood before the bundle, latency 8 (R42, R123). -/
def doFill (d : BitVec 6) (id : BitVec 8) (s : State) : Res State :=
  match spillFound s.my 1 id.toNat false with
  | .error e => .error e
  | .ok v => putS (noteFill s id.toNat) d.toNat 8 (lo64 v)

/-- `fill` run by itself: its effect settled as `complete` says. -/
def execFill (d : BitVec 6) (id : BitVec 8) (s : State) : Host.Outcome State Fault Refusal := complete s (doFill d id s)

end Sys2Proof.Machine
end

