-- ==== Sys2Proof/Machine/Vector.lean ====
section
/-! DEFINITION. The instructions of the V slots (R132 to R154). -/
namespace Sys2Proof.Machine

/-- `vnop` does nothing (R135). -/
def doVnop (_sl : VSlot) (s : State) : Res State :=
  .ok s

/-- `vnop` run by itself: its effect settled as `complete` says. -/
def execVnop (sl : VSlot) (s : State) : Host.Outcome State Fault Refusal := complete s (doVnop sl s)

/-- `vadd` (R136). -/
def doVadd (sl : VSlot) (fmt : BitVec 4) (d a b : BitVec 5) (k : BitVec 2) (s : State) : Res State :=
  vBin sl fmt d a b k (latIF fmt) (lane2 fmt (· + ·) addV) s

/-- `vadd` run by itself: its effect settled as `complete` says. -/
def execVadd (sl : VSlot) (fmt : BitVec 4) (d a b : BitVec 5) (k : BitVec 2) (s : State) : Host.Outcome State Fault Refusal := complete s (doVadd sl fmt d a b k s)

/-- `vsub` (R136). -/
def doVsub (sl : VSlot) (fmt : BitVec 4) (d a b : BitVec 5) (k : BitVec 2) (s : State) : Res State :=
  vBin sl fmt d a b k (latIF fmt) (lane2 fmt (· - ·) (fun x y => addV x (negV y))) s

/-- `vsub` run by itself: its effect settled as `complete` says. -/
def execVsub (sl : VSlot) (fmt : BitVec 4) (d a b : BitVec 5) (k : BitVec 2) (s : State) : Host.Outcome State Fault Refusal := complete s (doVsub sl fmt d a b k s)

/-- `vmul`: the low w bits of the product, or the rounded product (R136). -/
def doVmul (sl : VSlot) (fmt : BitVec 4) (d a b : BitVec 5) (k : BitVec 2) (s : State) : Res State :=
  vBin sl fmt d a b k (latIF fmt) (lane2 fmt (· * ·) mulV) s

/-- `vmul` run by itself: its effect settled as `complete` says. -/
def execVmul (sl : VSlot) (fmt : BitVec 4) (d a b : BitVec 5) (k : BitVec 2) (s : State) : Host.Outcome State Fault Refusal := complete s (doVmul sl fmt d a b k s)

/-- `vfma`: a · b + d rounded once (R136). -/
def doVfma (sl : VSlot) (fmt : BitVec 4) (d a b : BitVec 5) (k : BitVec 2) (s : State) : Res State :=
  vTri sl fmt d a b k 4 (fmaLane fmt false) s

/-- `vfma` run by itself: its effect settled as `complete` says. -/
def execVfma (sl : VSlot) (fmt : BitVec 4) (d a b : BitVec 5) (k : BitVec 2) (s : State) : Host.Outcome State Fault Refusal := complete s (doVfma sl fmt d a b k s)

/-- `vfms`: d − a · b rounded once (R136). -/
def doVfms (sl : VSlot) (fmt : BitVec 4) (d a b : BitVec 5) (k : BitVec 2) (s : State) : Res State :=
  vTri sl fmt d a b k 4 (fmaLane fmt true) s

/-- `vfms` run by itself: its effect settled as `complete` says. -/
def execVfms (sl : VSlot) (fmt : BitVec 4) (d a b : BitVec 5) (k : BitVec 2) (s : State) : Host.Outcome State Fault Refusal := complete s (doVfms sl fmt d a b k s)

/-- `vmin`, latency 2 (R136). -/
def doVmin (sl : VSlot) (fmt : BitVec 4) (d a b : BitVec 5) (k : BitVec 2) (s : State) : Res State :=
  vBin sl fmt d a b k 2 (lane2 fmt min minV) s

/-- `vmin` run by itself: its effect settled as `complete` says. -/
def execVmin (sl : VSlot) (fmt : BitVec 4) (d a b : BitVec 5) (k : BitVec 2) (s : State) : Host.Outcome State Fault Refusal := complete s (doVmin sl fmt d a b k s)

/-- `vmax`, latency 2 (R136). -/
def doVmax (sl : VSlot) (fmt : BitVec 4) (d a b : BitVec 5) (k : BitVec 2) (s : State) : Res State :=
  vBin sl fmt d a b k 2 (lane2 fmt max maxV) s

/-- `vmax` run by itself: its effect settled as `complete` says. -/
def execVmax (sl : VSlot) (fmt : BitVec 4) (d a b : BitVec 5) (k : BitVec 2) (s : State) : Host.Outcome State Fault Refusal := complete s (doVmax sl fmt d a b k s)

/-- `vabs`, latency 2 (R136). -/
def doVabs (sl : VSlot) (fmt : BitVec 4) (d a : BitVec 5) (k : BitVec 2) (s : State) : Res State :=
  vUn sl fmt d a k 2 (lane1 fmt (fun x => if x < 0 then -x else x) absV) s

/-- `vabs` run by itself: its effect settled as `complete` says. -/
def execVabs (sl : VSlot) (fmt : BitVec 4) (d a : BitVec 5) (k : BitVec 2) (s : State) : Host.Outcome State Fault Refusal := complete s (doVabs sl fmt d a k s)

/-- `vneg`, latency 2 (R136). -/
def doVneg (sl : VSlot) (fmt : BitVec 4) (d a : BitVec 5) (k : BitVec 2) (s : State) : Res State :=
  vUn sl fmt d a k 2 (lane1 fmt (fun x => -x) negV) s

/-- `vneg` run by itself: its effect settled as `complete` says. -/
def execVneg (sl : VSlot) (fmt : BitVec 4) (d a : BitVec 5) (k : BitVec 2) (s : State) : Host.Outcome State Fault Refusal := complete s (doVneg sl fmt d a k s)

/-- `vtsum`: the rounded sum into d and its exact error into d + 1 (R137). -/
def doVtsum (sl : VSlot) (fmt : BitVec 4) (d a b : BitVec 5) (k : BitVec 2) (s : State) : Res State :=
  trapFirst ((clashV s.my sl d.toNat 4).or (clashV s.my sl (d.toNat + 1) 4))
    (match both (rdV s.my sl a.toNat) (rdV s.my sl b.toNat) with
    | .error e => .error e
    | .ok (x, y) =>
      let w := fmtW fmt.toNat
      let m := rdK s.my sl k.toNat
      match putV s sl d.toNat 4
          (mergeLanes m w (oldV s.my sl d.toNat) (fun i => (tsumLane fmt (lane w x i) (lane w y i)).1)) with
      | .error e => .error e
      | .ok s1 => putV s1 sl (d.toNat + 1) 4
          (mergeLanes m w (oldV s.my sl (d.toNat + 1)) (fun i => (tsumLane fmt (lane w x i) (lane w y i)).2)))

/-- `vtsum` run by itself: its effect settled as `complete` says. -/
def execVtsum (sl : VSlot) (fmt : BitVec 4) (d a b : BitVec 5) (k : BitVec 2) (s : State) : Host.Outcome State Fault Refusal := complete s (doVtsum sl fmt d a b k s)

/-- `vadds`: clamped to the format's range (R136). -/
def doVadds (sl : VSlot) (fmt : BitVec 4) (d a b : BitVec 5) (k : BitVec 2) (s : State) : Res State :=
  vBin sl fmt d a b k 2 (iOp2 fmt.toNat (fun x y => clampInt (intMin fmt.toNat) (intMax fmt.toNat) (x + y))) s

/-- `vadds` run by itself: its effect settled as `complete` says. -/
def execVadds (sl : VSlot) (fmt : BitVec 4) (d a b : BitVec 5) (k : BitVec 2) (s : State) : Host.Outcome State Fault Refusal := complete s (doVadds sl fmt d a b k s)

/-- `vsubs`: clamped to the format's range (R136). -/
def doVsubs (sl : VSlot) (fmt : BitVec 4) (d a b : BitVec 5) (k : BitVec 2) (s : State) : Res State :=
  vBin sl fmt d a b k 2 (iOp2 fmt.toNat (fun x y => clampInt (intMin fmt.toNat) (intMax fmt.toNat) (x - y))) s

/-- `vsubs` run by itself: its effect settled as `complete` says. -/
def execVsubs (sl : VSlot) (fmt : BitVec 4) (d a b : BitVec 5) (k : BitVec 2) (s : State) : Host.Outcome State Fault Refusal := complete s (doVsubs sl fmt d a b k s)

/-- `vrcp` (R139). -/
def doVrcp (sl : VSlot) (fmt : BitVec 4) (d a : BitVec 5) (k : BitVec 2) (s : State) : Res State :=
  vUn sl fmt d a k 6 (fnLane fmt rcpF) s

/-- `vrcp` run by itself: its effect settled as `complete` says. -/
def execVrcp (sl : VSlot) (fmt : BitVec 4) (d a : BitVec 5) (k : BitVec 2) (s : State) : Host.Outcome State Fault Refusal := complete s (doVrcp sl fmt d a k s)

/-- `vrsq` (R139). -/
def doVrsq (sl : VSlot) (fmt : BitVec 4) (d a : BitVec 5) (k : BitVec 2) (s : State) : Res State :=
  vUn sl fmt d a k 6 (fnLane fmt rsqF) s

/-- `vrsq` run by itself: its effect settled as `complete` says. -/
def execVrsq (sl : VSlot) (fmt : BitVec 4) (d a : BitVec 5) (k : BitVec 2) (s : State) : Host.Outcome State Fault Refusal := complete s (doVrsq sl fmt d a k s)

/-- `vexp2` (R139). -/
def doVexp2 (sl : VSlot) (fmt : BitVec 4) (d a : BitVec 5) (k : BitVec 2) (s : State) : Res State :=
  vUn sl fmt d a k 6 (fnLane fmt exp2F) s

/-- `vexp2` run by itself: its effect settled as `complete` says. -/
def execVexp2 (sl : VSlot) (fmt : BitVec 4) (d a : BitVec 5) (k : BitVec 2) (s : State) : Host.Outcome State Fault Refusal := complete s (doVexp2 sl fmt d a k s)

/-- `vlog2` (R139). -/
def doVlog2 (sl : VSlot) (fmt : BitVec 4) (d a : BitVec 5) (k : BitVec 2) (s : State) : Res State :=
  vUn sl fmt d a k 6 (fnLane fmt log2F) s

/-- `vlog2` run by itself: its effect settled as `complete` says. -/
def execVlog2 (sl : VSlot) (fmt : BitVec 4) (d a : BitVec 5) (k : BitVec 2) (s : State) : Host.Outcome State Fault Refusal := complete s (doVlog2 sl fmt d a k s)

/-- `vsqrt`, latency 12 (R140). -/
def doVsqrt (sl : VSlot) (fmt : BitVec 4) (d a : BitVec 5) (k : BitVec 2) (s : State) : Res State :=
  vUn sl fmt d a k 12 (fnLane fmt sqrtF) s

/-- `vsqrt` run by itself: its effect settled as `complete` says. -/
def execVsqrt (sl : VSlot) (fmt : BitVec 4) (d a : BitVec 5) (k : BitVec 2) (s : State) : Host.Outcome State Fault Refusal := complete s (doVsqrt sl fmt d a k s)

/-- `vflr`, latency 3 (R140). -/
def doVflr (sl : VSlot) (fmt : BitVec 4) (d a : BitVec 5) (k : BitVec 2) (s : State) : Res State :=
  vUn sl fmt d a k 3 (fnLane fmt flrF) s

/-- `vflr` run by itself: its effect settled as `complete` says. -/
def execVflr (sl : VSlot) (fmt : BitVec 4) (d a : BitVec 5) (k : BitVec 2) (s : State) : Host.Outcome State Fault Refusal := complete s (doVflr sl fmt d a k s)

/-- `vand` on 32-bit words (R141). -/
def doVand (sl : VSlot) (d a b : BitVec 5) (k : BitVec 2) (s : State) : Res State :=
  vBits sl d a b k (fun x y => x &&& y) s

/-- `vand` run by itself: its effect settled as `complete` says. -/
def execVand (sl : VSlot) (d a b : BitVec 5) (k : BitVec 2) (s : State) : Host.Outcome State Fault Refusal := complete s (doVand sl d a b k s)

/-- `vor` (R141). -/
def doVor (sl : VSlot) (d a b : BitVec 5) (k : BitVec 2) (s : State) : Res State :=
  vBits sl d a b k (fun x y => x ||| y) s

/-- `vor` run by itself: its effect settled as `complete` says. -/
def execVor (sl : VSlot) (d a b : BitVec 5) (k : BitVec 2) (s : State) : Host.Outcome State Fault Refusal := complete s (doVor sl d a b k s)

/-- `vxor` (R141). -/
def doVxor (sl : VSlot) (d a b : BitVec 5) (k : BitVec 2) (s : State) : Res State :=
  vBits sl d a b k (fun x y => x ^^^ y) s

/-- `vxor` run by itself: its effect settled as `complete` says. -/
def execVxor (sl : VSlot) (d a b : BitVec 5) (k : BitVec 2) (s : State) : Host.Outcome State Fault Refusal := complete s (doVxor sl d a b k s)

/-- `vnot` (R141). -/
def doVnot (sl : VSlot) (d a : BitVec 5) (k : BitVec 2) (s : State) : Res State :=
  vUn sl 14 d a k 1 (fun x => 2 ^ 32 - 1 - x) s

/-- `vnot` run by itself: its effect settled as `complete` says. -/
def execVnot (sl : VSlot) (d a : BitVec 5) (k : BitVec 2) (s : State) : Host.Outcome State Fault Refusal := complete s (doVnot sl d a k s)

/-- `vshl`: the count is b modulo w (R142). -/
def doVshl (sl : VSlot) (fmt : BitVec 4) (d a b : BitVec 5) (k : BitVec 2) (s : State) : Res State :=
  vBin sl fmt d a b k 1 (fun x y => x * 2 ^ (y % fmtW fmt.toNat)) s

/-- `vshl` run by itself: its effect settled as `complete` says. -/
def execVshl (sl : VSlot) (fmt : BitVec 4) (d a b : BitVec 5) (k : BitVec 2) (s : State) : Host.Outcome State Fault Refusal := complete s (doVshl sl fmt d a b k s)

/-- `vshr`, a read unsigned (R142). -/
def doVshr (sl : VSlot) (fmt : BitVec 4) (d a b : BitVec 5) (k : BitVec 2) (s : State) : Res State :=
  vBin sl fmt d a b k 1 (fun x y => x / 2 ^ (y % fmtW fmt.toNat)) s

/-- `vshr` run by itself: its effect settled as `complete` says. -/
def execVshr (sl : VSlot) (fmt : BitVec 4) (d a b : BitVec 5) (k : BitVec 2) (s : State) : Host.Outcome State Fault Refusal := complete s (doVshr sl fmt d a b k s)

/-- `vsra`, a read signed whatever the format (R142). -/
def doVsra (sl : VSlot) (fmt : BitVec 4) (d a b : BitVec 5) (k : BitVec 2) (s : State) : Res State :=
  let w := fmtW fmt.toNat
  vBin sl fmt d a b k 1 (fun x y => wrapInt w (asInt w x / (2 : Int) ^ (y % w))) s

/-- `vsra` run by itself: its effect settled as `complete` says. -/
def execVsra (sl : VSlot) (fmt : BitVec 4) (d a b : BitVec 5) (k : BitVec 2) (s : State) : Host.Outcome State Fault Refusal := complete s (doVsra sl fmt d a b k s)

/-- `vaddi`: adds sext(imm7) to every element (R138). -/
def doVaddi (sl : VSlot) (fmt : BitVec 4) (d a : BitVec 5) (imm : BitVec 7) (s : State) : Res State :=
  vImm sl fmt d a (latIF fmt) (fun x => lane2 fmt (fun p _ => p + imm.toInt) (fun p _ => addV p (ofInt false imm.toInt 0)) x x) s

/-- `vaddi` run by itself: its effect settled as `complete` says. -/
def execVaddi (sl : VSlot) (fmt : BitVec 4) (d a : BitVec 5) (imm : BitVec 7) (s : State) : Host.Outcome State Fault Refusal := complete s (doVaddi sl fmt d a imm s)

/-- `vshli` (R142). -/
def doVshli (sl : VSlot) (fmt : BitVec 4) (d a : BitVec 5) (imm : BitVec 7) (s : State) : Res State :=
  vImm sl fmt d a 1 (fun x => x * 2 ^ imm.toNat) s

/-- `vshli` run by itself: its effect settled as `complete` says. -/
def execVshli (sl : VSlot) (fmt : BitVec 4) (d a : BitVec 5) (imm : BitVec 7) (s : State) : Host.Outcome State Fault Refusal := complete s (doVshli sl fmt d a imm s)

/-- `vshri` (R142). -/
def doVshri (sl : VSlot) (fmt : BitVec 4) (d a : BitVec 5) (imm : BitVec 7) (s : State) : Res State :=
  vImm sl fmt d a 1 (fun x => x / 2 ^ imm.toNat) s

/-- `vshri` run by itself: its effect settled as `complete` says. -/
def execVshri (sl : VSlot) (fmt : BitVec 4) (d a : BitVec 5) (imm : BitVec 7) (s : State) : Host.Outcome State Fault Refusal := complete s (doVshri sl fmt d a imm s)

/-- `vsplat`: every element of d is element imm of a (R146). -/
def doVsplat (sl : VSlot) (fmt : BitVec 4) (d a : BitVec 5) (imm : BitVec 7) (s : State) : Res State :=
  trapFirst (clashV s.my sl d.toNat 1)
    (match rdV s.my sl a.toNat with
    | .error e => .error e
    | .ok x =>
      let w := fmtW fmt.toNat
      putV s sl d.toNat 1 (fromLanes w (List.replicate (1024 / w) (lane w x imm.toNat))))

/-- `vsplat` run by itself: its effect settled as `complete` says. -/
def execVsplat (sl : VSlot) (fmt : BitVec 4) (d a : BitVec 5) (imm : BitVec 7) (s : State) : Host.Outcome State Fault Refusal := complete s (doVsplat sl fmt d a imm s)

/-- `vceq` (R143). -/
def doVceq (sl : VSlot) (fmt : BitVec 4) (d a b : BitVec 5) (k : BitVec 2) (s : State) : Res State :=
  vCmp sl fmt d a b k (rel2 fmt (fun x y => x == y) eqV) s

/-- `vceq` run by itself: its effect settled as `complete` says. -/
def execVceq (sl : VSlot) (fmt : BitVec 4) (d a b : BitVec 5) (k : BitVec 2) (s : State) : Host.Outcome State Fault Refusal := complete s (doVceq sl fmt d a b k s)

/-- `vcne`: true with a NaN (R143). -/
def doVcne (sl : VSlot) (fmt : BitVec 4) (d a b : BitVec 5) (k : BitVec 2) (s : State) : Res State :=
  vCmp sl fmt d a b k (rel2 fmt (fun x y => x != y) (fun x y => !eqV x y)) s

/-- `vcne` run by itself: its effect settled as `complete` says. -/
def execVcne (sl : VSlot) (fmt : BitVec 4) (d a b : BitVec 5) (k : BitVec 2) (s : State) : Host.Outcome State Fault Refusal := complete s (doVcne sl fmt d a b k s)

/-- `vclt` (R143). -/
def doVclt (sl : VSlot) (fmt : BitVec 4) (d a b : BitVec 5) (k : BitVec 2) (s : State) : Res State :=
  vCmp sl fmt d a b k (rel2 fmt (fun x y => decide (x < y)) ltV) s

/-- `vclt` run by itself: its effect settled as `complete` says. -/
def execVclt (sl : VSlot) (fmt : BitVec 4) (d a b : BitVec 5) (k : BitVec 2) (s : State) : Host.Outcome State Fault Refusal := complete s (doVclt sl fmt d a b k s)

/-- `vcle` (R143). -/
def doVcle (sl : VSlot) (fmt : BitVec 4) (d a b : BitVec 5) (k : BitVec 2) (s : State) : Res State :=
  vCmp sl fmt d a b k (rel2 fmt (fun x y => decide (x ≤ y)) (fun x y => ltV x y || eqV x y)) s

/-- `vcle` run by itself: its effect settled as `complete` says. -/
def execVcle (sl : VSlot) (fmt : BitVec 4) (d a b : BitVec 5) (k : BitVec 2) (s : State) : Host.Outcome State Fault Refusal := complete s (doVcle sl fmt d a b k s)

/-- `vcun`: a or b is a NaN (R143). -/
def doVcun (sl : VSlot) (fmt : BitVec 4) (d a b : BitVec 5) (k : BitVec 2) (s : State) : Res State :=
  vCmp sl fmt d a b k (rel2 fmt (fun _ _ => false) (fun x y => isNan x || isNan y)) s

/-- `vcun` run by itself: its effect settled as `complete` says. -/
def execVcun (sl : VSlot) (fmt : BitVec 4) (d a b : BitVec 5) (k : BitVec 2) (s : State) : Host.Outcome State Fault Refusal := complete s (doVcun sl fmt d a b k s)

/-- `kand` (R144). -/
def doKand (sl : VSlot) (d a b : BitVec 5) (s : State) : Res State :=
  kOp sl d a b (fun x y => x &&& y) s

/-- `kand` run by itself: its effect settled as `complete` says. -/
def execKand (sl : VSlot) (d a b : BitVec 5) (s : State) : Host.Outcome State Fault Refusal := complete s (doKand sl d a b s)

/-- `kor` (R144). -/
def doKor (sl : VSlot) (d a b : BitVec 5) (s : State) : Res State :=
  kOp sl d a b (fun x y => x ||| y) s

/-- `kor` run by itself: its effect settled as `complete` says. -/
def execKor (sl : VSlot) (d a b : BitVec 5) (s : State) : Host.Outcome State Fault Refusal := complete s (doKor sl d a b s)

/-- `kxor` (R144). -/
def doKxor (sl : VSlot) (d a b : BitVec 5) (s : State) : Res State :=
  kOp sl d a b (fun x y => x ^^^ y) s

/-- `kxor` run by itself: its effect settled as `complete` says. -/
def execKxor (sl : VSlot) (d a b : BitVec 5) (s : State) : Host.Outcome State Fault Refusal := complete s (doKxor sl d a b s)

/-- `knot` (R144). -/
def doKnot (sl : VSlot) (d a : BitVec 5) (s : State) : Res State :=
  kOp sl d a a (fun x _ => ~~~x) s

/-- `knot` run by itself: its effect settled as `complete` says. -/
def execKnot (sl : VSlot) (d a : BitVec 5) (s : State) : Host.Outcome State Fault Refusal := complete s (doKnot sl d a s)

/-- `vsel`: word j of a where the mask bit is set, of b where it is clear; every word written (R145). -/
def doVsel (sl : VSlot) (d a b : BitVec 5) (k : BitVec 2) (s : State) : Res State :=
  trapFirst (clashV s.my sl d.toNat 1)
    (match both (rdV s.my sl a.toNat) (rdV s.my sl b.toNat) with
    | .error e => .error e
    | .ok (x, y) =>
      putV s sl d.toNat 1 (mergeLanes (rdK s.my sl k.toNat) 32 y (fun i => lane 32 x i)))

/-- `vsel` run by itself: its effect settled as `complete` says. -/
def execVsel (sl : VSlot) (d a b : BitVec 5) (k : BitVec 2) (s : State) : Host.Outcome State Fault Refusal := complete s (doVsel sl d a b k s)

/-- `vmov` (R145). -/
def doVmov (sl : VSlot) (d a : BitVec 5) (k : BitVec 2) (s : State) : Res State :=
  vUn sl 14 d a k 1 (fun x => x) s

/-- `vmov` run by itself: its effect settled as `complete` says. -/
def execVmov (sl : VSlot) (d a : BitVec 5) (k : BitVec 2) (s : State) : Host.Outcome State Fault Refusal := complete s (doVmov sl d a k s)

/-- `vget`: a value of another file, latency 2 (R148). -/
def doVget (sl : VSlot) (d : BitVec 5) (file : BitVec 3) (idx : BitVec 6) (lane : BitVec 5) (s : State) : Res State :=
  let c := s.my
  match file.toNat with
  | 0 => putV s sl d.toNat 2 (vgetS (oldV c sl d.toNat) (if idx.toNat = 0 then 0 else fget 0 c.regs.s idx.toNat) lane.toNat)
  | 1 => putV s sl d.toNat 2 (vaReg c idx.toNat)
  | 2 => putV s sl d.toNat 2 (vbReg c idx.toNat)
  | 3 => putV s sl d.toNat 2 (fget 0 c.regs.x idx.toNat)
  | 4 => putK s sl d.toNat 2 (rdK c .v0 idx.toNat)
  | _ => putK s sl d.toNat 2 (rdK c .v1 idx.toNat)

/-- `vget` run by itself: its effect settled as `complete` says. -/
def execVget (sl : VSlot) (d : BitVec 5) (file : BitVec 3) (idx : BitVec 6) (lane : BitVec 5) (s : State) : Host.Outcome State Fault Refusal := complete s (doVget sl d file idx lane s)

/-- `viota`: element i receives i modulo 2^w, latency 2 (R146). -/
def doViota (sl : VSlot) (fmt : BitVec 4) (d : BitVec 5) (k : BitVec 2) (s : State) : Res State :=
  let w := fmtW fmt.toNat
  putV s sl d.toNat 2 (mergeLanes (rdK s.my sl k.toNat) w (oldV s.my sl d.toNat) (fun i => i))

/-- `viota` run by itself: its effect settled as `complete` says. -/
def execViota (sl : VSlot) (fmt : BitVec 4) (d : BitVec 5) (k : BitVec 2) (s : State) : Host.Outcome State Fault Refusal := complete s (doViota sl fmt d k s)

/-- `vlane` permutes elements, latency 2 (R147). -/
def doVlane (sl : VSlot) (fmt : BitVec 4) (d a b : BitVec 5) (k : BitVec 2) (s : State) : Res State :=
  trapFirst (clashV s.my sl d.toNat 2)
    (match both (rdV s.my sl a.toNat) (rdV s.my sl b.toNat) with
    | .error e => .error e
    | .ok (x, y) =>
      let w := fmtW fmt.toNat
      putV s sl d.toNat 2 (mergeLanes (rdK s.my sl k.toNat) w (oldV s.my sl d.toNat) (permLane w x y)))

/-- `vlane` run by itself: its effect settled as `complete` says. -/
def execVlane (sl : VSlot) (fmt : BitVec 4) (d a b : BitVec 5) (k : BitVec 2) (s : State) : Host.Outcome State Fault Refusal := complete s (doVlane sl fmt d a b k s)

/-- `vradd` (R149). -/
def doVradd (sl : VSlot) (fmt : BitVec 4) (d a : BitVec 5) (k : BitVec 2) (s : State) : Res State :=
  vReduce sl fmt d a k (reduceIdent fmt 0) (lane2 fmt (· + ·) addV) s

/-- `vradd` run by itself: its effect settled as `complete` says. -/
def execVradd (sl : VSlot) (fmt : BitVec 4) (d a : BitVec 5) (k : BitVec 2) (s : State) : Host.Outcome State Fault Refusal := complete s (doVradd sl fmt d a k s)

/-- `vrmax` (R149). -/
def doVrmax (sl : VSlot) (fmt : BitVec 4) (d a : BitVec 5) (k : BitVec 2) (s : State) : Res State :=
  vReduce sl fmt d a k (reduceIdent fmt 1) (lane2 fmt max maxV) s

/-- `vrmax` run by itself: its effect settled as `complete` says. -/
def execVrmax (sl : VSlot) (fmt : BitVec 4) (d a : BitVec 5) (k : BitVec 2) (s : State) : Host.Outcome State Fault Refusal := complete s (doVrmax sl fmt d a k s)

/-- `vrmin` (R149). -/
def doVrmin (sl : VSlot) (fmt : BitVec 4) (d a : BitVec 5) (k : BitVec 2) (s : State) : Res State :=
  vReduce sl fmt d a k (reduceIdent fmt 2) (lane2 fmt min minV) s

/-- `vrmin` run by itself: its effect settled as `complete` says. -/
def execVrmin (sl : VSlot) (fmt : BitVec 4) (d a : BitVec 5) (k : BitVec 2) (s : State) : Host.Outcome State Fault Refusal := complete s (doVrmin sl fmt d a k s)

/-- `vrarg`: the winning value and its element number (R150). -/
def doVrarg (sl : VSlot) (fmt : BitVec 4) (d a : BitVec 5) (k : BitVec 2) (s : State) : Res State :=
  trapFirst (clashV s.my sl d.toNat 6)
    (match rdV s.my sl a.toNat with
    | .error e => .error e
    | .ok x =>
      let w := fmtW fmt.toNat
      let m := rdK s.my sl k.toNat
      let xs := ((List.range (1024 / w)).filter (fun i => laneOn m w i)).map (fun i => (Machine.lane w x i, i))
      match rankBest fmt.toNat xs with
      | some (v, i) => putV s sl d.toNat 6 (fromLanes 32 [v, i])
      | none => putV s sl d.toNat 6 (fromLanes 32 [0, 2 ^ 32 - 1]))

/-- `vrarg` run by itself: its effect settled as `complete` says. -/
def execVrarg (sl : VSlot) (fmt : BitVec 4) (d a : BitVec 5) (k : BitVec 2) (s : State) : Host.Outcome State Fault Refusal := complete s (doVrarg sl fmt d a k s)

/-- `vcvt`: the conversion of every element, latency 3 (R151). -/
def doVcvt (sl : VSlot) (fd : BitVec 4) (d a : BitVec 5) (fs : BitVec 4) (rnd : BitVec 2) (sat : BitVec 1) (s : State) : Res State :=
  trapFirst (clashV s.my sl d.toNat 3)
    (match rdV s.my sl a.toNat with
    | .error e => .error e
    | .ok x =>
      if rnd = 2 then
        let (sr, s1) := takeSr s
        putV s1 sl d.toNat 3 (cvtReg fd.toNat fs.toNat 2 (sat == 1) sr x)
      else putV s sl d.toNat 3 (cvtReg fd.toNat fs.toNat rnd.toNat (sat == 1) 0 x))

/-- `vcvt` run by itself: its effect settled as `complete` says. -/
def execVcvt (sl : VSlot) (fd : BitVec 4) (d a : BitVec 5) (fs : BitVec 4) (rnd : BitVec 2) (sat : BitVec 1) (s : State) : Host.Outcome State Fault Refusal := complete s (doVcvt sl fd d a fs rnd sat s)

/-- `vdefer`: an entry for each active word, SPILL_EXHAUSTED when they do not all find room (R38, R152). -/
def doVdefer (sl : VSlot) (cnt a b : BitVec 5) (k : BitVec 2) (s : State) : Res State :=
  let two := decide (cnt.toNat = 1)
  match both (rdV s.my sl a.toNat) (if two then rdV s.my sl b.toNat else .ok 0) with
  | .error e => .error e
  | .ok (x, y) =>
    let c := s.my
    let c1 : Ctx := { c with q := { c.q with defer := c.q.defer ++ deferEntries (rdK c sl k.toNat) two x y (iterNow c) } }
    if 64 < c1.q.defer.length ∧ c.tiles.share.spillLen < areaUsed (stagedSpills c1).q then
      trapOf 14 (VSlot.cls sl) 0x0F 0x100
    else .ok (s.setMy c1)

/-- `vdefer` run by itself: its effect settled as `complete` says. -/
def execVdefer (sl : VSlot) (cnt a b : BitVec 5) (k : BitVec 2) (s : State) : Host.Outcome State Fault Refusal := complete s (doVdefer sl cnt a b k s)

/-- `vdrain`: up to 32 of the oldest entries, latency 4 (R39, R153). -/
def doVdrain (sl : VSlot) (d o : BitVec 5) (km : BitVec 2) (s : State) : Res State :=
  let c := s.my
  let ts := c.q.defer.take 32
  let org := ts.map (fun t => t.iter % 2 ^ 27 * 32 + t.lane)
  let s1 := s.setMy { c with q := { c.q with defer := c.q.defer.drop 32 } }
  match putV s1 sl d.toNat 4 (fromLanes 32 (ts.map (fun t => t.v0.toNat))) with
  | .error e => .error e
  | .ok s2 =>
    match putV s2 sl (d.toNat + 1) 4 (fromLanes 32 (ts.map (fun t => t.v1.toNat))) with
    | .error e => .error e
    | .ok s3 =>
      match putV s3 sl o.toNat 4 (fromLanes 32 org) with
      | .error e => .error e
      | .ok s4 => putK s4 sl km.toNat 4 (BitVec.ofNat 32 (2 ^ ts.length - 1))

/-- `vdrain` run by itself: its effect settled as `complete` says. -/
def execVdrain (sl : VSlot) (d o : BitVec 5) (km : BitVec 2) (s : State) : Host.Outcome State Fault Refusal := complete s (doVdrain sl d o km s)

/-- `vpush`: an entry of 128 bytes (R154). -/
def doVpush (sl : VSlot) (w : BitVec 2) (a : BitVec 5) (s : State) : Res State :=
  match rdV s.my sl a.toNat with
  | .error e => .error e
  | .ok x => .ok (pushEntry s w.toNat { data := x, count := 128 })

/-- `vpush` run by itself: its effect settled as `complete` says. -/
def execVpush (sl : VSlot) (w : BitVec 2) (a : BitVec 5) (s : State) : Host.Outcome State Fault Refusal := complete s (doVpush sl w a s)

/-- `vspill`: 1,024 bits parked at the end of the bundle (R42, R43, R154). -/
def doVspill (sl : VSlot) (id : BitVec 8) (a : BitVec 5) (s : State) : Res State :=
  match rdV s.my sl a.toNat with
  | .error e => .error e
  | .ok x => spillWord s (VSlot.cls sl) id.toNat x true

/-- `vspill` run by itself: its effect settled as `complete` says. -/
def execVspill (sl : VSlot) (id : BitVec 8) (a : BitVec 5) (s : State) : Host.Outcome State Fault Refusal := complete s (doVspill sl id a s)

/-- `vfill`, latency 8 (R42, R154). -/
def doVfill (sl : VSlot) (d : BitVec 5) (id : BitVec 8) (s : State) : Res State :=
  match spillFound s.my (VSlot.cls sl) id.toNat true with
  | .error e => .error e
  | .ok v => putV (noteFill s id.toNat) sl d.toNat 8 v

/-- `vfill` run by itself: its effect settled as `complete` says. -/
def execVfill (sl : VSlot) (d : BitVec 5) (id : BitVec 8) (s : State) : Host.Outcome State Fault Refusal := complete s (doVfill sl d id s)

end Sys2Proof.Machine
end

