-- ==== Sys2Proof/Machine/Words.lean ====
section
/-! DEFINITION. What a word does inside the bundle in issue: the same meanings `exec` runs, before their outcome is settled
for the whole bundle (R44). -/
namespace Sys2Proof.Machine

/-- The own effect of a word of the bundle in issue; other constructors are no words and do nothing here. -/
def wordExec (i : Instr) (s : State) : Res State :=
  match i with
  | .nop => doNop s
  | .add d a b w => doAdd d a b w s
  | .sub d a b w => doSub d a b w s
  | .and d a b w => doAnd d a b w s
  | .or d a b w => doOr d a b w s
  | .xor d a b w => doXor d a b w s
  | .andn d a b w => doAndn d a b w s
  | .shl d a b w => doShl d a b w s
  | .shr d a b w => doShr d a b w s
  | .sra d a b w => doSra d a b w s
  | .rol d a b w => doRol d a b w s
  | .mul d a b w => doMul d a b w s
  | .mulh d a b w => doMulh d a b w s
  | .mulhn d a b w => doMulhn d a b w s
  | .div d a b w => doDiv d a b w s
  | .divn d a b w => doDivn d a b w s
  | .rem d a b w => doRem d a b w s
  | .remn d a b w => doRemn d a b w s
  | .min d a b w => doMin d a b w s
  | .max d a b w => doMax d a b w s
  | .minn d a b w => doMinn d a b w s
  | .maxn d a b w => doMaxn d a b w s
  | .clz d a w => doClz d a w s
  | .popc d a w => doPopc d a w s
  | .ctz d a w => doCtz d a w s
  | .cmov d a b w => doCmov d a b w s
  | .ceq d a b w => doCeq d a b w s
  | .cne d a b w => doCne d a b w s
  | .clt d a b w => doClt d a b w s
  | .cle d a b w => doCle d a b w s
  | .cltn d a b w => doCltn d a b w s
  | .clen d a b w => doClen d a b w s
  | .addi d a imm => doAddi d a imm s
  | .andi d a imm => doAndi d a imm s
  | .ori d a imm => doOri d a imm s
  | .xori d a imm => doXori d a imm s
  | .shli d a imm => doShli d a imm s
  | .shri d a imm => doShri d a imm s
  | .srai d a imm => doSrai d a imm s
  | .ceqi d a imm => doCeqi d a imm s
  | .clti d a imm => doClti d a imm s
  | .cltni d a imm => doCltni d a imm s
  | .li d imm => doLi d imm s
  | .lis d imm => doLis d imm s
  | .get d file idx lane => doGet d file idx lane s
  | .push w a => doPush w a s
  | .bz a hint disp => doBz a hint disp s
  | .bnz a hint disp => doBnz a hint disp s
  | .blz a hint disp => doBlz a hint disp s
  | .bgez a hint disp => doBgez a hint disp s
  | .br hint disp => doBr hint disp s
  | .call hint disp => doCall hint disp s
  | .jr a => doJr a s
  | .jlr a => doJlr a s
  | .loop level a body => doLoop level a body s
  | .lexit level => doLexit level s
  | .wait ld st cp tl => doWait ld st cp tl s
  | .frame => doFrame s
  | .mfs d reg => doMfs d reg s
  | .mts a reg => doMts a reg s
  | .spill id a => doSpill id a s
  | .fill d id => doFill d id s
  | .trap code => doTrap code s
  | .tret => doTret s
  | .exit => doExit s
  | .brk code => doBrk code s
  | .fwcall service => doFwcall service s
  | .idle => doIdle s
  | .vnop sl => doVnop sl s
  | .vadd sl fmt d a b k => doVadd sl fmt d a b k s
  | .vsub sl fmt d a b k => doVsub sl fmt d a b k s
  | .vmul sl fmt d a b k => doVmul sl fmt d a b k s
  | .vfma sl fmt d a b k => doVfma sl fmt d a b k s
  | .vfms sl fmt d a b k => doVfms sl fmt d a b k s
  | .vmin sl fmt d a b k => doVmin sl fmt d a b k s
  | .vmax sl fmt d a b k => doVmax sl fmt d a b k s
  | .vabs sl fmt d a k => doVabs sl fmt d a k s
  | .vneg sl fmt d a k => doVneg sl fmt d a k s
  | .vtsum sl fmt d a b k => doVtsum sl fmt d a b k s
  | .vadds sl fmt d a b k => doVadds sl fmt d a b k s
  | .vsubs sl fmt d a b k => doVsubs sl fmt d a b k s
  | .vrcp sl fmt d a k => doVrcp sl fmt d a k s
  | .vrsq sl fmt d a k => doVrsq sl fmt d a k s
  | .vexp2 sl fmt d a k => doVexp2 sl fmt d a k s
  | .vlog2 sl fmt d a k => doVlog2 sl fmt d a k s
  | .vsqrt sl fmt d a k => doVsqrt sl fmt d a k s
  | .vflr sl fmt d a k => doVflr sl fmt d a k s
  | .vand sl d a b k => doVand sl d a b k s
  | .vor sl d a b k => doVor sl d a b k s
  | .vxor sl d a b k => doVxor sl d a b k s
  | .vnot sl d a k => doVnot sl d a k s
  | .vshl sl fmt d a b k => doVshl sl fmt d a b k s
  | .vshr sl fmt d a b k => doVshr sl fmt d a b k s
  | .vsra sl fmt d a b k => doVsra sl fmt d a b k s
  | .vaddi sl fmt d a imm => doVaddi sl fmt d a imm s
  | .vshli sl fmt d a imm => doVshli sl fmt d a imm s
  | .vshri sl fmt d a imm => doVshri sl fmt d a imm s
  | .vsplat sl fmt d a imm => doVsplat sl fmt d a imm s
  | .vceq sl fmt d a b k => doVceq sl fmt d a b k s
  | .vcne sl fmt d a b k => doVcne sl fmt d a b k s
  | .vclt sl fmt d a b k => doVclt sl fmt d a b k s
  | .vcle sl fmt d a b k => doVcle sl fmt d a b k s
  | .vcun sl fmt d a b k => doVcun sl fmt d a b k s
  | .kand sl d a b => doKand sl d a b s
  | .kor sl d a b => doKor sl d a b s
  | .kxor sl d a b => doKxor sl d a b s
  | .knot sl d a => doKnot sl d a s
  | .vsel sl d a b k => doVsel sl d a b k s
  | .vmov sl d a k => doVmov sl d a k s
  | .vget sl d file idx lane => doVget sl d file idx lane s
  | .viota sl fmt d k => doViota sl fmt d k s
  | .vlane sl fmt d a b k => doVlane sl fmt d a b k s
  | .vradd sl fmt d a k => doVradd sl fmt d a k s
  | .vrmax sl fmt d a k => doVrmax sl fmt d a k s
  | .vrmin sl fmt d a k => doVrmin sl fmt d a k s
  | .vrarg sl fmt d a k => doVrarg sl fmt d a k s
  | .vcvt sl fd d a fs rnd sat => doVcvt sl fd d a fs rnd sat s
  | .vdefer sl cnt a b k => doVdefer sl cnt a b k s
  | .vdrain sl d o km => doVdrain sl d o km s
  | .vpush sl w a => doVpush sl w a s
  | .vspill sl id a => doVspill sl id a s
  | .vfill sl d id => doVfill sl d id s
  | .mnop => doMnop s
  | .mcall routine nocorr limc e5 ceil start => doMcall routine nocorr limc e5 ceil start s
  | .mset p imm => doMset p imm s
  | .mseth => doMseth s
  | .mget p a => doMget p a s
  | .mabort => doMabort s
  | .cnop sl => doCnop sl s
  | .ldi8 sl base q disp => doLdi8 sl base q disp s
  | .ldn8 sl base q disp => doLdn8 sl base q disp s
  | .ldi16 sl base q disp => doLdi16 sl base q disp s
  | .ldn16 sl base q disp => doLdn16 sl base q disp s
  | .ldi32 sl base q disp => doLdi32 sl base q disp s
  | .ldn32 sl base q disp => doLdn32 sl base q disp s
  | .ld64 sl base q disp => doLd64 sl base q disp s
  | .vld sl base q disp => doVld sl base q disp s
  | .vldg sl base q w sc => doVldg sl base q w sc s
  | .vlds sl base a q => doVlds sl base a q s
  | .st8 sl base w disp => doSt8 sl base w disp s
  | .st16 sl base w disp => doSt16 sl base w disp s
  | .st32 sl base w disp => doSt32 sl base w disp s
  | .st64 sl base w disp => doSt64 sl base w disp s
  | .vst sl base w disp => doVst sl base w disp s
  | .vsts sl base a w => doVsts sl base a w s
  | .vstm sl base wd wi sc => doVstm sl base wd wi sc s
  | .aadd sl base q scope order disp => doAadd sl base q scope order disp s
  | .amin sl base q scope order disp => doAmin sl base q scope order disp s
  | .amax sl base q scope order disp => doAmax sl base q scope order disp s
  | .aand sl base q scope order disp => doAand sl base q scope order disp s
  | .aor sl base q scope order disp => doAor sl base q scope order disp s
  | .axch sl base q scope order disp => doAxch sl base q scope order disp s
  | .acas sl base q scope order disp => doAcas sl base q scope order disp s
  | .afadd sl base q scope order disp => doAfadd sl base q scope order disp s
  | .aminn sl base q scope order disp => doAminn sl base q scope order disp s
  | .amaxn sl base q scope order disp => doAmaxn sl base q scope order disp s
  | .fence sl scope order => doFence sl scope order s
  | .fencex sl from_ to_ scope => doFencex sl from_ to_ scope s
  | .pbar sl => doPbar sl s
  | .tloadSlot sl base a slot pitched => doTloadSlot sl base a slot pitched s
  | .tloadRing sl base a ring pitched => doTloadRing sl base a ring pitched s
  | .rpush sl slot ring => doRpush sl slot ring s
  | .tstore sl base a slot pitched => doTstore sl base a slot pitched s
  | .tstoreDur sl base a slot pitched => doTstoreDur sl base a slot pitched s
  | .ttrn sl base slot => doTtrn sl base slot s
  | .tcvt sl base slot rnd => doTcvt sl base slot rnd s
  | .tzero sl slot => doTzero sl slot s
  | .tfree sl slot => doTfree sl slot s
  | .tgath sl base a slot w => doTgath sl base a slot w s
  | .wget sl base a n => doWget sl base a n s
  | .wput sl base a n => doWput sl base a n s
  | .wadd sl base a n int => doWadd sl base a n int s
  | .coll sl base op => doColl sl base op s
  | .smap sl base a n => doSmap sl base a n s
  | .swb sl base n => doSwb sl base n s
  | .sinv sl base n discard => doSinv sl base n discard s
  | .pref sl base disp => doPref sl base disp s
  | .enq sl base q lq => doEnq sl base q lq s
  | .cancel sl base level => doCancel sl base level s
  | .cnt sl base q level kind => doCnt sl base q level kind s
  | .cli sl d a imm => doCli sl d a imm s
  | .cadd sl d a imm => doCadd sl d a imm s
  | .cget sl d file idx lane => doCget sl d file idx lane s
  | .cstr sl d level sreg => doCstr sl d level sreg s
  | .xnop => doXnop s
  | .xget d file idx lane => doXget d file idx lane s
  | .xmov fmt d a b => doXmov fmt d a b s
  | .xpack fmt d a b e rnd => doXpack fmt d a b e rnd s
  | .xunpk fmt d a b e => doXunpk fmt d a b e s
  | .xscal fmt d a b e rnd => doXscal fmt d a b e rnd s
  | .xmxs fmt a b e => doXmxs fmt a b e s
  | .xshuf fmt d a b => doXshuf fmt d a b s
  | .xrot fmt d a b => doXrot fmt d a b s
  | .xzip fmt d a b => doXzip fmt d a b s
  | .xuzp fmt d a b => doXuzp fmt d a b s
  | .xlsc e x imm => doXlsc e x imm s
  | .xssc e x imm => doXssc e x imm s
  | .barInit id scope a => doBarInit id scope a s
  | .barArr id scope => doBarArr id scope s
  | .barWait id scope => doBarWait id scope s
  | .barTst id scope q => doBarTst id scope q s
  | .spawn t a b => doSpawn t a b s
  | .yield => doYield s
  | _ => .ok s

end Sys2Proof.Machine
end

