-- ==== Sys2Proof/Machine/Bundle.lean ====
section
/-! DEFINITION. Issuing bundles (R9 to R13, R44, R45): what a seat would issue, its holds and its trap of lowest rank, and
the merge of two seats. -/
namespace Sys2Proof.Machine

/-- The class of a slot instruction; NOPs occupy none (R11, R47). -/
def classOf : Instr → Nat
  | .nop | .vnop _ | .mnop | .cnop _ | .xnop => 0
  | i => match encodeWord i with
    | some w => (fld w 28 3).toNat
    | none => 0

/-- The classes a bundle occupies (R11). -/
def occupied (ws : List Instr) : List Nat := (ws.map classOf).filter (fun c => decide (c ≠ 0))

/-- The place of a class in the order S, V0, V1, X, M, C0, C1 in which the words of a bundle act: SRSTATE uses, pushes
before takes, and sequence numbers M, C0, C1 (R27, R87, R174, R217). -/
def actOrder (cls : Nat) : Nat :=
  match cls with
  | 1 => 0 | 2 => 1 | 3 => 2 | 7 => 3 | 4 => 4 | 5 => 5 | 6 => 6 | _ => 7

/-- The words of a bundle in the order in which they act; words stand in class order (R48). -/
def actWords (ws : List Instr) : List Instr :=
  (List.range 7).flatMap (fun o => ws.filter (fun i => decide (classOf i ≠ 0) && decide (actOrder (classOf i) = o)))

/-- What the words of a bundle did: the state they leave, the first hold, and every trap. -/
structure Acted where
  st    : State
  hold  : Option Hold
  traps : List TrapRec
  fault : Option Fault

/-- A hold that counts against the loop framing hold: framing comes last (R33). -/
def firstHold (a : Option Hold) (h : Hold) : Option Hold :=
  match a with
  | none => some h
  | some (.framing n) => match h with | .framing _ => some (.framing n) | h => some h
  | some .drain => match h with | .framing _ => some .drain | .drain => some .drain | h => some h
  | some x => some x

/-- One word of the bundle acts. -/
def actOne (a : Acted) (i : Instr) : Acted :=
  match wordExec i a.st with
  | .ok s => { a with st := s }
  | .error (.hold h) => { a with hold := firstHold a.hold h }
  | .error (.trap t) => { a with traps := a.traps ++ [t] }
  | .error (.fault f) => { a with fault := some f }

/-- A check of the whole bundle, after its words. -/
def actCheck (a : Acted) (r : Res Unit) : Acted :=
  match r with
  | .ok _ => a
  | .error (.hold h) => { a with hold := firstHold a.hold h }
  | .error (.trap t) => { a with traps := a.traps ++ [t] }
  | .error (.fault f) => { a with fault := some f }

/-- A trap as a check. -/
def trapCheck (t : Option TrapRec) : Res Unit :=
  match t with
  | none => .ok ()
  | some t => .error (.trap t)

/-- `pbar` of the seat's previous bundle not yet complete (R44, R187). -/
def pbarHold (c : Ctx) : Res Unit := if c.per.armed then holdOf .other else .ok ()

/-- The trap that a bundle takes: lowest rank, then lowest class, then the first met (R323). -/
def worstTrap : List TrapRec → Option TrapRec
  | [] => none
  | t :: ts =>
    match worstTrap ts with
    | none => some t
    | some u => if u.rank * 8 + u.cls < t.rank * 8 + t.cls then some u else some t

/-- The iteration a header's F and L flags ask for (R35): `none` when its level is not active; else whether the bundle
issues as a no-op. -/
def flagSkip (c : Ctx) (h : W32) : Option Bool :=
  if hdrF h = false ∧ hdrL h = false then some false
  else
    match c.flow.loops[(hdrLevel h).toNat]? with
    | none => none
    | some l => some ((hdrF h && decide (l.iter ≠ 0)) || (hdrL h && !(l.finish || decide (l.rem ≤ 1))))

/-- What a seat would issue in this cycle (R12, R44). -/
inductive Ready where
  /-- Nothing: not running, or in a bubble, an exchange, a framing hold, a debug stop. The state counts the cycle. -/
  | none (s : State)
  /-- Holds; the state is after the cycle. -/
  | hold (s : State) (h : Hold)
  /-- A trap before or at issue, taken without the merge when it is one of stage 1 or 2. -/
  | trap (t : TrapRec)
  /-- Ready: the classes it occupies, the state its words leave or the trap it takes at issue. -/
  | ready (classes : List Nat) (acted : Acted) (mask : BitVec 8)
  /-- A stamped context's empty bundle while FRAME is below the stamp (R315). -/
  | empty
  | fault (f : Fault)

/-- The trap record of stage 1 and its kind. -/
def stage1 (rank : Nat) (code : TrapCode) (tval : W64) : Ready := .trap { rank := rank, cls := 0, code := code, tval := tval }

/-- A context that runs bundles now: busy, neither halted nor saved, and either inside a tile step, spawned, or in a
handler (R9, R305, R322). -/
def Ctx.runs (c : Ctx) : Bool :=
  c.run.live && !c.run.halted && !c.run.saved && decide (c.run.bank < 2)
    && (decide (c.lvl ≠ 0) || decide (c.run.wst = .run) || (c.run.spawned && !c.run.ending))

/-- A report that is delivered at the next boundary: the oldest one, at the level its command was issued (R325). -/
def reportDue (c : Ctx) : Option Report :=
  match c.reports with
  | r :: _ => if r.lvl = c.lvl then some r else none
  | [] => none

/-- The bundle boundary belongs to something else: a report, a debug stop, or an exchange (R325, R327, R336). -/
def boundaryTaken (s : State) (k : Nat) : Bool :=
  let c := s.ctx k
  (reportDue c).isSome || decide (c.dbg.st = 3) || decide (c.dbg.st = 6)

/-- A stop asked for takes effect at a boundary; a seat whose bundle has held has not reached one (R333, R334, R336). -/
def freeze (c : Ctx) : Ctx := { c with dbg := { c.dbg with st := 3, ask := false, at_ := c.dbg.mile } }

/-- A stamped context whose step is not eligible meets its overrun at the first bundle (R315, R319). -/
def entryOverruns (s : State) (k : Nat) : Bool :=
  let c := s.ctx k
  c.run.live && !c.run.halted && !c.run.saved && decide (c.run.wst = .enter) && c.stamped && !stepEligible s k

/-- The state in which the words of context `k`'s bundle act. -/
def issueState (s : State) (k : Nat) (ws : List W32) (ins : List Instr) : State :=
  let c := s.ctx k
  { s with
    me := k
    raised := none
    held := none
    ctxs := fset s.ctxs k { c with iss := { pc := c.flow.npc0, len := ws.length, hdr := ws.headD 0, text := ws, ins := ins } } }

/-- The words act in order, then the bundle's own checks (R24, R25, R27, R34, R44). -/
def actBundle (s : State) (mask : BitVec 8) (ws : List Instr) : Acted :=
  let a0 : Acted := { st := s, hold := none, traps := [], fault := none }
  let a1 := (actWords ws).foldl actOne (actCheck a0 (pbarHold s.my))
  let a2 := actCheck a1 (popCheck s.my mask)
  let a3 := actCheck a2 (trapCheck (overflowTrap a2.st.my mask ws))
  actCheck a3 (trapCheck (strideTrap a3.st.my))

/-- ILLEGAL_OP of an F or L header whose level is not active, found at issue (R35, R46). -/
def flagTrap (skip : Option Bool) (h : W32) : Option TrapRec :=
  match skip with
  | none => some { rank := 7, cls := 0, code := 0x02, tval := opTval 2 0 (hdrLevel h).toNat }
  | some _ => none

/-- A bundle framed and decoded: its flags, stamps, words and checks (R35, R44, R315). A stamp is judged when the bundle is
reached: not again after the framing hold, over which FRAME advances, and not before the step is entered, where the hold for
the step overruns first (R315, R319). -/
def readyBundle (s : State) (k : Nat) (ws : List W32) (ins : List Instr) : Ready :=
  let s1 := issueState s k ws ins
  let c := s1.my
  let h := ws.headD 0
  let entering := decide (c.run.wst = .enter) && decide (c.lvl = 0)
  let early := c.stamped && decide (hdrForm h = 1) && !c.flow.framed && !entering
  if early && decide (c.ctr.frame.toNat < (hdrStamp h).toNat) then .empty
  else if early && decide ((hdrStamp h).toNat < c.ctr.frame.toNat) then
    .trap { rank := 5, cls := 0, code := 0x10, tval := stampTval c 0 }
  else
    let skip := flagSkip c h
    if skip = some true ∧ entering = false then .ready [] { st := s1, hold := none, traps := [], fault := none } 0
    else
      let a := if entering then { st := s1, hold := some .tile, traps := [], fault := none }
        else actCheck (actBundle s1 (hdrPop h) ins) (trapCheck (flagTrap skip h))
      match a.fault, a.hold with
      | some f, _ => .fault f
      | none, some hd =>
        match holdOrOverrun s1 hd with
        | some t => .trap t
        | none => .hold s1 hd
      | none, none => .ready (occupied ins) a (hdrPop h)

/-- DS_BRANCH at decode: the S word of the bundle (R31, R37). -/
def dsWord (c : Ctx) : Instr → Option TrapRec
  | .bz _ _ _ | .bnz _ _ _ | .blz _ _ _ | .bgez _ _ _ | .br _ _ | .call _ _ | .jr _ | .jlr _ => dsTrap c true
  | .loop _ _ _ | .lexit _ | .tret | .exit => dsTrap c false
  | _ => none

/-- What the seat of context `k` would issue: framing, decode, DS_BRANCH, then the bundle (R44, R48 to R54). -/
def seatReady (s : State) (k : Nat) : Ready :=
  let c := s.ctx k
  if !(c.runs || entryOverruns s k) || boundaryTaken s k then .none s
  else if flipBlocks s c.run.space c.flow.npc0 then .none s
  else if c.dbg.ask && !c.flow.holding then .none (s.setCtx k (freeze c))
  else if c.flow.start ≠ 0 then .none (s.setCtx k { c with flow := { c.flow with start := c.flow.start - 1 } })
  else if c.flow.bubble ≠ 0 then .none (s.setCtx k { c with flow := { c.flow with bubble := c.flow.bubble - 1 } })
  else if c.flow.framing ≠ 0 then
    let c1 := { c with flow := { c.flow with framing := c.flow.framing - 1, framed := decide (c.flow.framing = 1) } }
    let c2 := if c.stamped then { c1.cyclePend with ctr := { c1.ctr with frame := c1.ctr.frame + 1 } } else c1
    .none (s.setCtx k c2)
  else
    match frameFor s k c.flow.npc0 with
    | .fault (.code e, a) => stage1 1 e a
    | .fault (.fault f, _) => .fault f
    | .bad r i => stage1 2 0x01 (frameTval r i)
    | .bundle ws =>
      match judgeBundle c.run.stmp ws with
      | .error tval => stage1 3 0x02 tval
      | .ok ins =>
        match ins.findSome? (dsWord c) with
        | some t => .trap t
        | none => readyBundle s k ws ins

/-- What a bundle that takes a trap has translated: its own words, and the address of a fault of translation (R347); what
aborts it leaves its record (R350, R362). -/
def noteTrap (s : State) (k : Nat) (t : TrapRec) : State :=
  let c := s.ctx k
  let s1 := if (loopCopy c c.flow.npc0).isNone then noteFetch s k c.flow.npc0 1 else s
  if t.code = 0x07 ∨ t.code = 0x08 ∨ t.code = 0x09 then noteXl s1 c.run.lcore c.run.space t.tval
  else if t.code = 0x13 ∧ t.rank ≠ 11 then noteAbort s1 c.run.lcore c.run.space t.tval 0
  else s1

/-- The seat takes a trap in this cycle. -/
def seatTrap (s : State) (k : Nat) (t : TrapRec) : State :=
  let s1 := takeTrapAt (noteTrap s k t) k t.code t.tval true
  let c := s1.ctx k
  let stays := decide (c.dbg.st = 4) && !(c.dbg.steph && decide (c.dbg.stepTraps = 0))
  let d := if stays then { c.dbg with st := 3 } else { c.dbg with stepTraps := c.dbg.stepTraps + 1 }
  { s1.setCtx k { c with dbg := d } with raised := some t }

/-- A seat holds for this cycle: the framing count starts, `idle` begins to listen, `tret` and `exit` let their pending
writes land (R33, R125, R127, R128; log entry 15). -/
def seatHold (s : State) (k : Nat) (h : Hold) : State :=
  let c := s.ctx k
  let c1 := match h with
    | .framing n =>
      let c1 := { c with flow := { c.flow with framing := n - 1, framed := decide (n ≤ 1) } }
      if c.stamped then { c1.cyclePend with ctr := { c1.ctr with frame := c1.ctr.frame + 1 } } else c1
    | .idle => { c with flow := { c.flow with idle := true } }
    | .drain => c.cyclePend
    | .barrier => { c with flow := { c.flow with barHeld := c.flow.barHeld + 1 } }
    | _ => c
  { s.setCtx k { c1 with iss := {}, flow := { c1.flow with holding := true } } with held := some h }

/-- A stamped context's empty bundle: one seat cycle in which nothing else happens (R315). It is the one bundle of a debug
step (R20, R336). -/
def seatEmpty (s : State) (k : Nat) : State :=
  let c := (s.ctx k).cyclePend
  s.setCtx k (stepDone { c with ctr := { c.ctr with frame := c.ctr.frame + 1 } })

/-- A context that issues holds its image slot no longer (R328). -/
def leaveSlot (s : State) (k : Nat) : State :=
  let c := s.ctx k
  if c.run.slotted then freeSlotsOf (s.setCtx k { c with run := { c.run with slotted := false } }) k else s

/-- The bundle of context `k` issues: its trap of lowest rank, or its words and its end (R44, R45). -/
def seatIssue (s : State) (k : Nat) (a : Acted) (mask : BitVec 8) : State :=
  match worstTrap a.traps with
  | some t => seatTrap s k t
  | none =>
    let c := s.ctx k
    let s1 := leaveSlot (finishBundle a.st mask) k
    if (loopCopy c c.flow.npc0).isNone then noteFetch s1 k c.flow.npc0 (a.st.ctx k).iss.len else s1

/-- Whether a seat is ready, and with which classes. -/
def readyClasses : Ready → Option (List Nat)
  | .ready cs _ _ => some cs
  | .empty => some []
  | _ => none

/-- Two bundles occupy a common class (R11). -/
def collide (a b : List Nat) : Bool := a.any (fun x => b.contains x)

/-- The merge decision of R12: which seats issue. -/
def mergeIssue (det0 det1 : Bool) (starve : Nat) (r0 r1 : Option (List Nat)) : Bool × Bool :=
  let prio := if det0 then 0 else if det1 then 1 else if 4 ≤ starve then 1 else 0
  match r0, r1 with
  | some a, some b => if collide a b then (decide (prio = 0), decide (prio = 1)) else (true, true)
  | some _, none => (true, false)
  | none, some _ => (false, true)
  | none, none => (false, false)

/-- `starve1` after a cycle (R12). -/
def nextStarve (starve : Nat) (ready1 issued1 : Bool) : Nat :=
  if ready1 ∧ ¬ issued1 then min (starve + 1) 7 else 0

/-- What a seat does in the cycle when it may issue: the state from which its bundle was judged may have been changed by
the other seat, so the bundle is judged again on the present state (its own readiness does not change, R45). -/
def seatGo (s : State) (k : Nat) : Except Fault State :=
  match seatReady s k with
  | .none s' => .ok s'
  | .hold s' h => .ok (seatHold s' k h)
  | .trap t => .ok (seatTrap s k t)
  | .ready _ a mask => .ok (seatIssue s k a mask)
  | .empty => .ok (seatEmpty s k)
  | .fault f => .error f

/-- A seat that does not issue because it lost a collision: nothing of it moves (R17). -/
def seatStep (s : State) (k : Nat) (r : Ready) (issue : Bool) : Except Fault State :=
  match r with
  | .ready _ _ _ | .empty => if issue then seatGo s k else .ok s
  | _ => seatGo s k

/-- The cycle count of a core's die, and the exchange and retire-map counts of the core (R10, R214, R391; log entry 5). -/
def tickCore (s : State) (core : Nat) : State :=
  let d := s.die (dieOf core)
  let s1 := s.setDie (dieOf core) { d with cycle := d.cycle + 1 }
  let x := s1.core core
  let ex := match x.exch with
    | some e => some { e with left := e.left - 1 }
    | none => none
  s1.setCore core { x with exch := ex, busyMap := x.busyMap - 1 }

/-- Issue is withheld from the core for this cycle, or the module is without power (R399). -/
def withheld (s : State) (core : Nat) : Bool :=
  !s.dev.powered || (decide (core < 2048) && bit (s.die (dieOf core)).throttled (core % 64))

/-- What a seat of a core would issue. -/
def coreSeat (s : State) (core seat : Nat) : Ready :=
  if exchanging s core seat || withheld s core then .none s else seatReady s (s.bankOf core seat)

/-- One cycle of a core (R12): both seats are judged, the merge decides, seat 0 acts before seat 1, `starve1` moves. -/
def coreCycle (s : State) (core : Nat) : Except Fault State :=
  let k0 := s.bankOf core 0
  let k1 := s.bankOf core 1
  let r0 := coreSeat s core 0
  let r1 := coreSeat s core 1
  let x := s.core core
  let go := mergeIssue ((s.ctx k0).run.det && (s.ctx k0).run.busy) ((s.ctx k1).run.det && (s.ctx k1).run.busy)
    x.starve1 (readyClasses r0) (readyClasses r1)
  let st := nextStarve x.starve1 (readyClasses r1).isSome go.2
  match (if exchanging s core 0 || withheld s core then .ok s else seatStep s k0 r0 go.1) with
  | .error f => .error f
  | .ok s1 =>
    match (if exchanging s core 1 || withheld s core then .ok s1 else seatStep s1 k1 r1 go.2) with
    | .error f => .error f
    | .ok s2 =>
      let y := s2.core core
      .ok (tickCore (s2.setCore core { y with starve1 := st }) core)

end Sys2Proof.Machine
end

