-- ==== Sys2Proof/Machine/Walk.lean ====
section
/-! DEFINITION. What the dispatchers decide (R300, R305 to R313, R318, R333): which launch may start, which seat may claim, steal,
be pre-empted or resume, and when a launch has ended. -/
namespace Sys2Proof.Machine

/-! Queues (R311, R312) -/

/-- A predecessor has ended completed, or names no launch (R312). -/
def predDone (s : State) (p : Nat) : Bool :=
  decide (p = 0) || (match fget? s.dev.launches p with
    | some x => decide (x.st = .ended false)
    | none => true)

/-- A predecessor has ended failed (R311). -/
def predFailed (s : State) (p : Nat) : Bool :=
  decide (p ≠ 0) && (match fget? s.dev.launches p with
    | some x => decide (x.st = .ended true)
    | none => false)

/-- A queued launch whose predecessors have ended completed (R312). -/
def runnable (s : State) (l : Nat) : Bool :=
  let x := s.launch l
  decide (x.st = .queued) && !x.cancelled && predDone s x.rec_.after0 && predDone s x.rec_.after1

/-- The head of a queue: the earliest launch that does not wait for a predecessor (R312). -/
def queueHead (s : State) (q : Nat) : Option Nat := (fget [] s.dev.queues q).find? (runnable s)

/-- The launch that the dispatcher starts next: descending PRIO, then the lower queue (R312). -/
def nextLaunchOf (s : State) : Option Nat :=
  (List.range 64).foldl (fun (r : Option Nat) q =>
    match r, queueHead s q with
    | none, h => h
    | some l, some m => if (s.launch l).rec_.prio < (s.launch m).rec_.prio then some m else some l
    | some l, none => some l) none

/-- A source event on every die that the device holds state of. -/
def raiseEvery (s : State) (k : Nat) : State := (s.dies.map (·.1)).foldl (fun s d => raiseSource s d k) s

/-! Claims (R306) -/

/-- A launch whose walkers may take work: running, not cancelled, not being stopped (R305, R311, R333). -/
def Launch.working (x : Launch) : Bool := decide (x.st = .running) && !x.cancelled && x.stopping.isNone

/-- A logical core that may receive contexts: ready, in service, no rebinding due (R362, R377, R379, R383). -/
def coreOpen (s : State) (core : Nat) : Bool :=
  decide (core < 2048) && coreReady s core && decide (pcState (pcstat s (core / 64) (physOf s core)) = 0)
    && !((s.die (core / 64)).rebind.any (fun p => decide (p.1 = core % 64)))

/-- A pool that a core's map entry names. -/
def Pool.names (p : Pool) (core : Nat) : Bool := decide (p.die = core / 64) && bit p.cores (core % 64)

/-- The range that a core could claim from a pool: its static range under DET, else a share of the unclaimed range. -/
def Pool.offer (p : Pool) (det two : Bool) (core : Nat) : Option (Nat × Nat) :=
  if !p.names core then none
  else if det then (p.static.find? (fun r => decide (r.1 = core))).map (fun r => (r.2.1, r.2.2))
  else if p.b ≤ p.a then none
  else
    let seats := (entryCores p.cores p.die).flatMap (fun c => if two then [2 * c, 2 * c + 1] else [2 * c])
    let k := max 1 ((seats.filter (fun i => !p.claimed.contains i)).length)
    some (p.a, p.a + (p.b - p.a + k - 1) / k)

/-- A launch holds work for a seat of a core (R306). -/
def hasWork (s : State) (core seat l : Nat) : Bool :=
  let x := s.launch l
  x.working && (decide (seat = 0) || decide (x.rec_.seats = 1))
    && x.pools.any (fun p => (p.offer x.rec_.det (decide (x.rec_.seats = 1)) core).isSome)

/-- The images of two launches agree, or one of them loads none (R222). -/
def imagesAgree (a b : Launch) : Bool := a.image.isNone || b.image.isNone || decide (a.image = b.image)

/-- No context in some banks of a core is of a launch with another image (R222). -/
def banksAgree (s : State) (core l : Nat) (banks : List Nat) : Bool :=
  banks.all (fun b => let c := s.ctx (s.bankOf core b); !c.run.live || imagesAgree (s.launch c.run.launch) (s.launch l))

/-- The standby bank holds a context that comes in next, or one that has no other place yet (R328). -/
def standbyUsed (s : State) (core : Nat) : Bool :=
  (s.core core).want.isSome || !(s.die (dieOf core)).pool.any (fun e => decide (e.2 = s.bankOf core 2))

/-- No other context of a core is of a launch with another image (R222). -/
def coreAdmits (s : State) (core seat l : Nat) : Bool :=
  banksAgree s core l ((1 - seat) :: (if standbyUsed s core then [2] else []))

/-- The image of a launch is on a core, or it has none (R300). -/
def imageLoaded (s : State) (core l : Nat) : Bool :=
  (s.launch l).image.isNone || decide ((s.core core).image = (s.launch l).image)

/-- A seat that launch `l` may use: idle on an open core, or held by a resting context of the launch (R13, R306). -/
def seatFor (s : State) (core seat l : Nat) : Bool :=
  let r := (s.launch l).rec_
  (decide (seat = 0) || decide (seat = 1 ∧ r.seats = 1)) && coreAdmits s core seat l
    && (restsOn s core seat l || (coreOpen s core && !seatBusy s core seat && !(r.det && coreDet s core)))

/-- The highest priority among the launches that hold work for a seat (R306). -/
def bestFor (s : State) (core seat l : Nat) : Bool :=
  (launchIds s).all (fun m => !hasWork s core seat m || !coreAdmits s core seat m
    || decide ((s.launch m).rec_.prio ≤ (s.launch l).rec_.prio))

/-! Resuming (R313) -/

/-- The seats that a launch may use on a die, in order (R313). -/
def seatsOn (s : State) (d l : Nat) : List (Nat × Nat) :=
  let r := (s.launch l).rec_
  (List.range 64).flatMap (fun c =>
    if (s.launch l).pools.any (fun p => p.names (64 * d + c)) then
      (if r.seats = 1 then [(64 * d + c, 0), (64 * d + c, 1)] else [(64 * d + c, 0)])
    else [])

/-- A seat is idle and may receive a context of a launch: a context that rests there without a range and with nothing
outstanding does not make it busy (R305, R313). -/
def idleFor (s : State) (l : Nat) (p : Nat × Nat) : Bool := seatFor s p.1 p.2 l && !spawnBusy s p.1 p.2

/-- The seat on which a saved context resumes: the one it left, else the first idle one from the die it left on (R313). -/
def resumeSeat (s : State) (k : Nat) : Option (Nat × Nat) :=
  let r := (s.ctx k).run
  if idleFor s r.launch (r.lcore, r.bank) then some (r.lcore, r.bank)
  else (List.range 32).findSome? (fun i => (seatsOn s ((dieOf r.lcore + i) % 32) r.launch).find? (idleFor s r.launch))

/-- A context put among others in the order of their exchanges (R313). -/
def insertSaved (s : State) (k : Nat) : List Nat → List Nat
  | [] => [k]
  | j :: r => if (s.ctx k).run.savedAt ≤ (s.ctx j).run.savedAt then k :: j :: r else j :: insertSaved s k r

/-- The saved contexts of the device, oldest exchange first (R313). -/
def savedList (s : State) : List Nat :=
  ((s.dies.flatMap (fun p => p.2.savedq)).filter (fun k => (s.ctx k).run.live && (s.ctx k).run.saved)).foldr (insertSaved s) []

/-- A saved context may issue again: its launch is not gathering for a stop, and under a stop it has yet to reach the target
(R313, R333). -/
def mayResume (s : State) (k : Nat) : Bool :=
  let c := s.ctx k
  c.run.live && c.run.saved && !c.run.halted
    && (match (s.launch c.run.launch).stopping with
        | none => true
        | some none => false
        | some (some T) => !(c.dbg.at_ && decide (c.ctr.msord = T)) && !c.dbg.missed)

/-- A saved context of the launch waits for this seat, which comes before a new claim or steal (R313). -/
def resumeDue (s : State) (core seat l : Nat) : Bool :=
  (savedList s).any (fun k => decide ((s.ctx k).run.launch = l) && mayResume s k && decide (resumeSeat s k = some (core, seat)))

/-- A claim of a seat from a pool is allowed (R300, R306, R313). A seat to which a granted range is on its way is busy (R41). -/
def mayClaim (s : State) (core seat l entry : Nat) : Option (Nat × Nat) :=
  let x := s.launch l
  if stealGranted s core seat then none
  else if hasWork s core seat l && seatFor s core seat l && bestFor s core seat l && imageLoaded s core l && !resumeDue s core seat l then
    match x.pools[entry]? with
    | some p => p.offer x.rec_.det (decide (x.rec_.seats = 1)) core
    | none => none
  else none

/-- A pool after a core's seat has taken a range from it. -/
def Pool.taken (p : Pool) (det : Bool) (core seat b : Nat) : Pool :=
  if det then { p with static := p.static.filter (fun r => decide (r.1 ≠ core)) }
  else { p with a := b, claimed := if p.claimed.contains (2 * core + seat) then p.claimed else p.claimed ++ [2 * core + seat] }

/-- The walker of a context takes a range (R305). -/
def Ctx.takeRange (c : Ctx) (a b : Nat) : Ctx := { c with run := { c.run with wst := .enter, lo := a, cur := a, hi := b } }

/-- The run of a context that the dispatcher starts (R303). -/
def newRun (s : State) (core seat l : Nat) : Run :=
  let r := (s.launch l).rec_
  { busy := true, live := true, launch := l, domain := domainOf s l, space := r.space, det := r.det, stmp := r.stmp, pre := r.pre,
    lcore := core, bank := seat, firstCore := core, firstSeat := seat }

/-! Steals (R307, R308) -/

/-- A walker that a steal may split (R307). -/
def mayLose (s : State) (l : Nat) (k : Nat) : Bool :=
  let r := (s.ctx k).run
  decide (r.launch = l) && r.live && !r.halted && !r.saved && !r.spawned && decide (r.wst ≠ .none) && decide (r.bank < 2)
    && !exchanging s r.lcore r.bank && decide (r.cur + 2 ≤ r.hi)

/-- The better of two victims: more steps left, then the lower core, then seat 0 (R307). -/
def betterVictim (s : State) (a b : Nat) : Nat :=
  let x := (s.ctx a).run
  let y := (s.ctx b).run
  let n := x.hi - x.cur
  let m := y.hi - y.cur
  if n < m ∨ (n = m ∧ 2 * y.lcore + y.bank < 2 * x.lcore + x.bank) then b else a

/-- The victim that the dispatchers choose, from the thief's die on, leaving out those that have refused (R307). -/
def victimOf (s : State) (l die : Nat) (tried : List Nat) : Option Nat :=
  (List.range 32).findSome? (fun i =>
    let d := (die + i) % 32
    (s.ctxs.map (·.1)).foldl (fun (r : Option Nat) k =>
      if mayLose s l k && decide (dieOf (s.ctx k).run.lcore = d) && !tried.contains k then
        (match r with
         | none => some k
         | some j => some (betterVictim s j k))
      else r) none)

/-- The launch for which a seat asks to steal (R307): that of the context that rests there; else, of those that name the seat
and have a walker to split, the one of highest priority, then the lowest identifier (log entry 84). A seat that has work to
claim, or a context to resume, does not steal. -/
def thiefLaunch (s : State) (core seat : Nat) : Option Nat :=
  let may := fun (l : Nat) =>
    let x := s.launch l
    x.working && !x.rec_.det && seatFor s core seat l && x.pools.any (fun p => p.names core) && imageLoaded s core l && !resumeDue s core seat l
  let c := s.ctx (s.bankOf core seat)
  if (launchIds s).any (fun l => hasWork s core seat l && seatFor s core seat l) then none
  else if restsOn s core seat c.run.launch then (if may c.run.launch then some c.run.launch else none)
  else
    (launchIds s).foldl (fun (r : Option Nat) l =>
      if may l && (victimOf s l (dieOf core) []).isSome then
        (match r with
         | none => some l
         | some m => if (s.launch m).rec_.prio < (s.launch l).rec_.prio then some l else some m)
      else r) none

/-- A search ends without a grant: the thief's context ends (R307). -/
def endThief (s : State) (core seat l : Nat) : State :=
  if restsOn s core seat l then
    let k := s.bankOf core seat
    let c := s.ctx k
    s.setCtx k { c with run := { c.run with ending := true } }
  else s

/-- A steal replaced. -/
def putSteal (s : State) (x : Steal) : State :=
  { s with dev := { s.dev with steals := s.dev.steals.map (fun y => if y.id = x.id then x else y) } }

/-- A steal leaves. -/
def dropSteal (s : State) (id : Nat) : State :=
  { s with dev := { s.dev with steals := s.dev.steals.filter (fun y => decide (y.id ≠ id)) } }

/-! The end of contexts and launches (R310, R326) -/

/-- A context has no more work: a spawned one has exited; a walker in NONE has neither a claim nor a steal to come (R305). A
seat whose pool is barred by work of a higher priority obtains no claim, and does not steal (R306; log entry 85); one for which
a saved context of the launch waits gives way to it (R313). -/
def workDone (s : State) (k : Nat) : Bool :=
  let c := s.ctx k
  let l := c.run.launch
  let x := s.launch l
  let work := hasWork s c.run.lcore c.run.bank l
  if c.run.spawned then c.run.ending
  else decide (c.run.wst = .none) && !stealGranted s c.run.lcore c.run.bank
    && (c.run.ending || !x.working || (c.run.det && !work) || (work && !bestFor s c.run.lcore c.run.bank l)
        || resumeDue s c.run.lcore c.run.bank l)

/-- The contexts whose launch is `l`. -/
def ctxsOf (s : State) (l : Nat) : List Nat := (s.ctxs.filter (fun p => decide (p.2.run.launch = l))).map (·.1)

/-- The writes that the contexts of a launch have in flight, those of ended contexts included. -/
def launchWrites (s : State) (l : Nat) : List WriteRec :=
  let ks := ctxsOf s l
  s.writes.filter (fun w => (s.launch l).writes.contains w.id || (decide (w.agent ≠ 0) && ks.contains w.ctx))

/-- Every unit of a launch is accounted for, and nothing of its contexts is left (R309, R310). -/
def launchOver (s : State) (l : Nat) : Bool :=
  let x := s.launch l
  x.alive && (decide (x.st = .running) || x.cancelled || predFailed s x.rec_.after0 || predFailed s x.rec_.after1)
    && decide (x.done.toNat + x.failed.toNat = x.rec_.n)
    && (ctxsOf s l).all (fun k => let c := s.ctx k; (!c.run.live || c.run.halted) && c.cmds.isEmpty && c.call.isNone)
    && s.dev.steals.all (fun t => decide (t.launch ≠ l))

/-- An indivisible add at an address of global memory, performed as a release at sys scope, when the launch's writes have been
performed (R183, R310). -/
def mirrorAdd (s : State) (l space : Nat) (va v : W64) : State :=
  if va = 0 then s
  else if va.toNat % 8 ≠ 0 then s.tell (.addFault l va)
  else
    match xlate s 2048 space va { r := true, w := true, lvl := 2 } with
    | .error _ => s.tell (.addFault l va)
    | .ok x =>
      if (List.range 8).any (fun i => poisoned s (x.key + i)) then s.tell (.addFault l va)
      else
        let s0 := writeBack s (fun w => meet (linesOf w.keys) [x.key / 256])
        let o : W64 := BitVec.ofNat 64 (ofBytes ((List.range 8).map (fun i => cohByte s0 (x.key + i))))
        match unitStore s0 x (pteHome x.leaf) space va true (bytesOf 8 (o + v).toNat) with
        | .ok s1 => s1
        | .error _ => s.tell (.addFault l va)

/-- One more completed or failed launch of a graph, phase or job (R310). -/
def countEnd (s : State) (level ident : Nat) (failed : Bool) : State :=
  if ident = 0 then s
  else
    let one := fun (b : Bool) => (if b then 1 else 0 : W64)
    let cs := s.dev.counts
    let next := if cs.any (fun p => decide (p.1 = level ∧ p.2.1 = ident)) then
        cs.map (fun p => if p.1 = level ∧ p.2.1 = ident then
          (p.1, p.2.1, p.2.2.1 + one (!failed), p.2.2.2 + one failed) else p)
      else cs ++ [(level, ident, one (!failed), one failed)]
    { s with dev := { s.dev with counts := next } }

/-- The persist records of a launch are written all zero and freed (R282). -/
def freeRecords (s : State) (l : Nat) : State :=
  let is := (s.dev.records.filter (fun p => decide (p.2 = l))).map (·.1)
  let s1 := is.foldl (fun (s : State) i =>
    let key := keyNv (Config.nvMapped + 64 * i)
    { s with mem := memWrite s.mem key (List.replicate 64 0), nv := memWrite s.nv key (List.replicate 64 0) }) s
  { s1 with dev := { s1.dev with records := s1.dev.records.filter (fun p => decide (p.2 ≠ l)) } }

/-- A launch ends (R282, R310, R388, R389). -/
def closeLaunch (s : State) (l : Nat) : State :=
  let x := s.launch l
  let r := x.rec_
  let bad := decide (x.failed ≠ 0)
  let s1 := mirrorAdd (mirrorAdd s l r.space r.doneaddr x.done) l r.space r.failaddr x.failed
  let y := s1.launch l
  let s2 := unqueue (s1.setLaunch l { y with st := .ended bad, stopping := none, stopped := false, writes := [] }) l
  let s3 := countEnd (countEnd (countEnd s2 1 r.graph bad) 2 r.phase bad) 3 r.job bad
  let s4 := raiseEvery (traceLaunch s3 l (if bad then 2 else 1)) 21
  freeRecords (endTracesEvery s4 l 4) l

/-! Reports (R325) -/

/-- The bytes of a report record (R325). -/
def reportBytes (r : Report) (num : Nat) : List Byte :=
  bytesOf 8 num ++ bytesOf 8 (r.lvl % 256 + 2 ^ 8 * r.cause.toNat + 2 ^ 16 * (r.status % 256) + 2 ^ 24 * (r.kind % 256)
    + 2 ^ 32 * r.seq.toNat)
  ++ bytesOf 8 r.pc.toNat ++ bytesOf 8 r.detail.toNat ++ bytesOf 8 r.bytes ++ List.replicate 24 0

/-- The place of the next report record of a seat (R325). -/
def reportAddr (s : State) (k : Nat) : W64 :=
  let c := s.ctx k
  dieReg s (dieOf c.run.lcore) 0x4000 0
    + BitVec.ofNat 64 (1024 * (2 * (c.run.lcore % 64) + c.run.bank) + 64 * (c.nrep % 16))

/-- A report is delivered: its record is written, then the level is entered (R321, R325). -/
def deliver (s : State) (k : Nat) (r : Report) : State :=
  let c := s.ctx k
  let d := dieOf c.run.lcore
  let va := reportAddr s k
  let bs := reportBytes r (c.nrep + 1)
  match dieStore s d c.run.space va bs with
  | .error _ => haltCtx (s.tell (.reportFault k va)) k r.cause
  | .ok s1 =>
    let c1 := s1.ctx k
    let s2 := s1.setCtx k { c1 with
      reports := c1.reports.drop 1
      nrep := c1.nrep + 1
      cmds := if r.kind = 8 then c1.cmds.map (fun x => if x.seq = r.seq ∧ x.watch = 1 then { x with watch := 2 } else x) else c1.cmds }
    let s3 := if r.kind = 8 then
        raiseSource (traceAll s2 d 6 c.run.launch (recordBytes (traceHead s2 d (physOf s2 c.run.lcore) 0 6) bs 96)) d 17
      else s2
    takeTrapAt s3 k r.cause va false

/-- A bundle boundary of a seat that may act: it holds a context, is not stopped, exchanging or saved. -/
def atBoundary (s : State) (k : Nat) : Bool :=
  let c := s.ctx k
  c.run.live && !c.run.halted && !c.run.saved && decide (c.run.bank < 2) && decide (c.dbg.st ≠ 3)
    && !exchanging s c.run.lcore c.run.bank && s.dev.powered

end Sys2Proof.Machine
end

