-- ==== Sys2Proof/Machine/Swap.lean ====
section
/-! DEFINITION. Exchanging, saving and resuming contexts (R10, R240, R313, R327 to R332), microprogram images (R222, R300), and stops
(R333 to R337). -/
namespace Sys2Proof.Machine

/-- Image slots of a die's pool (R335). -/
def imageSlots (s : State) (d : Nat) : Nat := (dieReg s d 0x4010 0).toNat % 2 ^ 32

/-- A trap is pending for the seat's next bundle, whatever cycles the seat has still to wait for it (R45, R327). -/
def faultPending (s : State) (k : Nat) : Bool :=
  let c := s.ctx k
  let due := s.setCtx k { c with flow := { c.flow with
    bubble := 0, start := 0, framing := 0, framed := c.flow.framed || decide (c.flow.framing ≠ 0) } }
  match seatReady due k with
  | .trap _ => true
  | .ready _ a _ => (worstTrap a.traps).isSome
  | _ => false

/-- A determinism-flagged context may take a seat: the other running seat of its core holds no other (R13). -/
def detFits (s : State) (core seat k : Nat) : Bool :=
  let o := s.ctx (s.bankOf core (1 - seat))
  !(s.ctx k).run.det || !(o.run.live && o.run.det)

/-- The seat may exchange at its next boundary (R13, R327). -/
def mayExchange (s : State) (core seat : Nat) : Bool :=
  let k := s.bankOf core seat
  let c := s.ctx k
  let j := s.bankOf core 2
  let l := (s.ctx j).run.launch
  decide (seat < 2) && atBoundary s k && decide (c.lvl < 2) && decide (c.dbg.st = 1) && !c.dbg.ask
    && (s.launch c.run.launch).stopping.isNone && (s.core core).exch.isNone && standbyReady s core && mayResume s j
    && (reportDue c).isNone && !faultPending s k
    && decide ((s.die (dieOf core)).pool.length < imageSlots s (dieOf core))
    && banksAgree s core l [0, 1] && imageLoaded s core l && detFits s core seat j && (decide (seat = 0) || decide ((s.launch l).rec_.seats = 1))

/-- A context's later accesses come after what it has in flight, performed at device scope (R271, R286, R329). -/
def carryOrder (s : State) (k : Nat) : Fence :=
  { reads := loadsOf s k, writes := writesOf s k ++ observedOf s k, toRead := true, toWrite := true, scope := 3, full := true
    strict := true }

/-- A context leaves a seat: its dirty lines go home (R260), its order is kept, its running call stops before the next microword, its queued calls leave the
core's queue, and it joins the saved ones (R240, R313, R329). -/
def evict (s : State) (core k : Nat) : State :=
  let s := settle (flushWrites s k)
  let c := s.ctx k
  let s1 := s.setCtx k { c with
    remote := false
    q := { c.q with fences := c.q.fences ++ [carryOrder s k] }
    run := { c.run with saved := true, savedAt := s.nextId, slotted := false } }
  let s1 := freeSlotsOf { s1 with nextId := s.nextId + 1 } k
  let x := s1.core core
  let s2 := s1.setCore core { x with
    calls := x.calls.filter (fun i => decide (i ≠ k))
    run := x.run.map (fun r => if r.ctx = k then { r with park := true } else r) }
  let d := s2.die (dieOf core)
  s2.setDie (dieOf core) { d with savedq := d.savedq ++ [k] }

/-- The entries of a saved context in the lists of the dies go. -/
def forgetSaved (s : State) (k : Nat) : State :=
  { s with dies := s.dies.map (fun (p : Nat × DieSt) => (p.1, { p.2 with
      savedq := p.2.savedq.filter (fun i => decide (i ≠ k)) })) }

/-- A context takes a running seat again: its share is restored, its calls queue again, it wakes from `idle`; its image slot
is free when it next issues, and STOPLIM counts from now (R128, R240, R328, R332, R334). -/
def install (s : State) (core seat k : Nat) : State :=
  let s1 := raiseFloor (dropSeatSteals (forgetSaved (restoreShare s k core) k) core seat) k [0, 1, 2, 3, 4, 5] true
  let c := resumed (s1.ctx k)
  let again := match (s1.launch c.run.launch).stopping with | some (some _) => false | _ => true
  let s2 := s1.setCtx k { c with
    run := { c.run with saved := false, bank := seat, busy := true, slotted := !(slotsOf s1 k).isEmpty }
    dbg := { c.dbg with st := 1, ask := false, at_ := c.dbg.at_ && again, since := (s1.die (dieOf core)).cycle } }
  let x := s2.core core
  let mine := match x.run with | some r => decide (r.ctx = k) | none => false
  let n := (if c.savedCall.isSome then 1 else 0) + (if c.call.isSome then 1 else 0)
  let s3 := s2.setCore core { x with
    calls := x.calls ++ List.replicate n k
    run := if mine then x.run.map (fun r => { r with park := false }) else x.run
    domains := fset x.domains seat c.run.domain }
  updateRemote ({ s3 with banks := fset s3.banks (3 * core + seat) k }) k

/-- The key of a context that is made anew. -/
def freshKey (s : State) : Nat × State := (2 ^ 20 + s.nextId, { s with nextId := s.nextId + 1 })

/-- What stays in a bank when its context has been written out or has gone to another: the registers, no context (R16). -/
def shadeOf (c : Ctx) : Ctx := { regs := c.regs, ctr := { seqno := c.ctr.seqno } }

/-- A bank holds no context any more. -/
def vacate (s : State) (core bank k : Nat) : State :=
  let (j, s1) := freshKey s
  { s1.setCtx j (shadeOf (s1.ctx k)) with banks := fset s1.banks (3 * core + bank) j }

/-- The exchange of the standby bank with a seat (R10): the debug control bits stay with the banks (R335). -/
def swapBanks (s : State) (core seat : Nat) : State :=
  let out := s.bankOf core seat
  let inn := s.bankOf core 2
  let a := (s.ctx out).dbg
  let b := (s.ctx inn).dbg
  let s1 := evict s core out
  let x := s1.core core
  let dom := bankDomain s1 core seat
  let s2 := { s1.setCore core { x with
    exch := none
    starve1 := if seat = 1 then 0 else x.starve1
    domains := fset x.domains 2 dom } with
    banks := fset (fset s1.banks (3 * core + seat) inn) (3 * core + 2) out }
  let s3 := install s2 core seat inn
  let co := s3.ctx out
  let ci := s3.ctx inn
  (s3.setCtx out { co with dbg := { co.dbg with att := b.att, steph := b.steph, err := b.err } }).setCtx inn
    { ci with dbg := { ci.dbg with att := a.att, steph := a.steph, err := a.err } }

/-- A call that a saved context left in the array has reached a boundary and holds nothing (R240). -/
def parkedQuiet (s : State) (core k : Nat) : Bool :=
  match (s.core core).run with
  | some r => decide (r.ctx ≠ k) || ((r.park && callQuiet r && r.stop.isNone && !r.returned))
  | none => true

/-- The parked call goes into the context, and the array is free (R240). -/
def saveCall (s : State) (core k : Nat) : State :=
  match (s.core core).run with
  | some r =>
    if r.ctx = k then
      let s1 := onTiles s k (fun t => freeSlots t (heldSlots r))
      let x := s1.core core
      let c := s1.ctx k
      (s1.setCore core { x with run := none }).setCtx k { c with savedCall := some r }
    else s
  | none => s

/-- A saved context stands in some standby bank. -/
def inStandby (s : State) (k : Nat) : Bool := s.banks.any (fun p => decide (p.2 = k) && decide (p.1 % 3 = 2)) || s.bankOf (s.ctx k).run.lcore 2 == k

/-- A saved context that the spill engine has not yet written out (R328). -/
def unwritten (s : State) (core k : Nat) : Bool :=
  let d := s.die (dieOf core)
  (s.ctx k).run.live && (s.ctx k).run.saved && d.savedq.contains k && !d.pool.any (fun e => decide (e.2 = k))

/-- The seat that a launch's context would take by pre-emption, of those of a die (R313): the lowest priority, then the lowest
core, then seat 0. -/
def victimSeat (s : State) (d l : Nat) : Option (Nat × Nat) :=
  let p := (s.launch l).rec_.prio
  let prioOf := fun (q : Nat × Nat) => (s.launch (s.ctx (s.bankOf q.1 q.2)).run.launch).rec_.prio
  let can := fun (q : Nat × Nat) =>
    let c := s.ctx (s.bankOf q.1 q.2)
    c.run.live && c.run.pre && !c.run.halted && !exchanging s q.1 q.2 && decide (prioOf q < p) && hasWork s q.1 q.2 l
      && banksAgree s q.1 l [0, 1] && coreOpen s q.1
      && (!(s.launch l).rec_.det || (let o := s.ctx (s.bankOf q.1 (1 - q.2)); !(o.run.live && o.run.det)))
  ((seatsOn s d l).filter can).foldl (fun (r : Option (Nat × Nat)) q =>
    match r with
    | none => some q
    | some v => if prioOf q < prioOf v then some q else some v) none

/-! Prefill (R42, R303, R313, R328) -/

/-- The values that the contexts of a core's running seats have parked in its standby bank go to their spill areas, as far as
they fit (R42). -/
def emptyStandby (s : State) (core : Nat) : State :=
  [0, 1].foldl (fun s b => let k := s.bankOf core b; s.setCtx k (leaveStandby (s.ctx k))) s

/-- A parked value that has found no room keeps the standby bank (R42). -/
def standbyKept (s : State) (core : Nat) : Bool :=
  [0, 1].any (fun b => let c := s.ctx (s.bankOf core b); c.run.live && keepsStandby c)

/-- A saved context that the spill engine has not yet written out keeps the standby bank (R328). -/
def standbyFull (s : State) (core : Nat) : Bool :=
  let k := s.bankOf core 2
  (s.ctx k).run.live && !s.dies.any (fun p => p.2.pool.any (fun e => decide (e.2 = k)))

/-- The dispatcher prefills a standby bank with a new context of a launch and asks for the exchange (R303, R313); the bank waits
for parked values and for a context not yet written out (R42, R328). A context prefilled from its image gives the bank up. -/
def prefillNew (s : State) (core seat l : Nat) : State :=
  let s0 := emptyStandby s core
  if standbyKept s0 core || standbyFull s0 core then s0
  else
    let s1 := if (s0.ctx (s0.bankOf core 2)).run.live then vacate s0 core 2 (s0.bankOf core 2) else s0
    let r := (s1.launch l).rec_
    let k := s1.bankOf core 2
    let run := { newRun s1 core seat l with saved := true }
    let s2 := takeBank s1 core 2 k run.domain
    let x := s2.core core
    (s2.setCore core { x with want := some seat, ckinj := 0 }).setCtx k
      (startedCtx (s2.ctx k) run (shareOf r seat) r.handler 0 r.entry 0)

/-! Microprogram images -/

/-- A launch's image is written into a core's store and table (R222, R300). The words and entries that it does not name stay;
those of the vendor library that the image before it replaced are back (R241). -/
def loadImage (s : State) (core : Nat) (i : MicroImage) : State :=
  let x := s.core core
  s.setCore core { x with
    ustore := fsets (x.ustore.filter (fun (p : Nat × W64) => decide (20 ≤ p.1))) i.first i.words
    rtab := i.entries.foldl (fun m e => fset m e.1 e.2) (x.rtab.filter (fun (p : Nat × W32) => decide (64 ≤ p.1)))
    image := some i }

/-- A core may take the image of a launch (R222, R300). -/
def mayLoad (s : State) (core l : Nat) : Bool :=
  let x := s.launch l
  decide (x.st = .running) && x.pools.any (fun p => p.names core) && (s.core core).idlePoint
    && !imageLoaded s core l
    && banksAgree s core l (if standbyUsed s core then [0, 1, 2] else [0, 1])

/-! Stops (R333, R334) -/

/-- The contexts of a launch that a stop gathers. -/
def stopCtxs (s : State) (l : Nat) : List Nat :=
  (ctxsOf s l).filter (fun k => (s.ctx k).run.live && !(s.ctx k).run.halted)

/-- A context stands still: stopped, saved, or marked because it cannot reach a boundary (R333, R334). -/
def standsStill (s : State) (k : Nat) : Bool := (s.ctx k).run.saved || decide ((s.ctx k).dbg.st = 3) || (s.ctx k).dbg.missed

/-- The milestone a context has reached, or would reach next (R333). -/
def reached (s : State) (k : Nat) : Nat :=
  let c := s.ctx k
  c.ctr.msord.toNat + (if c.dbg.at_ then 0 else 1)

/-- A context is at the cut. -/
def atCut (s : State) (T : W64) (k : Nat) : Bool :=
  (s.ctx k).dbg.at_ && decide ((s.ctx k).ctr.msord = T) && !(s.ctx k).dbg.missed

/-- A running seat is asked to freeze at its next boundary; one that waits to enter a step is at one (R333, R336). -/
def askStop (c : Ctx) : Ctx :=
  if c.runs then { c with dbg := { c.dbg with st := 2, ask := true } } else freeze c

/-- A stop of a launch begins (R333). -/
def beginStop (s : State) (l : Nat) : State :=
  let x := s.launch l
  if decide (x.st = .running) && !x.cancelled && x.stopping.isNone then
    let s1 := s.setLaunch l { x with stopping := some none }
    (stopCtxs s1 l).foldl (fun s k =>
      let c := s.ctx k
      let c := { c with dbg := { c.dbg with missed := false, since := (s.die (dieOf c.run.lcore)).cycle } }
      s.setCtx k (if c.run.saved || decide (c.dbg.st = 3) then c
        else if c.runs || decide (c.run.wst = .enter) then askStop c
        else c)) s1
  else s

/-- A launch's stop limit has passed for a context: STOPLIM cycles of its die since it began to count (R334; log entry 87). -/
def limitPassed (s : State) (k : Nat) : Bool :=
  let c := s.ctx k
  let d := dieOf c.run.lcore
  decide ((dieReg s d 0x4018 0).toNat ≤ ((s.die d).cycle - c.dbg.since).toNat)

/-- A context that has not reached the cut in time: it is to stop at its next boundary and is marked (R334). -/
def markMissed (c : Ctx) : Ctx :=
  { c with dbg := { c.dbg with
      missed := true
      st := if c.dbg.st = 3 then 3 else 2
      ask := decide (c.dbg.st ≠ 3) } }

/-- The cut of a stopped context in the report: its seat, whether it is at the cut, and its cut number (R333). -/
def cutEntry (s : State) (T : W64) (k : Nat) : Nat × Nat × Bool × Nat :=
  let c := s.ctx k
  (c.run.lcore, c.run.bank, atCut s T k, c.dbg.cut.toNat)

/-- The gathering of a stop gives the target, or the stop is complete (R333). -/
def settleStop (s : State) (l : Nat) : State :=
  let x := s.launch l
  let ks := stopCtxs s l
  match x.stopping with
  | none => s
  | some none =>
    if ks.all (standsStill s) then
      let T : W64 := BitVec.ofNat 64 ((ks.map (reached s)).foldl max 0)
      let s1 := s.setLaunch l { x with stopping := some (some T) }
      ks.foldl (fun s k =>
        let c := s.ctx k
        if atCut s T k || c.run.saved || c.dbg.missed then s
        else s.setCtx k (resumed { c with dbg := { c.dbg with
          st := 1, ask := false, at_ := false, since := (s.die (dieOf c.run.lcore)).cycle } })) s1
    else s
  | some (some T) =>
    if !x.stopped && ks.all (fun k => (s.ctx k).dbg.missed || (standsStill s k && atCut s T k)) then
      let cuts := (ks.filter (atCut s T)).map (fun k => (s.ctx k).dbg.cut.toNat)
      let even := match cuts with | [] => true | a :: r => r.all (fun b => decide (b = a))
      (s.setLaunch l { x with stopped := true }).tell (.stopReport l T (ks.map (cutEntry s T)) even)
    else s

/-- A command of SCTL that does not fit ST (R336). -/
def refuse (s : State) (k : Nat) : State :=
  let c := s.ctx k
  s.setCtx k { c with dbg := { c.dbg with err := true } }

end Sys2Proof.Machine
end

