-- ==== Sys2Proof/Machine/Cycle.lean ====
section
/-! DEFINITION. BUNDLE_ISSUE (R9 to R12): one cycle of a core, with the exchange of a seat that starts at a boundary before it or
ends after it (R10, R170, R171, R327). -/
namespace Sys2Proof.Machine

/-- A requested exchange starts at the first boundary at which it may: it takes 16 cycles of the core (R10, R327). -/
def startWanted (s : State) (core : Nat) : State :=
  match (s.core core).want with
  | some seat =>
    if mayExchange s core seat then s.setCore core { s.core core with want := none, exch := some { seat := seat, left := 16 } } else s
  | none => s

/-- An exchange whose 16 cycles are over ends: the standby bank and the seat change places (R10, R329, R332). -/
def endDue (s : State) (core : Nat) : State :=
  match (s.core core).exch with
  | some e => if e.left = 0 then swapBanks s core e.seat else s
  | none => s

/-- The words that fix what a core does in a cycle: an exchange that is due ends, and one that is wanted starts at this
boundary, before a bundle issues (R45, R327). -/
def atCycle (s : State) (core : Nat) : State := startWanted (endDue { s with raised := none, held := none } core) core

/-- BUNDLE_ISSUE (R12): one cycle of a core. -/
def execBundleIssue (core : Nat) (s : State) : Host.Outcome State Fault Refusal :=
  match coreCycle (atCycle s core) core with
  | .ok s' => .next (endDue s' core)
  | .error f => .fault f

end Sys2Proof.Machine
end

