-- ==== Sys2Proof/Machine/Keccak.lean ====
section
/-! DEFINITION. The Keccak functions that the manual names: SHAKE256 (R397, R398) and KMAC256 (R354), as their standards define
them (log entry 8). -/
namespace Sys2Proof.Machine

/-- The round constants of Keccak-f[1600]. -/
def keccakRounds : List W64 :=
  [0x0000000000000001, 0x0000000000008082, 0x800000000000808A, 0x8000000080008000, 0x000000000000808B, 0x0000000080000001,
   0x8000000080008081, 0x8000000000008009, 0x000000000000008A, 0x0000000000000088, 0x0000000080008009, 0x000000008000000A,
   0x000000008000808B, 0x800000000000008B, 0x8000000000008089, 0x8000000000008003, 0x8000000000008002, 0x8000000000000080,
   0x000000000000800A, 0x800000008000000A, 0x8000000080008081, 0x8000000000008080, 0x0000000080000001, 0x8000000080008008]

/-- How far each lane turns, lane (x, y) at index x + 5y. -/
def keccakTurns : List Nat := [0, 1, 62, 28, 27, 36, 44, 6, 55, 20, 3, 10, 43, 25, 39, 41, 45, 15, 21, 8, 18, 2, 61, 56, 14]

/-- The lanes of a state made from their indices. -/
def lanes25 (f : Nat → W64) : List W64 := (List.range 25).map f

/-- One round of the permutation. -/
def keccakRound (a : List W64) (rc : W64) : List W64 :=
  let at_ := fun (l : List W64) (i : Nat) => l.getD i 0
  let c := (List.range 5).map (fun x => at_ a x ^^^ at_ a (x + 5) ^^^ at_ a (x + 10) ^^^ at_ a (x + 15) ^^^ at_ a (x + 20))
  let t := lanes25 (fun i => at_ a i ^^^ at_ c ((i % 5 + 4) % 5) ^^^ (at_ c ((i % 5 + 1) % 5)).rotateLeft 1)
  let b := lanes25 (fun i =>
    let j := (i % 5 + 3 * (i / 5)) % 5 + 5 * (i % 5)
    (at_ t j).rotateLeft (keccakTurns.getD j 0))
  let e := lanes25 (fun i =>
    let r := 5 * (i / 5)
    at_ b i ^^^ (~~~(at_ b (r + (i % 5 + 1) % 5)) &&& at_ b (r + (i % 5 + 2) % 5)))
  (at_ e 0 ^^^ rc) :: e.drop 1

/-- Keccak-f[1600]. -/
def keccakF (a : List W64) : List W64 := keccakRounds.foldl keccakRound a

/-- A block of 136 bytes taken up by the sponge. -/
def absorb (a : List W64) (block : List Byte) : List W64 :=
  keccakF (lanes25 (fun i => a.getD i 0 ^^^ BitVec.ofNat 64 (ofBytes ((block.drop (8 * i)).take (min 8 (136 - 8 * i))))))

/-- Every block of padded input taken up. -/
def absorbAll : (fuel : Nat) → (a : List W64) → List Byte → List W64
  | 0, a, _ => a
  | fuel + 1, a, bs => if bs = [] then a else absorbAll fuel (absorb a (bs.take 136)) (bs.drop 136)

/-- At most 136 bytes of the sponge with capacity 512 over an input with a domain suffix. -/
def sponge256 (suffix : Byte) (input : List Byte) (n : Nat) : List Byte :=
  let fill := 136 - input.length % 136
  let pad := if fill = 1 then [suffix ||| 0x80] else [suffix] ++ List.replicate (fill - 2) 0 ++ [0x80]
  ((absorbAll (input.length / 136 + 1) (lanes25 (fun _ => 0)) (input ++ pad)).flatMap (fun w => bytesOf 8 w.toNat)).take n

/-- SHAKE256 with 64 bytes of output (R397, R398). -/
def shake256 (input : List Byte) : BitVec 512 := BitVec.ofNat 512 (ofBytes (sponge256 0x1F input 64))

/-- The fewest bytes, at least one, that hold a number, the highest first. -/
def bigBytes (x : Nat) : List Byte :=
  let n := max 1 ((Nat.log2 x + 8) / 8)
  ((List.range n).map (fun i => BitVec.ofNat 8 (x / 2 ^ (8 * i)))).reverse

/-- left_encode: the number of bytes, then the bytes. -/
def leftEncode (x : Nat) : List Byte := BitVec.ofNat 8 (bigBytes x).length :: bigBytes x
/-- right_encode: the bytes, then their number. -/
def rightEncode (x : Nat) : List Byte := bigBytes x ++ [BitVec.ofNat 8 (bigBytes x).length]
/-- encode_string. -/
def encodeString (bs : List Byte) : List Byte := leftEncode (8 * bs.length) ++ bs
/-- bytepad to 136 bytes. -/
def padRate (bs : List Byte) : List Byte :=
  let x := leftEncode 136 ++ bs
  x ++ List.replicate ((136 - x.length % 136) % 136) 0

/-- The bytes of an ASCII string. -/
def asciiBytes (t : String) : List Byte := t.toList.map (fun c => BitVec.ofNat 8 c.toNat)

/-- KMAC256 with output length 64 and customisation string "RHONUM LINK", under a session key of 56 bytes (R354, R356; log entry
8). -/
def kmac256 (key : Nat) (frame : List Byte) : W64 :=
  BitVec.ofNat 64 (ofBytes (sponge256 0x04
    (padRate (encodeString (asciiBytes "KMAC") ++ encodeString (asciiBytes "RHONUM LINK"))
      ++ padRate (encodeString (bytesOf 56 key)) ++ frame ++ rightEncode 64) 8))

end Sys2Proof.Machine
end

