-- ==== Sys2Proof/Machine/Fabric.lean ====
section
/-! DEFINITION. The Rhonum fabric as a device meets it (R354 to R360): frames, ports, keys, and the window tables. -/
namespace Sys2Proof.Machine

/-! Frame fields (R354) -/

/-- SEQ. -/
def frSeq (f : Frame) : Nat := (fld f.hdr 192 64).toNat
/-- LIFE. -/
def frLife (f : Frame) : Nat := (fld f.hdr 176 16).toNat
/-- DST. -/
def frDst (f : Frame) : BitVec 17 := fld f.hdr 159 17
/-- SRC. -/
def frSrc (f : Frame) : BitVec 17 := fld f.hdr 142 17
/-- OWNER. -/
def frOwner (f : Frame) : Nat := (fld f.hdr 126 16).toNat
/-- TYPE. -/
def frType (f : Frame) : Nat := (fld f.hdr 120 6).toNat
/-- INDEX. -/
def frIndex (f : Frame) : Nat := (fld f.hdr 104 16).toNat
/-- GEN. -/
def frGen (f : Frame) : Nat := (fld f.hdr 96 8).toNat
/-- OFFSET. -/
def frOffset (f : Frame) : Nat := (fld f.hdr 56 40).toNat
/-- BEATS, as a number of beats. -/
def frBeats (f : Frame) : Nat := (fld f.hdr 52 4).toNat + 1
/-- KEY. -/
def frKey (f : Frame) : Nat := (fld f.hdr 51 1).toNat
/-- STATUS. -/
def frStatus (f : Frame) : Nat := (fld f.hdr 48 3).toNat
/-- CMDTAG. -/
def frTag (f : Frame) : Nat := (fld f.hdr 0 48).toNat

/-- A header flit but for SEQ and KEY, which the port sets (R354). -/
def headerOf (life : Nat) (dst : BitVec 17) (owner type index gen offset beats status tag : Nat) : BitVec 256 :=
  let f0 : BitVec 256 := BitVec.ofNat 256 tag
  let f1 := putFld f0 48 (BitVec.ofNat 3 status)
  let f2 := putFld f1 52 (BitVec.ofNat 4 (beats - 1))
  let f3 := putFld f2 56 (BitVec.ofNat 40 offset)
  let f4 := putFld f3 96 (BitVec.ofNat 8 gen)
  let f5 := putFld f4 104 (BitVec.ofNat 16 index)
  let f6 := putFld f5 120 (BitVec.ofNat 6 type)
  let f7 := putFld f6 126 (BitVec.ofNat 16 owner)
  let f8 := putFld f7 142 Config.deviceNumber
  let f9 := putFld f8 159 dst
  putFld f9 176 (BitVec.ofNat 16 life)

/-! Ports (R354, R356, R358, R361) -/

/-- LINKTMO (R357). -/
def linkTmo (s : State) : Nat := (devReg s 0x4430 120000).toNat

/-- A port that is ready and has not failed. -/
def portUp (s : State) (p : Nat) : Bool :=
  decide (p < 72) && !s.dev.portDown.contains p
    && (if p < 64 then bit (devReg s 0x4518 0) p else bit (devReg s 0x4520 0) (p - 64))

/-- The port by which frames to a device leave: the route's own, or another of its group (R354, R358). -/
def portFor (s : State) (dst : Nat) : Option Nat :=
  let p := Config.routePort dst % 72
  (p :: (List.range 9).map (fun i => p / 9 * 9 + i)).find? (portUp s)

/-- The key slots of an owner on a port's group, if it is admitted there (R355, R356). -/
def keysOf (s : State) (port owner : Nat) : Option KeySlot := fget? s.dev.keys (65536 * (port / 9) + owner)

/-- A loaded key slot. -/
def slotKey (k : KeySlot) (i : Nat) : Option Nat := if i = 0 then k.k0 else k.k1

/-- The bytes a tag covers: the header flit and the payload (R354). -/
def tagBytes (hdr : BitVec 256) (data : List Byte) : List Byte := bytesOf 32 hdr.toNat ++ data

/-- A frame leaves by a port, with the port's SEQ, KEY and tag (R354, R356). -/
def sendFrame (s : State) (port : Nat) (hdr : BitVec 256) (data : List Byte) : State :=
  let owner := (fld hdr 126 16).toNat
  let ks := (keysOf s port owner).getD {}
  let n := fget 0 s.dev.sent (65536 * port + owner) + 1
  let h := putFld (putFld hdr 51 (BitVec.ofNat 1 ks.cur)) 192 (BitVec.ofNat 64 n)
  let f : Frame := { hdr := h, data := data, tag := kmac256 ((slotKey ks ks.cur).getD 0) (tagBytes h data) }
  { s with dev := { s.dev with sent := fset s.dev.sent (65536 * port + owner) n } }.tell (.frameOut port f)

/-- A frame leaves for its destination; without a working port it is lost (R358). -/
def routeFrame (s : State) (dst : Nat) (hdr : BitVec 256) (data : List Byte) : State :=
  match portFor s dst with
  | some p => sendFrame s p hdr data
  | none => s

/-- A port drops a frame and counts it; reasons 1 and 3 interrupt the management core (R355). -/
def dropFrame (s : State) (port reason owner : Nat) : State :=
  let key := 8 * port + reason
  let s1 := { s with dev := { s.dev with drops := fset s.dev.drops key (fget 0 s.dev.drops key + 1) } }
  if reason = 1 ∨ reason = 3 then s1.tell (.securityEvent reason port owner) else s1

/-- Why a port drops a frame it receives: 1 owner, 2 sequence, 3 tag, 4 life, 5 type; 0 for none (R354, R355). -/
def dropReason (s : State) (port : Nat) (f : Frame) : Nat :=
  match keysOf s port (frOwner f) with
  | none => 1
  | some ks =>
    if frSeq f ≤ fget 0 s.dev.accepted (65536 * port + frOwner f) then 2
    else
      match slotKey ks (frKey f) with
      | none => 3
      | some key =>
        if f.tag ≠ kmac256 key (tagBytes f.hdr f.data) then 3
        else if frLife f = 0 then 4
        else if [0x01, 0x02, 0x03, 0x04, 0x08, 0x09, 0x0A, 0x10, 0x11].contains (frType f) then 0
        else 5

/-- The contribution of a rank to a round of its group, by its key (log entry 29). -/
def partKey (round rank : Nat) : Nat := round % 256 + 256 * rank
/-- OFFSET of the frame that carries a member's descriptor and operation (log entry 29). -/
def partHead : Nat := 2 ^ 40 - 1
/-- OFFSET of the frame that tells the failure of a member (log entry 29). -/
def partFail : Nat := 2 ^ 40 - 2

/-- A frame of another device's member of a group (R354): its descriptor, a part of its contribution at an element offset, or its
failure, by the round that GEN and the rank that CMDTAG name (log entry 29). -/
def takePart (s : State) (f : Frame) : State :=
  match s.dev.groups.find? (fun p => decide (p.1 % 65536 = frIndex f)) with
  | none => s
  | some (i, g) =>
    let r := frTag f
    let at_ := partKey (frGen f) r
    if fget? g.devs r = some (frSrc f).toNat then
      let p := fget {} g.got at_
      let p' := if frOffset f = partHead then { p with desc := BitVec.ofNat 512 (ofBytes (f.data.take 64)), op := (f.data.getD 64 0).toNat }
        else if frOffset f = partFail then
          { p with fail := some ((f.data.getD 0 0).toNat, BitVec.ofNat 64 (ofBytes ((f.data.drop 1).take 8))) }
        else { p with data := p.data ++ [(frOffset f, f.data)] }
      { s with dev := { s.dev with groups := fset s.dev.groups i { g with got := fset g.got at_ p' } } }
    else s

/-- LIFE of a frame after a stay in this device of a free length, in units of 64 cycles (R355, R357; log entry 45). -/
def lifeLeft (s : State) (f : Frame) : Nat := frLife f - Config.residency s.ticks

/-- A frame accepted at a port, which subtracts its residency from LIFE and drops it when that reaches 0: for this device it is
kept for the unit it concerns, any other passes on (R355). -/
def acceptFrame (s : State) (port : Nat) (f : Frame) : State :=
  let s1 := { s with
    ticks := s.ticks + 1
    dev := { s.dev with accepted := fset s.dev.accepted (65536 * port + frOwner f) (frSeq f) } }
  let life := lifeLeft s f
  let f := { f with hdr := putFld f.hdr 176 (BitVec.ofNat 16 life) }
  if life = 0 then dropFrame s1 port 4 (frOwner f)
  else if frDst f ≠ Config.deviceNumber then routeFrame s1 (frDst f).toNat f.hdr f.data
  else if frType f = 0x10 then takePart s1 f
  else if frType f = 0x11 then s1.tell (.companionOut f.data)
  else { s1 with dev := { s1.dev with inbox := s1.dev.inbox ++ [f] } }

/-- A frame leaves the list of those not yet judged. -/
def doneFrame (s : State) (f : Frame) : State := { s with dev := { s.dev with inbox := s.dev.inbox.erase f } }

/-! The exporter (R201, R359) -/

/-- Fields of an export entry (R359). -/
def expV (e : WinEntry) : Bool := bit e 0
/-- RO. -/
def expRo (e : WinEntry) : Bool := bit e 1
/-- AS. -/
def expSpace (e : WinEntry) : Nat := (fld e 58 6).toNat
/-- BASE. -/
def expBase (e : WinEntry) : W64 := (fld e 64 57).setWidth 64
/-- GEN. -/
def expGen (e : WinEntry) : Nat := (fld e 128 8).toNat
/-- SIZE. -/
def expSize (e : WinEntry) : Nat := (fld e 136 40).toNat
/-- OWNER. -/
def expOwner (e : WinEntry) : Nat := (fld e 176 16).toNat

/-- Bits of an export entry that hold. -/
def expMask : BitVec 192 := BitVec.ofNat 192 (2 ^ 192 - 2 ^ 58 - (2 ^ 128 - 2 ^ 121) + 3)
/-- Bits of an import entry that hold. -/
def impMask : BitVec 192 := BitVec.ofNat 192 (2 ^ 192 - 2 ^ 111 + 3)

/-- Bytes of memory a request chunk covers. -/
def chunkLen (f : Frame) : Nat := if frType f = 0x01 then 256 * frBeats f else f.data.length

/-- The refusal of a request chunk by the table checks (R359); 0 accepts. -/
def refusal (e : WinEntry) (f : Frame) : Nat :=
  if !expV e then 2
  else if expOwner e ≠ frOwner f then 3
  else if expGen e ≠ frGen f then 1
  else if expSize e < frOffset f + chunkLen f ∨ (frType f ≠ 0x01 ∧ expRo e = true) then 3
  else 0

/-- What a request of a type asks of a leaf (R346). -/
def requestNeed (type : Nat) : Need5 :=
  if type = 0x01 then { r := true } else if type = 0x02 then { w := true } else { r := true, w := true }

/-- A reply to a request chunk (R357): it carries the request's LIFE on arrival less the time that the chunk spent here, and is
not sent when that is 0. -/
def sendReply (s : State) (f : Frame) (type status gen : Nat) (data : List Byte) : State :=
  if lifeLeft s f = 0 then { s with ticks := s.ticks + 1 }
  else
    routeFrame { s with ticks := s.ticks + 1 } (frSrc f).toNat
      (headerOf (lifeLeft s f) (frSrc f) (frOwner f) type (frIndex f) gen (frOffset f) (max 1 (data.length / 256)) status (frTag f)) data

/-- The elements of a `wadd` chunk added to the bytes at the point of coherence (R201). -/
def addElems (f32 : Bool) : (fuel : Nat) → List Byte → List Byte → List Byte
  | 0, _, _ => []
  | fuel + 1, old, new =>
    if new = [] then []
    else
      let a := ofBytes (old.take 4)
      let b := ofBytes (new.take 4)
      let v := if f32 then faddHalf a b else (a + b) % 2 ^ 32
      bytesOf 4 v ++ addElems f32 fuel (old.drop 4) (new.drop 4)

/-- The watch reports of a remote chunk (R395, R400): one for each registration in the space whose watched bytes the chunk
wrote. -/
def remoteWatch (s : State) (f : Frame) (space : Nat) (va : W64) (n : Nat) : State :=
  s.ctxs.foldl (fun s p =>
    let c := s.ctx p.1
    let m := watchBits c [(va, n)]
    if c.remote ∧ c.run.space = space ∧ m ≠ 0 then
      addReport s p.1
        { cause := 0x0B, status := 0, kind := 8, lvl := 0, seq := 0, pc := 0, bytes := 0,
          detail := BitVec.ofNat 64 (m + 65536 + 131072 * 7 + 2 ^ 29 * (frSrc f).toNat + 2 ^ 46 * frOwner f) }
    else s) s

/-- The granule writes of an accepted chunk, each performed at once at the home die, whose stashes lose the lines (R259, R274,
R359). -/
def putGranules (s : State) (x : Xl) (space : Nat) (va : W64) : (fuel : Nat) → List Byte → State × List Nat
  | 0, _ => (s, [])
  | fuel + 1, bs =>
    if bs = [] then (s, [])
    else
      let (id, s1) := takeId s
      let home := pteHome x.leaf
      let w : WriteRec :=
        { id := id, agent := 0, core := 2048 + home, die := home, home := home, cells := cellsAt x.key (bs.take 64), vis := id,
          durable := pteDur x.leaf, host := pteBias x.leaf, sys := true, va := va, space := space }
      let r := putGranules (dieWrite s1 w) { x with key := x.key + 64 } space (va + 64) fuel (bs.drop 64)
      (r.1, id :: r.2)

/-- A request that no earlier one of its sender to the same entry precedes: chunks of one command are judged in order (R200,
R277). -/
def firstRequest (s : State) (f : Frame) : Bool :=
  (s.dev.inbox.find? (fun g => [1, 2, 3, 4].contains (frType g) && decide (frSrc g = frSrc f) && decide (frIndex g = frIndex f))) == some f

/-- The export entry a request names. -/
def entryOf (s : State) (f : Frame) : WinEntry := fget 0 s.dev.exports (frIndex f)

/-- A request chunk is judged, and performed or refused (R359). -/
def judgeChunk (s : State) (f : Frame) : State :=
  let e := entryOf s f
  let no := fun (st : Nat) => sendReply (doneFrame s f) f 0x0A st (expGen e) []
  let va := expBase e + BitVec.ofNat 64 (frOffset f)
  let n := chunkLen f
  if refusal e f ≠ 0 then no (refusal e f)
  else
    let lost := fun (u : State) => noteAbort u (2048 + frIndex f % 32) (expSpace e) va 0
    match xlate s (2048 + frIndex f % 32) (expSpace e) va (requestNeed (frType f)) with
    | .error _ => lost (no 3)
    | .ok x =>
      if flipBlocks s (expSpace e) va then s
      else if (List.range n).any (fun i => poisoned s (x.key + i) && (isDead x.key || decide (frType f ≠ 0x02))) then lost (no 3)
      else
        let lines := linesOf ((List.range n).map (x.key + ·))
        let s0 := if frType f = 0x01 then s
          else settle (writeBack s (fun w => decide (w.die = pteHome x.leaf) && meet (linesOf w.keys) lines))
        let s1 := doneFrame (noteXl s0 (2048 + frIndex f % 32) (expSpace e) va) f
        if frType f = 0x01 then
          sendReply s1 f 0x08 0 (expGen e) (viewBytes s1 (dieViewer (pteHome x.leaf)) s1.nextId x.key n)
        else
          let old := (List.range n).map (fun i => cohByte s1 (x.key + i))
          let bs := if frType f = 0x02 then f.data else addElems (decide (frType f = 0x03)) n old f.data
          let r := putGranules s1 x (expSpace e) va (n / 64 + 1) bs
          let s2 := if frSrc f = Config.deviceNumber then r.1 else remoteWatch r.1 f (expSpace e) va n
          settle { s2 with dev := { s2.dev with served := s2.dev.served ++ [(f, r.2)] } }

/-- The writes of an accepted chunk are performed at device scope, and persisted on a durable page (R201, R281). -/
def servedDone (s : State) (ids : List Nat) : Bool :=
  s.writes.all (fun w => !ids.contains w.id || (decide (4 ≤ w.stage) && (!w.durable || w.persisted)))

/-- The revoke of an entry that is in progress completes once the accepted chunks are performed (R360). -/
def settleRevoke (s : State) (index : Nat) : State :=
  match fget? s.dev.revokes index with
  | some ids =>
    if servedDone s ids then { s with dev := { s.dev with revokes := fdel s.dev.revokes index } }.tell (.revoked index) else s
  | none => s

/-- An accepted write chunk is acknowledged once it is performed; a revoke that waited for it may then complete (R201, R360). -/
def ackChunk (s : State) (f : Frame) (ids : List Nat) : State :=
  if servedDone s ids then
    settleRevoke (sendReply { s with dev := { s.dev with served := s.dev.served.filter (fun p => !(p.1 == f)) } } f 0x09 0 (frGen f) [])
      (frIndex f)
  else s

end Sys2Proof.Machine
end

