-- ==== Sys2Proof/Machine/Windows.lean ====
section
/-! DEFINITION. The window engine at the requester (R175, R198 to R201, R357, R359): chunks, replies, time limits, and the
outcome of a command. -/
namespace Sys2Proof.Machine

/-- Exporting device of an import entry (R359). -/
def impDev (e : WinEntry) : BitVec 17 := fld e 175 17
/-- RIDX. -/
def impRidx (e : WinEntry) : Nat := (fld e 159 16).toNat

/-- Local address, window address, length and request type of a window command (R199, R354). -/
def winOp : CmdOp → Option (W64 × W64 × Nat × Nat)
  | .wget va win len => some (va, win, len, 0x01)
  | .wput va win len => some (va, win, len, 0x02)
  | .wadd va win len int => some (va, win, len, if int then 0x04 else 0x03)
  | _ => none

/-- Offset in the window of a window address (R198). -/
def winOff (win : W64) : Nat := (fld win 0 40).toNat

/-- The chunks of a window command (R175). -/
def winPieces (x : Cmd) : List Piece :=
  match winOp x.op with
  | some (va, win, len, _) =>
    let phase := Config.exportPhase (impDev x.peer).toNat (impRidx x.peer) + winOff win
    cutBoth (some (phase % 4096)) (len / 2048 + 2) va len 0
  | none => []

/-- The state of a chunk. -/
def chunkSt (x : Cmd) (i : Nat) : ChunkState := fget .unsent x.chunks i
/-- A command with a chunk's state set. -/
def setChunk (x : Cmd) (i : Nat) (c : ChunkState) : Cmd := { x with chunks := fset x.chunks i c }
/-- A command whose chunk leaves now (R357). -/
def sentChunk (s : State) (x : Cmd) (i : Nat) : Cmd := { setChunk x i .sent with sentAt := fset x.sentAt i (nowAt s x.core) }
/-- The time limit of a chunk has passed: LINKTMO cycles of its die since its frame was sent (R357; log entry 107). -/
def limitOver (s : State) (x : Cmd) (i : Nat) : Bool := decide (linkTmo s ≤ (nowAt s x.core - fget 0 x.sentAt i).toNat)
/-- A local fault ends the sending of chunks (R200). -/
def localFailed (x : Cmd) : Bool := x.chunks.any (fun p => match p.2 with | .localFault _ _ => true | _ => false)
/-- The first chunk in a condition. -/
def firstChunk (x : Cmd) (p : ChunkState → Bool) : Option Nat :=
  (List.range (winPieces x).length).find? (fun i => p (chunkSt x i))

/-- The requester's command and chunk as CMDTAG carries them (R354; log entry 27). -/
def tagOf (k : Nat) (seq : W32) (chunk : Nat) : Nat := k % 2 ^ 13 + 2 ^ 13 * (seq.toNat % 2 ^ 25) + 2 ^ 38 * (chunk % 2 ^ 10)

/-- The command a reply answers, and its chunk. -/
def taggedCmd (s : State) (tag : Nat) : Option (Nat × Cmd × Nat) :=
  let k := tag % 2 ^ 13
  ((s.ctx k).cmds.find? (fun x => decide (x.seq.toNat % 2 ^ 25 = tag / 2 ^ 13 % 2 ^ 25) && (winOp x.op).isSome)).map
    (fun x => (k, x, tag / 2 ^ 38))

/-- The next chunk of a window command is sent (R200, R354, R357): a local fault or the want of a working port settles it at
once. -/
def winSend (s : State) (k : Nat) (x : Cmd) : State :=
  if localFailed x then s
  else
    match firstChunk x (· == .unsent), winOp x.op with
    | some i, some (_, win, _, type) =>
      match (winPieces x)[i]? with
      | none => s
      | some p =>
        if flipBlocks s (s.ctx k).run.space p.va then s
        else
          let x := { x with total := (winPieces x).length }
          let s1 := if type = 0x01 then s else notePiece s k x p
          match (if type = 0x01 then .ok [] else readPiece s k x p) with
          | .error (st, a) => putCmd s1 k (setChunk x i (.localFault st a))
          | .ok rs =>
            let bs := patchRuns [] (rs.map (fun r => (r.1 - p.off, r.2)))
            let dst := impDev x.peer
            let hdr := headerOf (linkTmo s / 128) dst s.dev.owner type (impRidx x.peer) (fld win 40 8).toNat
              (winOff win + p.off) (p.len / 256) 0 (tagOf k x.seq i)
            match portFor s1 dst.toNat with
            | none => putCmd s1 k (setChunk x i .timeout)
            | some port => putCmd (sendFrame s1 port hdr bs) k (sentChunk s1 x i)
    | _, _ => s

/-- The data of a `wget` chunk are written locally; a fault there settles the chunk, a watched beat holds the command with
the rest of its bytes unwritten (R201, R394). -/
def winLand (s : State) (k : Nat) (x : Cmd) (i : Nat) (p : Piece) (f : Frame) : State :=
  let s1 := writeChunk (noteXl s x.core (s.ctx k).run.space p.va) k x { w := true } (fun _ => true) [(p.va, f.data.take p.len)] none
  match cmdOf s1 k x.seq with
  | none => s1
  | some y =>
    if y.status ≠ 0 then
      doneFrame (putCmd s1 k (setChunk { y with status := 0, detail := 0 } i (.localFault y.status y.detail))) f
    else if y.sub ≠ 0 then s1
    else doneFrame (putCmd s1 k (setChunk y i .done)) f

/-- A refusal updates the import entry that still names the same window (R200, R359). -/
def importRefused (s : State) (x : Cmd) (win : W64) (status gen : Nat) : State :=
  let h := (fld win 48 16).toNat
  let e := fget 0 s.dev.imports h
  if impDev e ≠ impDev x.peer ∨ impRidx e ≠ impRidx x.peer then s
  else if status = 1 then
    { s with dev := { s.dev with imports := fset s.dev.imports h (putFld e 151 (BitVec.ofNat 8 gen)) } }
  else if status = 2 then
    { s with dev := { s.dev with imports := fset s.dev.imports h (putFld e 0 (0 : BitVec 1)) } }
  else s

/-- A reply reaches the requester (R200, R201): chunks are settled in ascending order; a reply to no waiting chunk is
dropped. -/
def takeReply (s : State) (f : Frame) : State :=
  match taggedCmd s (frTag f) with
  | none => doneFrame s f
  | some (k, x, i) =>
    match (winPieces x)[i]?, winOp x.op with
    | some p, some (_, win, _, _) =>
      if chunkSt x i ≠ .sent then doneFrame s f
      else if (List.range i).any (fun j => chunkSt x j == .sent) then s
      else if frType f = 0x0A then
        importRefused (putCmd (doneFrame s f) k (setChunk x i (.refused (frStatus f) (frGen f)))) x win (frStatus f) (frGen f)
      else if frType f = 0x09 then putCmd (doneFrame s f) k (setChunk x i .done)
      else if (List.range i).any (fun j => !(chunkSt x j == .done)) then putCmd (doneFrame s f) k (setChunk x i .timeout)
      else if !cmdMoves s k x || flipBlocks s (s.ctx k).run.space p.va then s
      else winLand s k x i p f
    | _, _ => doneFrame s f

/-- Bytes of the first chunks of a command. -/
def prefixLen (x : Cmd) (n : Nat) : Nat := (((winPieces x).take n).map (fun p => p.len)).sum

/-- The outcome of a window command whose chunks are settled (R200): status, detail and prefix bytes. -/
def winOutcome (x : Cmd) : Nat × W64 × Nat :=
  match firstChunk x (fun c => !(c == .done)) with
  | none => (0, 0, 0)
  | some i =>
    let n := prefixLen x i
    match chunkSt x i with
    | .refused 1 _ | .refused 2 _ => (3, BitVec.ofNat 64 n, n)
    | .localFault st va => (st, va, n)
    | _ => (9, BitVec.ofNat 64 n, n)

/-- Every chunk has its reply, and none will be sent any more. -/
def winSettled (x : Cmd) : Bool :=
  (firstChunk x (· == .sent)).isNone && (localFailed x || (firstChunk x (· == .unsent)).isNone) && decide (x.watch = 0)

/-- A chunk whose local write met an error that it could not replace was not performed: a local fault (R200, R350). -/
def lateFault (x : Cmd) : Cmd :=
  if x.status = 2 then
    match (List.range (winPieces x).length).find? (fun i => (winPieces x)[i]?.any (fun p =>
        decide (p.va.toNat ≤ x.detail.toNat) && decide (x.detail.toNat < p.va.toNat + p.len))) with
    | some i => setChunk { x with status := 0, detail := 0 } i (.localFault 2 x.detail)
    | none => x
  else x

/-- A window command completes (R200, R201). -/
def winComplete (s : State) (k : Nat) (x : Cmd) : State :=
  let x := lateFault x
  if winSettled x && (cmdWrites s k x.seq.toNat).all (fun w => w.performedAt 2) then
    let o := winOutcome x
    endCmd s k { x with status := o.1, detail := o.2.1, prefixBytes := o.2.2 }
  else s

end Sys2Proof.Machine
end

