-- ==== Sys2Proof/Machine/ImageBytes.lean ====
section
/-! DEFINITION. The bytes of a context image (R330, R331) and their writing into the image pool of a die (R328). What the manual
does not lay out bit by bit is free (log entry 57). -/
namespace Sys2Proof.Machine

/-- A byte of an image: the bits that the manual fixes, and their values. -/
structure ImgByte where
  fixed : Byte
  val   : Byte
  deriving DecidableEq, Repr

/-- Bytes that the manual fixes. -/
def fixedBytes (bs : List Byte) : List ImgByte := bs.map (fun b => { fixed := 0xFF, val := b })

/-- `n` bytes that the manual leaves open. -/
def openBytes (n : Nat) : List ImgByte := List.replicate n { fixed := 0, val := 0 }

/-- `n` zero bytes. -/
def zeroBytes (n : Nat) : List ImgByte := fixedBytes (List.replicate n 0)

/-- A byte of the image as writing number `t` leaves it at an offset. -/
def settleByte (t off : Nat) (b : ImgByte) : Byte :=
  if b.fixed = 0xFF then b.val else (b.val &&& b.fixed) ||| (Config.imageByte t off &&& ~~~b.fixed)

/-- The bytes from an offset on. -/
def settleBytes (t : Nat) : (off : Nat) → List ImgByte → List Byte
  | _, [] => []
  | off, b :: bs => settleByte t off b :: settleBytes t (off + 1) bs

/-- `cnt` registers of a file from `first` on, `width` bytes each. -/
def fileBytes {n : Nat} (m : FMap (BitVec n)) (first cnt width : Nat) : List ImgByte :=
  fixedBytes ((List.range cnt).flatMap (fun i => bytesOf width (fget 0 m (first + i)).toNat))

/-- The mask registers of a file: register 0 reads all ones (R15). -/
def maskBytes (m : FMap W32) : List ImgByte := fixedBytes (bytesOf 4 (2 ^ 32 - 1)) ++ fileBytes m 1 3 4

/-- The strides of a file, register-major, levels 0 to 5 (R330). -/
def strideBytes (m : FMap W32) : List ImgByte :=
  fixedBytes ((List.range 96).flatMap (fun i => bytesOf 4 (fget 0 m (8 * (i / 6) + i % 6)).toNat))

/-- The registers of 0x0100 to 0x2A7F (R330). -/
def regsBytes (r : Regs) : List ImgByte :=
  fileBytes r.s 0 56 8 ++ zeroBytes 64 ++ fileBytes r.va 0 24 128 ++ fileBytes r.vb 0 24 128
    ++ maskBytes r.ka ++ maskBytes r.kb ++ zeroBytes 224 ++ fileBytes r.x 0 16 128 ++ fileBytes r.e 0 16 32
    ++ fileBytes r.p 0 8 8 ++ fileBytes r.psh 0 8 8 ++ fileBytes r.ca 0 16 8 ++ fileBytes r.cb 0 16 8
    ++ strideBytes r.sa ++ strideBytes r.sb

/-- The 31 words of 0x2A80, in the order of R330. -/
def sysWords (c : Ctx) : List W64 :=
  let y := c.sys
  [y.status, y.estatus, y.tvec, y.tcause, y.tval, y.epc0, y.epc1, y.epc2, y.tscratch,
   y.fstatus, y.ftvec, y.fcause, y.fval, y.fepc0, y.fepc1, y.fepc2,
   c.flow.npc0, c.flow.npc1, c.flow.npc2, c.ctr.frame, c.ctr.msord, c.ctr.srstate, c.ctr.seqno.setWidth 64,
   c.ctr.oobaddr, boolWord c.ctr.oobflag,
   fget 0 c.ctr.dtcnt 0, fget 0 c.ctr.dtcnt 1, fget 0 c.ctr.dtcnt 2, fget 0 c.ctr.dtcnt 3, c.ctr.watcha, c.ctr.watchm]

/-- The system registers of 0x2A80 to 0x2BFF. -/
def sysBytes (c : Ctx) : List ImgByte := fixedBytes ((sysWords c).flatMap (fun w => bytesOf 8 w.toNat)) ++ zeroBytes 136

/-- The entry in place `i` of a load queue, the oldest first (R330). -/
def loadAt (c : Ctx) (q i : Nat) : Option QEntry := (fget [] c.q.lq q)[i]?

/-- The data of a place: open where no data have arrived. -/
def loadData (e : Option QEntry) : List ImgByte :=
  match e with
  | some { st := .arrived, data := v, .. } => fixedBytes (bytesOf 128 v.toNat)
  | _ => openBytes 128

/-- The meta word of a place: its state, and the address of a fault (R330). -/
def loadMeta (e : Option QEntry) : List ImgByte :=
  let quiet := fun (n : Byte) => { fixed := 0x7F, val := n } :: openBytes 7
  match e with
  | none => quiet 0
  | some { st := .reserved, .. } => quiet 1
  | some { st := .arrived, .. } => quiet 2
  | some { st := .faulted, faddr := a, .. } =>
    fixedBytes (bytesOf 8 (3 + 4 * b2n (bit a 63) + 128 * (a.toNat % 2 ^ 57)))

/-- The load queues of 0x2C00 to 0x4FFF. -/
def loadBytes (c : Ctx) : List ImgByte :=
  (List.range 64).flatMap (fun i => loadData (loadAt c (i / 8) (i % 8)))
    ++ (List.range 64).flatMap (fun i => loadMeta (loadAt c (i / 8) (i % 8)))
    ++ fixedBytes ((List.range 8).map (fun q => BitVec.ofNat 8 (fget [] c.q.lq q).length)) ++ openBytes 504

/-- The store queues of 0x5000 to 0x5FFF. -/
def storeBytes (c : Ctx) : List ImgByte :=
  (List.range 32).flatMap (fun i => match (fget [] c.q.sq (i / 8))[i % 8]? with
    | some e => fixedBytes (bytesOf 128 e.data.toNat)
    | none => openBytes 128)

/-- `n` bytes of which the listed ones come first; the manual leaves the rest open. -/
def fitBytes (n : Nat) (bs : List Byte) : List ImgByte := fixedBytes (bs.take n) ++ openBytes (n - bs.length)

/-- The byte counts of the store queues' entries, queue by queue, then the four counts of entries: 0x6000 (log entry 57). -/
def storeCountBytes (c : Ctx) : List ImgByte :=
  fitBytes 256 ((List.range 32).map (fun i => match (fget [] c.q.sq (i / 8))[i % 8]? with
      | some e => BitVec.ofNat 8 e.count
      | none => 0)
    ++ (List.range 4).map (fun w => BitVec.ofNat 8 (fget [] c.q.sq w).length))

/-- A loop of the stack: start, body length, remaining count, finishing mark (log entry 57). -/
def loopBytes (l : LoopLvl) : List Byte :=
  bytesOf 8 l.start.toNat ++ bytesOf 2 l.nbody ++ bytesOf 4 l.rem ++ bytesOf 2 (b2n l.finish)

/-- The number of a walker state. -/
def walkNum : WalkState → Nat
  | .none => 0
  | .enter => 1
  | .run => 2

/-- The barrier record, the last received phase and the stored fault of a context (R166, R168). -/
def barBytes (c : Ctx) : List Byte :=
  (match c.bar with
    | some b => bytesOf 2 b.home ++ bytesOf 2 b.bar ++ bytesOf 1 (8 + b.scope) ++ bytesOf 1 (b2n b.pending) ++ bytesOf 2 b.phase
    | none => bytesOf 8 0)
  ++ bytesOf 8 c.barPhase ++ bytesOf 8 (match c.barFault with | some v => v.toNat | none => 0)

/-- What stands at 0x6100, in the order of R330: the loop stack, the walker, the barrier record and the stored fault, the
counters, the persist record and first start, the report count (log entry 57). -/
def flowBytes (c : Ctx) : List ImgByte :=
  fitBytes 256 ((List.range 6).flatMap (fun i => match c.flow.loops[i]? with
      | some l => loopBytes l
      | none => bytesOf 16 0)
    ++ bytesOf 4 c.run.launch ++ bytesOf 8 c.run.lo ++ bytesOf 8 c.run.cur ++ bytesOf 8 c.run.hi ++ bytesOf 4 (walkNum c.run.wst)
    ++ barBytes c
    ++ bytesOf 1 c.q.ld ++ bytesOf 1 c.q.st ++ bytesOf 1 c.q.cp ++ bytesOf 1 c.q.tl
    ++ bytesOf 4 (match c.per.slot with | some i => i + 1 | none => 0) ++ bytesOf 8 c.per.seq.toNat
    ++ bytesOf 4 (c.run.firstCore + 2048 * c.run.firstSeat) ++ bytesOf 8 c.nrep)

/-- The deferral queue, the oldest entry first, 16 bytes an entry: values, lane and iteration (log entry 57). -/
def deferBytes (c : Ctx) : List ImgByte :=
  fitBytes 1024 (c.q.defer.flatMap (fun e => bytesOf 4 e.v0.toNat ++ bytesOf 4 e.v1.toNat ++ bytesOf 4 e.lane ++ bytesOf 4 e.iter))

/-- The spill map and the values parked outside the seat's spill area, 0x6600 to 0xE9FF (R121, R330). -/
def spillBytes (c : Ctx) : List ImgByte :=
  (List.range 256).flatMap (fun i =>
      fixedBytes (bytesOf 4 (spillMapWord { c with ctr := { c.ctr with spillsel := BitVec.ofNat 8 i } }).toNat))
    ++ (List.range 256).flatMap (fun i => match fget? c.q.spill i with
      | some e => if e.place = .area then openBytes 128 else fixedBytes (bytesOf 128 e.value.toNat)
      | none => openBytes 128)

/-- The byte of a tile-table entry (R330). -/
def tileByte (t : TileState) : Byte :=
  match t with
  | .empty => 0
  | .filling => 1
  | .ready => 2
  | .draining n => BitVec.ofNat 8 (3 + 4 * n)

/-- The tile table of 0xEA00 to 0xF1FF: the slots, the ring entries ring by ring, the heads, the tails (log entry 57). -/
def tileBytes (c : Ctx) : List ImgByte :=
  fitBytes 2048 ((List.range 256).map (fun i => tileByte (fget .empty c.tiles.slot i))
    ++ (List.range 512).map (fun i => tileByte (fget .empty c.tiles.ring i))
    ++ (List.range 8).map (fun m => BitVec.ofNat 8 (fget 0 c.tiles.head m))
    ++ (List.range 8).map (fun m => BitVec.ofNat 8 (fget 0 c.tiles.tail m)))

/-- The source record of a plane with its rung (R240). -/
def planeBytes (p : Option Plane) : List Byte :=
  match p with
  | none => bytesOf 8 0
  | some p => bytesOf 1 1 ++ bytesOf 1 (b2n p.ring) ++ bytesOf 1 p.num ++ bytesOf 1 p.ent ++ bytesOf 1 (b2n p.sp)
      ++ bytesOf 1 p.metaSlot ++ bytesOf 1 p.rung ++ bytesOf 1 p.fmt

/-- What a call captured at issue (R217). -/
def callBytes (x : Call) : List Byte :=
  bytesOf 8 x.pc.toNat ++ bytesOf 4 x.seq.toNat ++ bytesOf 2 x.routine ++ bytesOf 1 x.lvl
    ++ bytesOf 1 (b2n x.nocorr + 2 * b2n x.limc + 4 * b2n x.e5)
    ++ bytesOf 1 x.ceil ++ bytesOf 1 x.start ++ bytesOf 2 x.prof ++ bytesOf 8 x.sr.toNat
    ++ (List.range 8).flatMap (fun i => bytesOf 8 (fget 0 x.p i).toNat)

/-- A call saved in the middle: the microword index, the microloops, the call state, the planes and the draw index (R240). -/
def runBytes (r : ArrayRun) : List Byte :=
  callBytes r.call ++ bytesOf 2 r.idx
    ++ (List.range 4).flatMap (fun i => match r.loops[i]? with | some (a, n) => bytesOf 2 a ++ bytesOf 4 n | none => bytesOf 6 0)
    ++ bytesOf 1 r.start ++ bytesOf 1 r.ceil ++ bytesOf 1 (b2n r.e5 + 2 * b2n r.limc + 4 * b2n r.corr)
    ++ r.bud.flatMap (bytesOf 2) ++ planeBytes r.active ++ planeBytes r.shadow ++ bytesOf 4 r.draw

/-- The matrix state of 0xF200: the running call, then the queued call (R240; log entry 57). -/
def matrixBytes (c : Ctx) : List ImgByte :=
  fitBytes 512 (match c.savedCall with | some r => runBytes r | none => [])
    ++ fitBytes 512 (match c.call with | some x => callBytes x | none => [])

/-! The variable part (R331) -/

/-- A pending-write entry. -/
def pendBytes (lvl : Nat) (p : Pend) : List ImgByte :=
  fixedBytes (bytesOf 16 (p.kind % 4 * 2 ^ 5 + p.reg % 64 * 2 ^ 7 + p.cls % 8 * 2 ^ 13 + p.delay % 256 * 2 ^ 16 + lvl * 2 ^ 24)
    ++ bytesOf 128 p.value.toNat)

/-- The pending writes of the three levels, program first. -/
def pendSection (c : Ctx) : List (List ImgByte) :=
  c.flow.pend0.map (pendBytes 0) ++ c.flow.pend1.map (pendBytes 1) ++ c.flow.pend2.map (pendBytes 2)

/-- The bytes of an index vector of which lanes may be skipped (R178). -/
def laneBytes (idx : List (Option Nat)) : List Byte :=
  idx.flatMap (fun i => bytesOf 4 (match i with | some n => n | none => 2 ^ 32 - 1))

/-- The register values and queue entries that a command took at issue, in operand order (R331). -/
def opData (x : Cmd) : List Byte :=
  match x.op with
  | .tload va pitch _ _ _ | .tstore va pitch _ _ =>
    bytesOf 8 va.toNat ++ (match pitch with | some n => bytesOf 8 n.toNat | none => [])
  | .tgath va stride _ idx => bytesOf 8 va.toNat ++ bytesOf 8 stride.toNat ++ laneBytes idx
  | .tcvt _ _ _ sr => bytesOf 8 sr.toNat
  | .wget va win len | .wput va win len => bytesOf 8 va.toNat ++ bytesOf 8 win.toNat ++ bytesOf 8 len
  | .wadd va win len _ => bytesOf 8 va.toNat ++ bytesOf 8 win.toNat ++ bytesOf 8 len
  | .coll va _ => bytesOf 8 va.toNat
  | .swb va n => bytesOf 8 va.toNat ++ bytesOf 8 n
  | .rpush _ _ _ | .ttrn _ _ | .tzero _ | .matrix => []

/-- DONE and TOTAL of a command in chunks (R175). -/
def cmdChunks (s : State) (k : Nat) (x : Cmd) : Nat × Nat :=
  let c := s.ctx k
  match x.op with
  | .tload _ _ _ _ _ | .tgath _ _ _ _ => (x.done, (cmdPieces c x).length)
  | .tstore _ _ _ _ => (x.done - 1, (cmdPieces c x).length)
  | .rpush _ _ _ | .ttrn _ _ | .tcvt _ _ _ _ | .tzero _ => (x.done, 1)
  | .wget _ _ _ | .wput _ _ _ | .wadd _ _ _ _ =>
    ((x.chunks.filter (fun p => p.2 == .done)).length, (winPieces x).length)
  | .coll _ _ => (x.done, x.total)
  | .swb _ n => (n - ((List.range n).filter (fun i => x.writes.any (fun id => s.writes.any (fun w => decide (w.id = id)
      && decide (w.va.toNat / 4096 % n = i))))).length, n)
  | .matrix => (0, 0)

/-- An engine-command entry. -/
def cmdEntry (pc : W64) (seq : W32) (word : W32) (path state lvl : Nat) (chunks : Nat × Nat) (ops : List Byte) : List ImgByte :=
  fixedBytes (bytesOf 8 pc.toNat ++ bytesOf 4 seq.toNat ++ bytesOf 4 word.toNat
      ++ bytesOf 4 (path * 2 ^ 8 + state * 2 ^ 16 + lvl * 2 ^ 24) ++ bytesOf 4 chunks.1 ++ bytesOf 4 chunks.2)
    ++ zeroBytes 4 ++ fitBytes 992 ops

/-- The entry of a command of the engines: a copy command stands at the end of a chunk or has not started, the others go on
(R329). -/
def cmdBytes (s : State) (k : Nat) (x : Cmd) : List ImgByte :=
  cmdEntry x.pc x.seq x.word x.path (if x.path ≠ 1 then 2 else if x.done = 0 then 3 else 1) x.lvl (cmdChunks s k x) (opData x)

/-- The stores of a context in flight, once each: bundle, number, word and level. -/
def storesOf (s : State) (k : Nat) : List (W64 × W32 × W32 × Nat) :=
  ((s.writes.filter (fun w => decide (w.ctx = k) && w.store)).map (fun w => (w.pc, w.seq, w.word, w.lvl))).eraseDups

/-- The pieces of a store. -/
def storeParts (s : State) (k : Nat) (seq : W32) : List WriteRec :=
  s.writes.filter (fun w => decide (w.ctx = k) && w.store && decide (w.seq = seq))

/-- The entry of a store in flight: its pieces are its chunks, its first address and its bytes its operands (log entry 57). -/
def storeEntry (s : State) (k : Nat) (e : W64 × W32 × W32 × Nat) : List ImgByte :=
  let ws := storeParts s k e.2.1
  let ops := match ws with
    | [] => []
    | w :: _ => bytesOf 8 w.va.toNat ++ ws.flatMap (fun x => x.cells.map (·.2))
  cmdEntry e.1 e.2.1 e.2.2.1 0 2 e.2.2.2 ((ws.filter (fun w => w.performedAt 3)).length, ws.length) ops

/-- The engine commands: those of the engines, then the stores (log entry 57). -/
def cmdSection (s : State) (k : Nat) : List (List ImgByte) :=
  ((s.ctx k).cmds.filter (fun x => decide (x.path ≠ 2))).map (cmdBytes s k) ++ (storesOf s k).map (storeEntry s k)

/-- The pairs of a saved accumulator block, in key order. -/
def accBytes (m : CtxImage) (h : Share) : List ImgByte :=
  fixedBytes ((List.range (32768 * h.accCnt)).flatMap (fun i => bytesOf 4 (fget 0 m.acc (32768 * h.accFirst + i)).toNat))

/-- The variable sections in order, each with its count (R331). -/
def imageSections (s : State) (k : Nat) : List (Nat × List ImgByte) :=
  let c := s.ctx k
  let h := c.tiles.share
  let share := match c.img with
    | some m => [(h.len, fixedBytes (memRead s.mem (keyCore (imgCore k) h.base) h.len)), (h.accCnt, accBytes m h)]
    | none => [(0, []), (0, [])]
  [((pendSection c).length, (pendSection c).flatten), ((cmdSection s k).length, (cmdSection s k).flatten),
   (c.reports.length, fixedBytes (c.reports.flatMap (fun r => reportBytes r 0)))] ++ share

/-- Count and offset of each section, from an offset on. -/
def sectionHeads : (off : Nat) → List (Nat × List ImgByte) → List ImgByte
  | _, [] => []
  | off, (n, bs) :: rest => fixedBytes (bytesOf 4 n ++ bytesOf 4 off) ++ sectionHeads (off + bs.length) rest

/-- The header of 0x0000 to 0x00FF. -/
def headerBytes (c : Ctx) (secs : List (Nat × List ImgByte)) : List ImgByte :=
  fixedBytes (bytesOf 8 1 ++ bytesOf 8 (0x10000 + (secs.map (fun p => p.2.length)).sum)
      ++ bytesOf 4 c.run.launch ++ bytesOf 4 c.run.domain)
    ++ sectionHeads 0x10000 secs ++ openBytes 192

/-- The image of a saved context: the fixed part of R330, then the variable part of R331. -/
def imageLayout (s : State) (k : Nat) : List ImgByte :=
  let c := s.ctx k
  let secs := imageSections s k
  headerBytes c secs ++ regsBytes c.regs ++ sysBytes c ++ loadBytes c ++ storeBytes c ++ storeCountBytes c
    ++ flowBytes c ++ deferBytes c ++ spillBytes c ++ tileBytes c ++ matrixBytes c ++ zeroBytes 2560 ++ (secs.flatMap (·.2))

/-- The bytes of the image as the present writing leaves them. -/
def imageBytes (s : State) (k : Nat) : List Byte := settleBytes s.ticks 0 (imageLayout s k)

/-! Writing it (R328) -/

/-- The runs of bytes that an image fills, page by page: their keys and bytes. -/
def poolRuns (s : State) (d space : Nat) : (fuel : Nat) → W64 → List Byte → List (Nat × List Byte)
  | 0, _, _ => []
  | fuel + 1, va, bs =>
    if bs = [] then []
    else
      let rest := poolRuns s d space fuel (va + 4096) (bs.drop 4096)
      match poolPage s d space va with
      | some key => (key, bs.take 4096) :: rest
      | none => rest

/-- A granule of which a run fills every byte. -/
def fillsGranule (r : Nat × List Byte) (g : Nat) : Bool := decide (r.1 ≤ 64 * g) && decide (64 * g + 64 ≤ r.1 + r.2.length)

/-- The image of context `k` stands in slot `i` of a die's pool. -/
def putImage (s : State) (d i k : Nat) : State :=
  let base := dieReg s d 0x4008 0 + BitVec.ofNat 64 (2 ^ 23 * i)
  let bs := imageBytes s k
  let runs := poolRuns s d (s.ctx k).run.space (bs.length / 4096 + 1) base bs
  let c := s.ctx k
  let s1 := s.setCtx k { c with stale := false }
  { s1 with
    mem := runs.foldl (fun m r => memWrite m r.1 r.2) s1.mem
    nv := (runs.filter (fun r => isNvKey r.1)).foldl (fun m r => memWrite m r.1 r.2) s1.nv
    poison := s1.poison.filter (fun g => !runs.any (fun r => fillsGranule r g))
    ticks := s1.ticks + 1 }

/-! Reading it (R328) -/

/-- The keys of the bytes of an image slot from an offset on, page by page; none where the spill engine cannot read one. -/
def slotKeys (s : State) (d i space : Nat) (off n : Nat) : Option (List Nat) :=
  (List.range n).mapM (fun b => (poolPage s d space (dieReg s d 0x4008 0 + BitVec.ofNat 64 (2 ^ 23 * i + (off + b) / 4096 * 4096))).bind
    (fun key => if poisoned s (key + (off + b) % 4096) then none else some (key + (off + b) % 4096)))

/-- The bytes of an image slot from an offset on. -/
def slotRead (s : State) (d i space off n : Nat) : Option (List Byte) := (slotKeys s d i space off n).map (fun ks => ks.map (memGet s.mem))

/-- Registers of a file from the bytes of an image, `width` bytes each. -/
def fileOf {n : Nat} (m : FMap (BitVec n)) (first cnt width : Nat) (bs : List Byte) : FMap (BitVec n) :=
  (List.range cnt).foldl (fun m i => fset m (first + i) (BitVec.ofNat n (ofBytes ((bs.drop (width * i)).take width)))) m

/-- The strides of a file from the bytes of an image. -/
def stridesOf (m : FMap W32) (bs : List Byte) : FMap W32 :=
  (List.range 96).foldl (fun m i => fset m (8 * (i / 6) + i % 6) (BitVec.ofNat 32 (ofBytes ((bs.drop (4 * i)).take 4)))) m

/-- The register files as an image holds them, from its bytes of 0x0100 to 0x2A7F. -/
def regsOf (r : Regs) (bs : List Byte) : Regs :=
  let at_ := fun (off : Nat) => bs.drop (off - 0x100)
  { s := fileOf r.s 0 56 8 (at_ 0x100)
    va := fileOf r.va 0 24 128 (at_ 0x300)
    vb := fileOf r.vb 0 24 128 (at_ 0xF00)
    ka := fileOf r.ka 1 3 4 (at_ 0x1B04)
    kb := fileOf r.kb 1 3 4 (at_ 0x1B14)
    x := fileOf r.x 0 16 128 (at_ 0x1C00)
    e := fileOf r.e 0 16 32 (at_ 0x2400)
    p := fileOf r.p 0 8 8 (at_ 0x2600)
    psh := fileOf r.psh 0 8 8 (at_ 0x2640)
    ca := fileOf r.ca 0 16 8 (at_ 0x2680)
    cb := fileOf r.cb 0 16 8 (at_ 0x2700)
    sa := stridesOf r.sa (at_ 0x2780)
    sb := stridesOf r.sb (at_ 0x2900) }

/-- The system registers, the chain and the counting registers as an image holds them: 31 words from 0x2A80. -/
def sysFrom (c : Ctx) (bs : List Byte) : Ctx :=
  let w := fun (i : Nat) => BitVec.ofNat 64 (ofBytes ((bs.drop (8 * i)).take 8))
  { c with
    sys := { status := w 0, estatus := w 1, tvec := w 2, tcause := w 3, tval := w 4, epc0 := w 5, epc1 := w 6, epc2 := w 7
             tscratch := w 8, fstatus := w 9, ftvec := w 10, fcause := w 11, fval := w 12, fepc0 := w 13, fepc1 := w 14
             fepc2 := w 15 }
    flow := { c.flow with npc0 := w 16, npc1 := w 17, npc2 := w 18 }
    ctr := { c.ctr with
      frame := w 19, msord := w 20, srstate := w 21, seqno := (w 22).setWidth 32, oobaddr := w 23, oobflag := bit (w 24) 0
      dtcnt := fset (fset (fset (fset c.ctr.dtcnt 0 (w 25)) 1 (w 26)) 2 (w 27)) 3 (w 28)
      watcha := w 29, watchm := w 30 } }

/-- The entries of the load queues as an image holds them from 0x2C00 on: the data of those that had arrived when it was
written; what has arrived since stands in the saved queue (R329). -/
def loadsFrom (lq : FMap (List QEntry)) (bs : List Byte) : FMap (List QEntry) :=
  lq.map (fun (p : Nat × List QEntry) => (p.1, p.2.zipIdx.map (fun (e : QEntry × Nat) =>
    if e.1.st = .arrived ∧ (bs.getD (0x2000 + 8 * (8 * p.1 + e.2)) 0).toNat % 4 = 2 then { e.1 with data := BitVec.ofNat 1024 (ofBytes ((bs.drop (128 * (8 * p.1 + e.2))).take 128)) } else e.1)))

/-- The entries of the store queues as an image holds them. -/
def storesFrom (sq : FMap (List WEntry)) (bs : List Byte) : FMap (List WEntry) :=
  sq.map (fun (p : Nat × List WEntry) => (p.1, p.2.zipIdx.map (fun (e : WEntry × Nat) =>
    { e.1 with data := BitVec.ofNat 1024 (ofBytes ((bs.drop (128 * (8 * p.1 + e.2))).take 128)) })))

/-- A prefill or a resumption reads the image of a context from its slot (R328): the registers and queue data that R330 lays
out. Where the slot cannot be read, and for what R330 does not lay out, the context is as it was saved (log entry 57). -/
def readSlot (s : State) (k : Nat) : State :=
  match slotsOf s k with
  | [] => s
  | (d, i) :: _ =>
    let c := s.ctx k
    match slotRead s d i c.run.space 0x100 0x5F00 with
    | none => s
    | some bs =>
      let c1 := sysFrom { c with regs := regsOf c.regs bs } (bs.drop 0x2980)
      s.setCtx k { c1 with q := { c1.q with
        lq := loadsFrom c1.q.lq (bs.drop 0x2B00)
        sq := storesFrom c1.q.sq (bs.drop 0x4F00) } }

end Sys2Proof.Machine
end

