-- ==== Sys2Proof/Machine/Scan.lean ====
section
/-! DEFINITION. The in-field scan, retirement and rebinding of cores (R214, R373 to R384). -/
namespace Sys2Proof.Machine

/-! Lines and the retire map (R375, R376) -/

/-- The low bit of field `i` of RETIRE: columns at 0 and 9, rows at 18 and 27 (R376). -/
def retireAt (row : Bool) (i : Nat) : Nat := (if row then 18 else 0) + 9 * i

/-- RETIRE names a line. -/
def retireNames (v : W64) (row : Bool) (j : Nat) : Bool :=
  [0, 1].any (fun i => bit v (retireAt row i + 8) && decide ((fld v (retireAt row i) 8).toNat = j))

/-- The evidence byte of a column, or the mark byte of a row. -/
def lineByte (x : Phys) (row : Bool) (j : Nat) : BitVec 8 := fget 0 (if row then x.erow else x.evid) j

/-- That byte replaced. -/
def setLineByte (x : Phys) (row : Bool) (j : Nat) (v : BitVec 8) : Phys :=
  if row then { x with erow := fset x.erow j v } else { x with evid := fset x.evid j v }

/-- MARK. -/
def lineMarked (x : Phys) (row : Bool) (j : Nat) : Bool := bit (lineByte x row j) 7

/-- The lines that await retirement. -/
def markedLines (x : Phys) (row : Bool) : List Nat :=
  (List.range 132).filter (fun j => lineMarked x row j && !retireNames x.retire row j)

/-- The free spares of a kind: not in use and not marked themselves. -/
def freeSpares (x : Phys) (row : Bool) : List Nat :=
  [0, 1].filter (fun i => !bit x.retire (retireAt row i + 8) && !lineMarked x row (130 + i))

/-- Every marked line of a kind has a free spare (R383); a marked spare needs none unless it serves. -/
def spared (x : Phys) (row : Bool) : Bool :=
  let ls := markedLines x row
  decide ((ls.filter (fun j => decide (j < 130))).length ≤ (freeSpares x row).length)
    && ls.all (fun j => decide (j < 130) || !bit x.retire (retireAt row (j - 130) + 8))

/-- One marked line takes the lowest free spare; `true` when there is none (R375, R377). -/
def retireLine (row : Bool) (p : Phys × Bool) (j : Nat) : Phys × Bool :=
  match freeSpares p.1 row with
  | [] => (p.1, true)
  | i :: _ =>
    let v := putFld (putFld p.1.retire (retireAt row i) (BitVec.ofNat 8 j)) (retireAt row i + 8) (1 : BitVec 1)
    (setLineByte { p.1 with retire := v } row j (lineByte p.1 row j &&& 0x7F), p.2)

/-- The retire map at an idle point: marked columns, then rows, lowest first (R375). -/
def retireAll (x : Phys) : Phys × Bool :=
  let cs := (markedLines x false).filter (fun j => decide (j < 130))
  let rs := (markedLines x true).filter (fun j => decide (j < 130))
  rs.foldl (retireLine true) (cs.foldl (retireLine false) (x, false))

/-- The bits of RETIRE. -/
def retireMask : W64 := 0xFFFFFFFFF

/-- A value that RETIRE takes: its valid fields name no spare and no line twice (R376). -/
def retireOk (v : W64) : Bool :=
  [false, true].all (fun row =>
    let used := [0, 1].filter (fun i => bit v (retireAt row i + 8))
    let ls := used.map (fun i => (fld v (retireAt row i) 8).toNat)
    ls.all (fun j => decide (j < 130)) && decide (ls.eraseDups.length = ls.length))

/-! Bins and states (R378 to R381) -/

/-- A PCSTAT value. -/
def pcWord (state bin passes : Nat) : W64 := BitVec.ofNat 64 (state % 8 + bin % 4 * 16 + passes % 256 * 256)
/-- PASSES. -/
def pcPasses (v : W64) : Nat := (fld v 8 8).toNat
/-- PCSTATp written by hardware. -/
def setPcstat (s : State) (d p : Nat) (v : W64) : State := setDieReg s d (0x4800 + 8 * p) v

/-- A core leaves service, or a test, one bin safer; at B2 it has failed (R377, R381, R384). -/
def saferWord (v : W64) : W64 := if pcBin v < 2 then pcWord 2 (pcBin v + 1) 0 else pcWord 3 (pcBin v) 0

/-- No bank of a logical core holds a context (R379). -/
def coreEmpty (s : State) (core : Nat) : Bool :=
  (s.core core).exch.isNone && [0, 1, 2].all (fun b =>
    let c := s.ctx (s.bankOf core b)
    !c.run.live && !c.run.halted && c.cmds.isEmpty)

/-- The core store, accumulator store and register banks of a core are zero, its microprogram store and routine table the vendor
library (R383). -/
def wipeCore (s : State) (core : Nat) : State :=
  let x := s.core core
  let s1 := s.setCore core { x with acc := [], chk := [], tol := [], ustore := [], rtab := [], image := none }
  let s2 := [0, 1, 2].foldl (fun (s : State) b =>
    let k := s.bankOf core b
    let c := s.ctx k
    s.setCtx k { c with regs := {} }) s1
  { s2 with mem := s2.mem.filter (fun m => decide (m.1 < keyCore core 0) || decide (keyCore core (2 ^ 22) ≤ m.1)) }

/-- The resident shares of saved contexts of a core go into their images (R245, R383). -/
def saveResidents (s : State) (core : Nat) : State :=
  ((s.ctxs.filter (fun p => p.2.run.live && p.2.run.saved && decide (p.2.run.lcore = core) && p.2.img.isNone)).map (·.1)).foldl
    captureShare s

/-- A logical number's core has left service (R379). -/
def coreOut (s : State) (d c : Nat) : Bool :=
  let st := pcState (pcstat s d (physOf s (64 * d + c)))
  bit (lcmapOf s d c) 7 && (decide (st = 2) || decide (st = 3))

/-- The binding of a logical number is to change, and no bank of its core holds a context (R379). -/
def rebindDue (s : State) (d c : Nat) : Bool :=
  decide (c < 64) && decide (d < 32) && coreEmpty s (64 * d + c) && ((fget? (s.die d).rebind c).isSome || coreOut s d c)

/-- Logical numbers whose binding a write of LCMAP or a state of their core concerns. -/
def leavingCores (s : State) (d : Nat) : List Nat :=
  ((s.die d).rebind.map (·.1) ++ ((s.die d).ctl.filter (fun e => decide (0x4800 ≤ e.1 ∧ e.1 < 0x4A20))).filterMap
    (fun e => logicalOf s d ((e.1 - 0x4800) / 8))).eraseDups

/-- The spare that a logical number takes: the fastest bin, then the lowest number (R379). -/
def bestSpare (s : State) (d : Nat) : Option Nat :=
  (List.range 68).foldl (fun (r : Option Nat) p =>
    if pcState (pcstat s d p) = 1 then
      (match r with
       | none => some p
       | some q => if pcBin (pcstat s d p) < pcBin (pcstat s d q) then some p else some q)
    else r) none

/-- A logical number is bound to a physical core, which is in service with fresh stores (R379). -/
def bindCore (s : State) (d c p : Nat) : State :=
  let v := pcstat s d p
  let s1 := setPcstat (wipeCore (saveResidents s (64 * d + c)) (64 * d + c)) d p (pcWord 0 (pcBin v) (pcPasses v))
  setDieReg s1 d (0x4600 + 8 * c) (BitVec.ofNat 64 (0x80 + p))

/-! The scan (R382 to R384) -/

/-- SCANCTL. -/
def scanReg (s : State) (d : Nat) : W64 := dieReg s d 0x4A40 (BitVec.ofNat 64 (4 * 2 ^ 52))
/-- ST of SCANCTL. -/
def scanSt (s : State) (d : Nat) : Nat := (fld (scanReg s d) 56 4).toNat
/-- ST written. -/
def setScanSt (s : State) (d st : Nat) : State := setDieReg s d 0x4A40 (putFld (scanReg s d) 56 (BitVec.ofNat 4 st))
/-- ERR set. -/
def scanErr (s : State) (d : Nat) : State := setDieReg s d 0x4A40 (putFld (scanReg s d) 55 (1 : BitVec 1))
/-- APRIO, BIN and PCORE of a command taken. -/
def scanTake (s : State) (d : Nat) (v : W64) : State := setDieReg s d 0x4A40 (putFld (scanReg s d) 43 (fld v 43 12))

/-- The end of a scan: its registers, its trace record and its trigger source (R382, R388, R390). -/
def scanEnd (s : State) (d : Nat) (x : Scan) (st : Nat) (cycles first : Nat) : State :=
  let s1 := setDieReg (setScanSt s d st) d 0x4A48 (BitVec.ofNat 64 (cycles % 2 ^ 32 + 2 ^ 32 * (first % 2 ^ 32)))
  let y := s1.die d
  let s2 := s1.setDie d { y with scan := none }
  let pay := bytesOf 8 (scanReg s2 d).toNat ++ bytesOf 8 (dieReg s2 d 0x4A48 0).toNat
  raiseSource (traceAll s2 d 7 0 (recordBytes (traceHead s2 d x.pcore 0 7) pay 32)) d 18

/-- What the patterns overwrote is restored; a spare holds nothing that a program reaches (R383). -/
def scanRestore (s : State) (d : Nat) (x : Scan) : State :=
  match x.runs, x.lcore with
  | true, some c => wipeCore s (64 * d + c)
  | _, _ => s

/-- An abort ends the scan at once (R384). -/
def abortScan (s : State) (d : Nat) : State :=
  match (s.die d).scan with
  | none => s
  | some x =>
    let v := pcstat s d x.pcore
    let s1 := setPcstat (scanRestore s d x) d x.pcore (pcWord x.prev (pcBin v) 0)
    let n := if x.runs then (Config.scanCycles s1.ticks).toNat else 0
    scanEnd { s1 with ticks := s1.ticks + 1 } d x 5 n (2 ^ 32 - 1)

/-- A command for a bank of a core aborts the scan of that core (R384). -/
def bankCommand (s : State) (core : Nat) : State :=
  match (s.die (dieOf core)).scan with
  | some x => if x.lcore = some (core % 64) ∧ core < 2048 ∧ x.prev = 0 then abortScan s (dieOf core) else s
  | none => s

/-- START is refused (R382, R383). -/
def startRefused (s : State) (d : Nat) (v : W64) : Bool :=
  let p := (fld v 43 7).toNat
  let bin := (fld v 50 2).toNat
  let st := pcstat s d p
  decide (scanSt s d = 1) || decide (scanSt s d = 2) || decide (68 ≤ p) || decide (bin = 3) || decide (pcState st = 3)
    || (decide (pcState st = 0) && decide (bin < pcBin st))

/-- An accepted START (R383). -/
def startScan (s : State) (d : Nat) (v : W64) : State :=
  let p := (fld v 43 7).toNat
  let st := pcstat s d p
  let s1 := setPcstat (setScanSt (scanTake s d v) d 1) d p (pcWord 4 (pcBin st) (pcPasses st))
  let x := s1.die d
  s1.setDie d { x with
    scan := some { pcore := p, prev := pcState st, lcore := if pcState st = 0 then logicalOf s d p else none,
                   bin := (fld v 50 2).toNat, runs := false } }

/-- A launch of PRIO at or above APRIO has work for the logical number under test (R384). -/
def scanPressed (s : State) (d : Nat) (x : Scan) : Bool :=
  match x.lcore with
  | none => false
  | some c =>
    let core := 64 * d + c
    let aprio := (fld (scanReg s d) 52 3).toNat
    (launchIds s).any (fun l =>
      let y := s.launch l
      (runnable s l || y.working) && decide (aprio ≤ y.rec_.prio)
        && y.pools.any (fun p => (p.offer y.rec_.det (decide (y.rec_.seats = 1)) core).isSome))

/-- The core under test is drained and its patterns have not begun (R383). -/
def scanDrained (s : State) (d : Nat) (x : Scan) : Bool :=
  !x.runs && (match x.lcore with
    | none => true
    | some c => let core := 64 * d + c; !seatBusy s core 0 && !seatBusy s core 1 && !(s.ctx (s.bankOf core 2)).run.live)

/-- The verdict of a finished pattern set (R381, R383, R384). -/
def verdict (s : State) (d : Nat) (x : Scan) (fails rows cols : List Nat) : State :=
  let y := physAt s d x.pcore
  let mark := fun (row : Bool) (y : Phys) (j : Nat) => setLineByte y row j (lineByte y row j ||| 0x80)
  let y1 := (cols.filter (fun j => decide (j < 132))).foldl (mark false)
    ((rows.filter (fun j => decide (j < 132))).foldl (mark true) y)
  let ok := fails.isEmpty && spared y1 false && spared y1 true
  let sigs := fails ++ rows.map (Config.lineSignature true) ++ cols.map (Config.lineSignature false)
  let first := sigs.foldl min (2 ^ 32 - 1)
  let y2 := if ok then (List.range 132).foldl (fun (y : Phys) j =>
      if retireNames y.retire false j then y else setLineByte y false j (lineByte y false j &&& 0x80)) y1 else y1
  let v := pcstat s d x.pcore
  let n := if x.bin = pcBin v then min 255 (pcPasses v + 1) else pcPasses v
  let w := if ok then pcWord (if x.prev = 2 ∧ 3 ≤ n then 1 else x.prev) (pcBin v) n else saferWord v
  let s1 := setPcstat (setPhysAt (scanRestore s d x) d x.pcore y2) d x.pcore w
  scanEnd s1 d x (if ok then 3 else 4) 120000 first

end Sys2Proof.Machine
end

