-- ==== Sys2Proof/Machine/SeatEvents.lean ====
section
/-! DEFINITION. The seat events: exchange, saving and resuming, steals, pre-emption, stops and the SCTL commands (R10, R240, R300,
R307, R308, R313, R322, R327 to R338). An event that is not enabled changes nothing (log entry 4). -/
namespace Sys2Proof.Machine

/-- A requested exchange starts at a qualifying boundary; it takes 16 cycles (R10, R327). -/
def execExchangeStart (core : Nat) (s : State) : Host.Outcome State Fault Refusal := .next (startWanted s core)

/-- The 16 cycles are over: the standby bank and the seat change places (R10, R329, R332). -/
def execExchangeEnd (core : Nat) (s : State) : Host.Outcome State Fault Refusal := .next (endDue s core)

/-- The spill engine writes an evicted context into a free image slot, and the standby bank is free; before that, an image of its
pool whose context has since lost its share to another (R240, R245, R328). -/
def execContextImageWrite (core : Nat) (s : State) : Host.Outcome State Fault Refusal :=
    let k := s.bankOf core 2
  let d := dieOf core
  let i := firstFree (s.die d).pool 0
  match (s.die d).pool.find? (fun e => (s.ctx e.2).stale && (s.ctx e.2).run.saved) with
  | some (j, m) => .next (putImage s d j m)
  | none =>
  if unwritten s core k && parkedQuiet s core k && decide (i < imageSlots s d) && (s.core core).exch.isNone then
    let s1 := putImage (saveCall s core k) d i k
    let x := s1.die d
    .next (vacate (s1.setDie d { x with pool := fset x.pool i k }) core 2 k)
  else .next s

/-- The spill engine reads a context image into a free standby bank, once the values parked there have gone to their owners'
spill areas (R42, R328). -/
def execStandbyPrefill (core ctx : Nat) (s : State) : Host.Outcome State Fault Refusal :=
    let j := s.bankOf core 2
  let c := s.ctx ctx
  if !(s.ctx j).run.live && (s.core core).exch.isNone && !(slotsOf s ctx).isEmpty && !c.stale && mayResume s ctx && coreOpen s core
      && (s.launch c.run.launch).pools.any (fun p => p.names core) then
    let s1 := emptyStandby s core
    if standbyKept s1 core then .next s1
    else
      let x := s1.core core
      .next (readSlot { s1.setCore core { x with domains := fset x.domains 2 c.run.domain } with
        banks := fset s1.banks (3 * core + 2) ctx } ctx)
  else .next s

/-- A launch's image is written into a core's microprogram store and routine table at an idle point (R222, R300). -/
def execMicroprogramImageLoad (core launch : Nat) (s : State) : Host.Outcome State Fault Refusal :=
    if !mayLoad s core launch then .next s
  else
    match (s.launch launch).image with
    | none => .next s
    | some i => .next (loadImage s core i)

/-- A seat whose walker holds no range and finds no pool asks to steal: with a context at rest, or idle with none; without a
candidate the context ends (R307). -/
def execStealRequest (core seat : Nat) (s : State) : Host.Outcome State Fault Refusal :=
    match thiefLaunch s core seat with
  | none => .next s
  | some l =>
    if s.dev.steals.all (fun t => decide (t.core ≠ core ∨ t.seat ≠ seat)) then
      match victimOf s l (dieOf core) [] with
      | none => .next (endThief s core seat l)
      | some v =>
        let (i, s1) := takeId s
        .next { s1 with dev := { s1.dev with
          steals := s1.dev.steals ++ [{ id := i, core := core, seat := seat, victim := v, launch := l }] } }
    else .next s

/-- The victim gives the upper half of what is left, or refuses and the next candidate is asked (R307, R308). -/
def execStealSplit (id : Nat) (s : State) : Host.Outcome State Fault Refusal :=
    match s.dev.steals.find? (fun t => decide (t.id = id)) with
  | none => .next s
  | some t =>
    if t.range.isSome then .next s
    else if !(s.launch t.launch).working then .next (endThief (dropSteal s id) t.core t.seat t.launch)
    else if mayLose s t.launch t.victim then
      let c := s.ctx t.victim
      let h := c.run.cur + (c.run.hi - c.run.cur + 1) / 2
      .next (putSteal (s.setCtx t.victim { c with run := { c.run with hi := h } }) { t with range := some (h, c.run.hi) })
    else
      let tried := t.tried ++ [t.victim]
      match victimOf s t.launch (dieOf t.core) tried with
      | some v => .next (putSteal s { t with victim := v, tried := tried })
      | none => .next (endThief (dropSteal s id) t.core t.seat t.launch)

/-- The thief receives the range: its context at rest takes it, or one starts with it on the idle seat; a cancelled launch counts
it failed (R303, R307, R308). -/
def execStealGrant (id : Nat) (s : State) : Host.Outcome State Fault Refusal :=
    match s.dev.steals.find? (fun t => decide (t.id = id)) with
  | none => .next s
  | some t =>
    match t.range with
    | none => .next s
    | some (a, b) =>
      let s1 := dropSteal s id
      let k := s.bankOf t.core t.seat
      if (s.launch t.launch).cancelled then .next (failUnits s1 t.launch (b - a))
      else if restsOn s t.core t.seat t.launch then
        .next (notePlaced (s1.setCtx k ((s1.ctx k).takeRange a b)) t.launch a b (dieOf t.core))
      else if seatFor s1 t.core t.seat t.launch then
        .next (notePlaced (startBank s1 t.core t.seat k (newRun s1 t.core t.seat t.launch) 0 (s.launch t.launch).rec_.entry 0
          (fun c => c.takeRange a b)) t.launch a b (dieOf t.core))
      else .next (giveBack s1 t.launch t.core a b)

/-- A runnable launch with work on a die and no idle seat there pre-empts one of lower priority (R313). -/
def execPreempt (die launch : Nat) (s : State) : Host.Outcome State Fault Refusal :=
    let x := s.launch launch
  let seats := seatsOn s die launch
  if x.working && seats.any (fun p => hasWork s p.1 p.2 launch)
      && seats.all (fun p => !hasWork s p.1 p.2 launch || !seatFor s p.1 p.2 launch) then
    match victimSeat s die launch with
    | some (core, seat) => .next (prefillNew s core seat launch)
    | none => .next s
  else .next s

/-- A saved context takes an idle seat that its launch may use; the oldest of its launch goes first (R313, R332, R333). -/
def execContextResume (ctx : Nat) (s : State) : Host.Outcome State Fault Refusal :=
    let c := s.ctx ctx
  let l := c.run.launch
  match resumeSeat s ctx with
  | none => .next s
  | some (core, seat) =>
    let older := (savedList s).takeWhile (fun k => decide (k ≠ ctx))
    let first := older.all (fun k => decide ((s.ctx k).run.launch ≠ l) || !mayResume s k || decide (resumeSeat s k ≠ some (core, seat)))
    let urgent := (s.launch l).stopping.isSome
    if mayResume s ctx && (savedList s).contains ctx && first && (urgent || bestFor s core seat l) && imageLoaded s core l
        && !seatBusy s core seat && parkedQuiet s c.run.lcore ctx then
      let s0 := saveCall s c.run.lcore ctx
      let at2 := s0.banks.filter (fun p => decide (p.2 = ctx) && decide (p.1 % 3 = 2))
      let s1 := at2.foldl (fun s p => vacate s (p.1 / 3) 2 ctx) s0
      let s2 := if s1.bankOf c.run.lcore 2 = ctx then vacate s1 c.run.lcore 2 ctx else s1
      .next (install (if inStandby s ctx then s2 else readSlot s2 ctx) core seat ctx)
    else .next s

/-- The driver or firmware stops a launch: nothing new starts, and every seat of it freezes at its next boundary (R333). -/
def execLaunchStop (launch : Nat) (s : State) : Host.Outcome State Fault Refusal :=
    .next (beginStop s launch)

/-- The frozen contexts give the target, and later the stop completes with its report (R333). -/
def execStopComplete (launch : Nat) (s : State) : Host.Outcome State Fault Refusal :=
    .next (settleStop s launch)

/-- A seat that has not reached the cut within STOPLIM is to stop at its next boundary and is marked as not at the cut, a held
one too; so is a saved context that has not been resumed (R334; log entry 87). -/
def execStopLimitExpiry (ctx : Nat) (s : State) : Host.Outcome State Fault Refusal :=
    let c := s.ctx ctx
  let late := c.run.live && !c.run.halted && limitPassed s ctx && !c.dbg.missed
  match (s.launch c.run.launch).stopping with
  | none => .next s
  | some none => .next (if late && !standsStill s ctx then s.setCtx ctx (markMissed c) else s)
  | some (some T) =>
    .next (if late && !atCut s T ctx && !(s.launch c.run.launch).stopped then s.setCtx ctx (markMissed c) else s)

/-- STOP: a running seat freezes at its next boundary; it also aborts a scan of the core (R336, R384). -/
def execStop (core bank : Nat) (s : State) : Host.Outcome State Fault Refusal :=
    let k := s.bankOf core bank
  let s1 := bankCommand s core
  .next (if stOf s core bank = 1 then s1.setCtx k (askStop (s1.ctx k)) else refuse s1 k)

/-- STEP: a stopped seat issues one bundle (R336). -/
def execStep (core bank : Nat) (s : State) : Host.Outcome State Fault Refusal :=
    let k := s.bankOf core bank
  let c := s.ctx k
  .next (if stOf s core bank = 3 then s.setCtx k { c with dbg := { c.dbg with st := 4, stepTraps := 0 } } else refuse s k)

/-- RUN: a stopped seat goes on; a stopped launch is continued (R334, R336). -/
def execRun (core bank : Nat) (s : State) : Host.Outcome State Fault Refusal :=
    let k := s.bankOf core bank
  let c := s.ctx k
  let x := s.launch c.run.launch
  .next (if stOf s core bank = 3 then
      let s1 := if x.stopping.isSome then s.setLaunch c.run.launch { x with stopping := none, stopped := false } else s
      s1.setCtx k (resumed { c with dbg := { c.dbg with st := 1, ask := false, at_ := false, missed := false } })
    else refuse s k)

/-- HALT: a seat issues nothing more, its context stays readable; it also aborts a scan of the core (R322, R335, R384). -/
def execHalt (core bank : Nat) (s : State) : Host.Outcome State Fault Refusal :=
    let k := s.bankOf core bank
  let s1 := bankCommand s core
  .next (if 1 ≤ stOf s core bank ∧ stOf s core bank ≤ 4 then haltCtx s1 k 0 else refuse s1 k)

/-- RELEASE: a halted bank is freed (R322, R335). -/
def execRelease (core bank : Nat) (s : State) : Host.Outcome State Fault Refusal :=
    let k := s.bankOf core bank
  let c := s.ctx k
  .next (if c.run.halted then s.setCtx k { c with
      run := { c.run with halted := false, live := false, busy := false }
      dbg := { c.dbg with st := 0 } }
    else refuse s k)

/-- A bank that passes to another domain is cleared, unless a halted one still holds a context (R16, R338, R340). -/
def execDomainChange (core bank domain : Nat) (s : State) : Host.Outcome State Fault Refusal :=
    let k := s.bankOf core bank
  let c := s.ctx k
  let x := s.core core
  if c.run.live || c.run.halted || !c.cmds.isEmpty || decide (fget 0 x.domains bank = domain) then .next s
  else
    .next (takeBank s core bank k domain)

/-- A change of owner clears core stores, accumulators, barriers and image slots, restores the vendor library and starts identifiers anew (R241, R312, R338). -/
def execOwnerChange (owner : Nat) (s : State) : Host.Outcome State Fault Refusal :=
    if (launchIds s).any (fun l => (s.launch l).alive) || s.ctxs.any (fun p => p.2.run.live || !p.2.cmds.isEmpty) then .next s
  else
    let s1 := s.dies.foldl (fun s p => ((s.die p.1).trace.map (·.1)).foldl (fun s i => endTrace s p.1 i 5) s) s
    .next { s1 with
      cores := s1.cores.map (fun (p : Nat × CoreSt) => (p.1, { p.2 with
        acc := [], chk := [], tol := [], ustore := [], rtab := [], image := none, bars := [], domains := [] }))
      dies := s1.dies.map (fun (p : Nat × DieSt) => (p.1, { p.2 with pool := [], savedq := [] }))
      mem := s1.mem.filter (fun m => !isCoreKey m.1)
      dev := { s1.dev with owner := owner, nextLaunch := 1, launches := [], counts := [] } }

end Sys2Proof.Machine
end

