-- ==== Sys2Proof/Machine/Service.lean ====
section
/-! DEFINITION. Units of the dies and the module that other steps reach: shootdowns (R349), bias flips (R353), the Alvel link and the
companion processor (R278, R351), error counts (R350, R396), triggers (R388), trace sessions (R389), recovery (R369) and attestation
(R398). -/
namespace Sys2Proof.Machine

/-! Shootdowns (R348, R349) -/

/-- A cached block overlaps a range of a space. -/
def TlbEntry.inRange (t : TlbEntry) (space lo hi : Nat) : Bool :=
  decide (t.space = space) && decide (t.va.toNat < hi) && decide (lo < t.va.toNat + 2 ^ t.bits)

/-- Cached translations of a range of a space, and the walk-cache entries of the space, go on every die. -/
def dropRange (s : State) (space lo hi : Nat) : State :=
  { s with
    cores := s.cores.map (fun (p : Nat × CoreSt) => (p.1, { p.2 with tlb := p.2.tlb.filter (fun t => !t.inRange space lo hi) }))
    dies := s.dies.map (fun (p : Nat × DieSt) => (p.1, { p.2 with
      tlb := p.2.tlb.filter (fun t => !t.inRange space lo hi)
      walks := p.2.walks.filter (fun w => decide (w.space ≠ space)) })) }

/-- Accesses in flight that were translated in a range of a space. -/
def accessesIn (s : State) (space lo hi : Nat) : List Nat :=
  let inside := fun (a : W64) => decide (a.toNat < 2 ^ 57) && decide (lo ≤ a.toNat) && decide (a.toNat < hi)
  (s.loads.filter (fun l => decide (l.space = space) && (inside l.va || (match l.kind with
    | .read cs _ => cs.any (fun c => match c with | some p => inside p.2 | none => false)
    | _ => false)))).map (·.id)
  ++ (s.writes.filter (fun w => decide (w.space = space) && inside w.va)).map (·.id)

/-- The blocks of the cached translations that overlap a range of a space, and the range itself: what an access that a
shootdown waits for lies in (R349). -/
def shotBlocks (s : State) (space lo hi : Nat) : List (Nat × Nat) :=
  let hit := ((s.cores.flatMap (fun p => p.2.tlb)) ++ s.dies.flatMap (fun p => p.2.tlb)).filter (fun t => t.inRange space lo hi)
  (lo, hi) :: (hit.map (fun t => (t.va.toNat, t.va.toNat + 2 ^ t.bits))).eraseDups

/-- A shootdown of a die begins (R349): KIND, its spaces and its range. -/
def shoot (s : State) (d kind : Nat) (spaces : List Nat) (lo hi : Nat) (fields : W64) : State :=
  if (s.die d).shoot.busy then setDieReg s d 0x4400 (dieReg s d 0x4400 0 ||| BitVec.ofNat 64 (2 ^ 62))
  else
    let ids := spaces.flatMap (fun a => (shotBlocks s a lo hi).flatMap (fun b => accessesIn s a b.1 b.2))
    let s1 := spaces.foldl (fun s a => dropRange s a lo hi) s
    let s2 := setDieReg s1 d 0x4400 (putFld (putFld fields 63 (1 : BitVec 1)) 60 (BitVec.ofNat 2 kind))
    let x := s2.die d
    s2.setDie d { x with shoot := { busy := true, ids := ids } }

/-- Every access that a dropped entry translated has been performed at device scope or has failed (R349). -/
def shootDone (s : State) (d : Nat) : Bool :=
  (s.die d).shoot.ids.all (fun i => !loadAlive s i && s.writes.all (fun w => decide (w.id ≠ i) || w.performedAt 3))

/-! Bias flips (R278, R353) -/

/-- The leaf entry that maps an address, read by a walk that uses no cache: its key, the entry and its block. -/
def leafSlot (s : State) (d space : Nat) (va : W64) : (fuel lvl : Nat) → (e : W64) → Option (Nat × W64 × Nat)
  | 0, _, _ => none
  | fuel + 1, lvl, e =>
    match readPte s d e lvl va with
    | .error _ => none
    | .ok pte =>
      if !pteV pte || pteReserved pte lvl va then none
      else if pteLeaf pte then
        some (keyHbm (pteHome e) (pteFrame e * 4096 + 8 * vaIndex va lvl), pte, leafBits pte lvl)
      else leafSlot s d space va fuel (lvl + 1) pte

/-- The flip that a write of BFCTL asks for, unless it is refused (R353). -/
def flipFor (s : State) (d : Nat) (value : W64) : Option Flip :=
  let space := (fld value 55 6).toNat
  let va := dieReg s d 0x4418 0
  let new := bit value 61
  if !bit (asRoot s space) 0 || decide (2 ^ 57 ≤ va.toNat) then none
  else
    match leafSlot s d space va 5 1 (asRoot s space) with
    | some (key, pte, bits) =>
      if new && pteDur pte then none
      else some { space := space, va := BitVec.ofNat 64 (va.toNat / 2 ^ bits * 2 ^ bits), bits := bits, pteKey := key, new := new }
    | none => none

/-- Bytes of a granule that a unit of a die writes at a physical key, in the die's order. -/
def keyStore (s : State) (d key : Nat) (bs : List Byte) : State :=
  let (id, s1) := takeId s
  settle (dieWrite s1
    { id := id, agent := 0, core := 2048 + d, die := d, home := d, cells := cellsAt key bs, vis := id })

/-- The accesses of a page that were performed before the flip have been performed everywhere (R278). -/
def flipQuiet (s : State) (f : Flip) : Bool :=
  let lo := f.va.toNat
  s.writes.all (fun w => decide (w.space ≠ f.space) || decide (w.va.toNat < lo) || decide (lo + 2 ^ f.bits ≤ w.va.toNat)
    || w.coh.isNone || decide (4 ≤ w.stage))

/-- No stash holds a line of a page any more (R353). -/
def dropPage (s : State) (space lo hi : Nat) : State :=
  { s with ctxs := s.ctxs.map (fun (p : Nat × Ctx) => (p.1, { p.2 with tiles := { p.2.tiles with
      stash := p.2.tiles.stash.map (fun (e : Nat × StashEntry) => (e.1,
        if e.2.space = space ∧ lo ≤ e.2.va.toNat ∧ e.2.va.toNat < hi then { e.2 with held := 0 } else e.2)) } })) }

/-- The leaf takes the new bias, its cached translations go, no stash holds a line of a page that leaves the device's bias, and
the accesses that wait go on under it (R353). -/
def flipPage (s : State) (d : Nat) (f : Flip) : State :=
  let lo := f.va.toNat
  let hi := lo + 2 ^ f.bits
  let old : W64 := BitVec.ofNat 64 (ofBytes (viewBytes s (dieViewer d) s.nextId f.pteKey 8))
  let s0 := if f.new then dropPage s f.space lo hi else s
  let s1 := dropRange (keyStore s0 d f.pteKey (bytesOf 8 (putFld old 11 (BitVec.ofNat 1 (b2n f.new))).toNat)) f.space lo hi
  let ids := accessesIn s1 f.space lo hi
  let s2 := { s1 with
    loads := s1.loads.map (fun l => if ids.contains l.id then { l with host := f.new } else l)
    writes := s1.writes.map (fun w => if ids.contains w.id && w.coh.isNone then { w with host := f.new } else w) }
  let x := s2.die d
  setDieReg (s2.setDie d { x with flip := none }) d 0x4410 (putFld (dieReg s2 d 0x4410 0) 63 (0 : BitVec 1))

/-! The companion processor (R278, R351) -/

/-- A device-bias page of the companion's access, by the walk of die 0's management core. -/
def companionXl (s : State) (space : Nat) (va : W64) (need : Need5) : Option Xl :=
  if flipBlocks s space va || !linkReady s then none
  else
    match xlate s 2048 space va need with
    | .ok x => if pteBias x.leaf then none else some x
    | .error _ => none

/-- The companion's accesses wait for what its last release waits for. -/
def companionWaits (s : State) : Bool :=
  s.dev.compWait.any (fun i => s.writes.any (fun w => decide (w.id = i) && !w.performedAt 3))

/-- Writes of the companion's that are in flight since a state. -/
def companionNote (s : State) (from_ : Nat) : State :=
  let ids := (s.writes.filter (fun w => decide (from_ ≤ w.id))).map (·.id)
  let old := s.dev.compWrites.filter (fun i => s.writes.any (fun w => decide (w.id = i)))
  { s with dev := { s.dev with compWrites := old ++ ids } }

/-- Bytes that the companion reads at the home die store of their page, page by page (R278). -/
def companionRead (s : State) (space : Nat) (va : W64) (n : Nat) : Option (List Byte) :=
  (runPieces va n 0).foldl (fun r p => match r, companionXl s space p.va { r := true, lvl := 2 } with
    | some bs, some x =>
      if (List.range p.len).any (fun i => poisoned s (x.key + i)) then none
      else some (bs ++ viewBytes s (dieViewer (pteHome x.leaf)) s.nextId x.key p.len)
    | _, _ => none) (some [])

/-- Bytes of a granule that the companion writes at the home die store of their page (R278). -/
def companionPut (s : State) (space : Nat) (va : W64) (bs : List Byte) : Except XErr State :=
  match companionXl s space va { w := true, lvl := 2 } with
  | none => .error (.code 0x13)
  | some x => unitStore s x (pteHome x.leaf) space va true bs

/-- Bytes that the companion writes, granule by granule (R266, R278). -/
def companionWrite (s : State) (space : Nat) (va : W64) (bs : List Byte) : State :=
  match putBlocks (fun s va bs => .ok (match companionPut s space va bs with | .ok s1 => s1 | .error _ => s)) s (bs.length / 64 + 2) va bs with
  | .ok s1 => s1
  | .error _ => s

/-- An atomic of the companion at the home die store (R183, R278). -/
def companionAtomic (s : State) (space : Nat) (va : W64) (op : Nat) (v e : W64) : State :=
  match companionXl s space va { r := true, w := true, lvl := 2 } with
  | none => s
  | some x =>
    if va.toNat % 8 ≠ 0 ∨ (List.range 8).any (fun i => poisoned s (x.key + i)) = true then s
    else
      let s0 := writeBack s (fun w => meet (linesOf w.keys) [x.key / 256])
      let o : W64 := BitVec.ofNat 64 (ofBytes ((List.range 8).map (fun i => cohByte s0 (x.key + i))))
      let s1 := s0.tell (.companionOut (bytesOf 8 o.toNat))
      match atomicNew op o v e with
      | none => s1
      | some y =>
        match unitStore s1 x (pteHome x.leaf) space va true (bytesOf 8 y.toNat) with
        | .ok s2 => s2
        | .error _ => s1

/-- The link fails: what is in flight to host-bias pages aborts, each with a record, and the link is not ready (R350, R351,
R362). -/
def failLink (s : State) : State :=
  let ws := s.writes.filter (fun w => w.host && decide (w.stage < 4))
  let ls := s.loads.filter (fun l => l.host)
  let s1 : State := { s with writes := s.writes.map (fun w => if w.host && decide (w.stage < 4) then w.lost else w) }
  let s2 := ws.foldl (fun s w => abortLink s w.core (w.keys.headD 0) w.va w.seq) s1
  let s3 := ls.foldl (fun s l => arriveEntry (abortLink s l.core (loadKey l) l.va 0) l .faulted 0 l.va) s2
  settle (setDevReg s3 0x4528 0)

/-! Readiness (R361, R396) -/

/-- The readiness registers: 0 DRDY, 1 CRDY, 2 NVRDY, 3 and 4 PRDY, 5 LRDY; and how many functions each names. -/
def readyWidth (reg : Nat) : Nat :=
  match reg with
  | 0 => 7 | 1 => 64 | 2 => 16 | 3 => 64 | 4 => 8 | 5 => 1 | _ => 0

/-- A readiness bit written. -/
def putReady (s : State) (d reg i : Nat) (on : Bool) : State :=
  let put := fun (v : W64) => putFld v i (BitVec.ofNat 1 (b2n on))
  if readyWidth reg ≤ i ∨ (reg = 0 ∧ on = true ∧ hasFunction d i = false) then s
  else if reg < 2 then setDieReg s d (0x4500 + 8 * reg) (put (dieReg s d (0x4500 + 8 * reg) 0))
  else setDevReg s (0x4500 + 8 * reg) (put (devReg s (0x4500 + 8 * reg) 0))

/-- A function that passes its own tests reports ready, unless its die is not authentic or it has been removed (R361, R396,
R397). -/
def makeReady (s : State) (d reg i : Nat) : State :=
  let authentic := decide (2 ≤ reg) || bit s.dev.auth d
  let bound := decide (reg ≠ 1) || bit (lcmapOf s d i) 7
  if authentic && bound && decide (d < 32) && !s.dev.removed.contains (if reg < 2 then d else 0, reg, i) then putReady s d reg i true
  else s

/-! Triggers (R388) -/

/-- TRGACT of a line. -/
def trgAct (s : State) (d l : Nat) : W64 := dieReg s d (0x6200 + 8 * l) 0

/-- The bits of TRCTL (R389). -/
def trctlMask : W64 := 0xFFFFF000FFFFFFFF

/-- A session opens: its counts start at 0 (R389). -/
def openTrace (s : State) (d i : Nat) : State :=
  let t := traceOf s d i
  setTrace s d i { t with ctl := putFld t.ctl 63 (1 : BitVec 1), head := 0, lost := 0 }

/-- The actions of a line that asserts, with the sources that merged (R388, R390). -/
def assertLine (s : State) (d l : Nat) (mask : W32) : State :=
  let a := trgAct s d l
  let named := fun (s : State) (p : TraceSes → Bool) =>
    ((s.die d).trace.filter (fun e => decide ((fld e.2.ctl 56 6).toNat = l) && p e.2)).map (·.1)
  let s1 := if bit a 2 then (named s (fun t => bit t.ctl 62 && !t.open_)).foldl (fun s i => openTrace s d i) s else s
  let s2 := if bit a 0 then traceAll s1 d 2 0 (recordBytes (traceHead s1 d l 0 2) (bytesOf 8 mask.toNat) 32) else s1
  let s3 := if bit a 3 then (named s2 (fun t => t.open_)).foldl (fun s i => endTrace s d i 6) s2 else s2
  let x := s3.die d
  let s4 := if bit a 4 then s3.setDie d { x with mons := x.mons.map (fun (p : Nat × Monitor) =>
      (p.1, { p.2 with cfg := putFld p.2.cfg 63 (0 : BitVec 1) })) } else s3
  let y := s4.die d
  let s5 := if bit a 1 then s4.setDie d { y with msgs := y.msgs ++ [.interrupt 2 (BitVec.ofNat 64 l)] } else s4
  if bit a 10 && decide (d = 0) then s5.tell (.triggerPin (fld a 8 2).toNat) else s5

/-- The line is on its way to every other die (R388). -/
def spreadLine (s : State) (d l : Nat) : State :=
  dieList.foldl (fun s e => if e = d then s
    else let x := s.die e; s.setDie e { x with remote := x.remote ++ [l] }) s

/-! Recovery (R282, R369) -/

/-- A persist record is valid (R282). -/
def recordOk (r : BitVec 512) : Bool :=
  let w := fun i => fld r (64 * i) 64
  decide (fld r 256 192 = 0) && decide (fld r 160 32 = 0) && decide (fld r 109 19 = 0)
    && decide (w 7 = chkWord 0xC3C3C3C3C3C3C3C3 [w 0, w 1, w 2, w 3, w 4, w 5, w 6])

/-- The persist record of a launch's context that a walker or the dispatcher first started on a seat: of its valid records the
one with the highest SEQ (R282, R283, R369). A record with SPAWNED set is another context's. -/
def recordFor (s : State) (launch lcore seat : Nat) : Option (BitVec 512) :=
  let base := keyNv Config.nvMapped
  let slots := ((s.nv.filter (fun m => decide (base ≤ m.1 ∧ m.1 < base + 64 * 16384))).map (fun m => (m.1 - base) / 64)).eraseDups
  let own := (slots.map (fun i => BitVec.ofNat 512 (ofBytes (memRead s.nv (base + 64 * i) 64)))).filter (fun r => recordOk r
    && decide ((fld r 64 32).toNat = launch) && decide ((fld r 96 13).toNat = lcore % 2048 + 2048 * (seat % 2)))
  own.foldl (fun (m : Option (BitVec 512)) r => match m with
    | some x => if (fld x 0 64).toNat < (fld r 0 64).toNat then some r else some x
    | none => some r) none

/-- The GEN of a tile home whose footprint verifies, in the format its cuff names, its scale block where the cuff's SOFF says
(R191, R249, R285). -/
def homeGen (s : State) (space : Nat) (va : W64) : Option Nat :=
  [1, 2, 3, 4, 5, 6, 0x10, 0x11, 0x12, 0x13, 0x14].findSome? (fun f =>
    let get := fun (a : W64) n => dispRead s 0 space a n { r := true, lvl := 2 }
    match get va (tfData f + 1280) with
    | none => none
    | some bs =>
      let glove := bs.drop (tfData f)
      match get (addOff va (readSoff f bs)) (tfScaleBytes f) with
      | none => none
      | some sc => if tileVerifies f (bs.take (tfData f)) glove sc then some (fld (gloveCuff glove) 32 32).toNat else none)

/-- The answer of the durable-recovery service: home, version and verdict, 0 no completed barrier, 1 damaged, 2 newer than the
barrier, 3 at the barrier (R369). -/
def recover (s : State) (launch space : Nat) (p0 p1 : W64) (lcore seat : Nat) : Message :=
  match recordFor s launch lcore seat with
  | none => .recovery 0 0 0
  | some r =>
    let k := (fld r 128 32).toNat
    let a := if k % 2 = 0 then p0 else p1
    let b := if k % 2 = 0 then p1 else p0
    match homeGen s space a, homeGen s space b with
    | none, _ => .recovery 0 k 1
    | some g, some h => if g < h then .recovery b.toNat (k + 1) 2 else .recovery a.toNat k 3
    | some _, none => .recovery a.toNat k 3

/-! Attestation (R397, R398) -/

/-- A number as a 16-bit count. -/
def count16 (n : Nat) : List Byte := bytesOf 2 (min n 65535)

/-- Bytes 0x000 to 0x0FF of an attestation report (R398). -/
def attestBody (s : State) (nonce : BitVec 256) : List Byte :=
  let tags := bytesOf 2 s.dev.owner ++ (s.dev.keys.map (·.1)).flatMap (fun k => bytesOf 2 (k % 65536))
  let lib := vendorWords.flatMap (fun w => bytesOf 8 w.toNat)
  let served := (List.range 2048).filter (fun c => bit (lcmapOf s (c / 64) (c % 64)) 7)
  let ps := (List.range 32).flatMap (fun d => (List.range 68).map (fun p => pcstat s d p))
  bytesOf 8 1 ++ bytesOf 8 Config.deviceNumber.toNat ++ bytesOf 32 nonce.toNat
    ++ bytesOf 64 (shake256 Config.firmwareImage).toNat ++ bytesOf 64 (shake256 lib).toNat
    ++ bytesOf 64 (shake256 tags).toNat ++ bytesOf 8 Config.securityVersion.toNat
    ++ count16 served.length ++ count16 (ps.filter (fun v => decide (pcState v = 1))).length
    ++ count16 (ps.filter (fun v => decide (pcBin v = 1))).length ++ count16 (ps.filter (fun v => decide (pcBin v = 2))).length

/-- The context string of attestation. -/
def attestName : List Byte := [0x48, 0x45, 0x42, 0x45, 0x4E, 0x20, 0x41, 0x54, 0x54, 0x45, 0x53, 0x54]

/-- The whole report (R398). -/
def attestReport (s : State) (nonce : BitVec 256) : List Byte :=
  let b := attestBody s nonce
  b ++ bytesOf 114 (Config.ed448Sign attestName b).toNat ++ List.replicate 14 0

/-! Power (R284, R361, R399) -/

/-- The module after a loss of power: of everything it held only the persist domain is kept (R284). -/
def afterLoss (s : State) : State :=
  { State.reset with
    mem := s.nv
    nv := s.nv
    poison := s.poison.filter (fun g => isNvKey (64 * g))
    out := s.out
    agenda := s.agenda
    turn := s.turn
    dev := { powered := true, removed := s.dev.removed, owner := s.dev.owner } }

end Sys2Proof.Machine
end

