-- ==== Sys2Proof/Machine/UnitEvents.lean ====
section
/-! DEFINITION. The events of the dies' units and of the module: translation upkeep, errors, readiness, power, recovery, the scan,
rebinding, monitors, triggers, traces and the companion processor (R349 to R399). An event that is not enabled changes nothing
(log entry 4). -/
namespace Sys2Proof.Machine

/-- At an idle point marked lines take free spares, and the map takes effect over 64 cycles; a line without a spare exhausts the core (R214, R375 to R377). -/
def execRetireMapChange (core : Nat) (s : State) : Host.Outcome State Fault Refusal :=
    let d := dieOf core
  let p := physOf s core
  let x := relOf s core
  let r := retireAll x
  let v := pcstat s d p
  if !(s.core core).idlePoint || decide ((s.core core).busyMap ≠ 0) || decide (2048 ≤ core) then .next s
  else if r.1.retire = x.mapped ∧ r.2 = false then .next s
  else
    let s1 := setRel s core { r.1 with mapped := r.1.retire }
    let y := s1.core core
    let s2 := if r.1.retire = x.mapped then s1 else s1.setCore core { y with busyMap := 64 }
    if r.2 then
      let s3 := if pcState v = 0 then setPcstat s2 d p (saferWord v) else s2
      let z := s3.core core
      let pre := [0, 1].find? (fun b => let c := s3.ctx (s3.bankOf core b); c.run.live && c.run.pre && !c.run.halted)
      .next (s3.setCore core { z with want := match z.want with | some b => some b | none => pre })
    else .next s2

/-- A firmware write of RETIRE; one that names a spare or a line twice is ignored (R376). -/
def execRetireWrite (die pcore : Nat) (value : W64) (s : State) : Host.Outcome State Fault Refusal :=
    if retireOk value then
    let x := physAt s die pcore
    .next (setPhysAt s die pcore { x with retire := value &&& retireMask })
  else .next s

/-- SDCTL KIND 1: the cached translations of a page range of a space go on every die (R349). -/
def execShootdownPages (die space va count : Nat) (s : State) : Host.Outcome State Fault Refusal :=
    let s1 := if (s.die die).shoot.busy then s else setDieReg s die 0x4408 (BitVec.ofNat 64 va)
  .next (shoot s1 die 1 [space] va (va + 4096 * count)
    (putFld (putFld (dieReg s die 0x4400 0) 54 (BitVec.ofNat 6 space)) 32 (BitVec.ofNat 22 count)))

/-- SDCTL KIND 2: every cached translation of a space goes (R349). -/
def execShootdownSpace (die space : Nat) (s : State) : Host.Outcome State Fault Refusal :=
    .next (shoot s die 2 [space] 0 (2 ^ 57) (putFld (dieReg s die 0x4400 0) 54 (BitVec.ofNat 6 space)))

/-- SDCTL KIND 3: every cached translation goes (R349). -/
def execShootdownAll (die : Nat) (s : State) : Host.Outcome State Fault Refusal :=
    .next (shoot s die 3 (List.range 64) 0 (2 ^ 57) (dieReg s die 0x4400 0))

/-- BUSY clears once every access that a dropped entry translated is performed at device scope (R349). -/
def execShootdownComplete (die : Nat) (s : State) : Host.Outcome State Fault Refusal :=
    let x := s.die die
  if x.shoot.busy && shootDone s die then
    .next (setDieReg (s.setDie die { x with shoot := {} }) die 0x4400 (putFld (dieReg s die 0x4400 0) 63 (0 : BitVec 1)))
  else .next s

/-- A write of BFCTL blocks a page and starts its flip, or is refused with ERR (R353). -/
def execBiasFlip (die : Nat) (value : W64) (s : State) : Host.Outcome State Fault Refusal :=
    let x := s.die die
  let v := dieReg s die 0x4410 0
  match (if x.flip.isSome then none else flipFor s die value) with
  | none => .next (setDieReg s die 0x4410 (putFld v 62 (1 : BitVec 1)))
  | some f =>
    .next (setDieReg (s.setDie die { x with flip := some f }) die 0x4410
      (putFld (putFld v 55 (fld value 55 7)) 63 (1 : BitVec 1)))

/-- The page's dirty stash lines go home; once what was performed is performed everywhere, the leaf takes its bias and the page is unblocked (R353). -/
def execBiasFlipComplete (die : Nat) (s : State) : Host.Outcome State Fault Refusal :=
    match (s.die die).flip with
  | none => .next s
  | some f =>
    let ids := accessesIn s f.space f.va.toNat (f.va.toNat + 2 ^ f.bits)
    if s.writes.any (fun w => w.stash.isSome && ids.contains w.id) then
      .next (settle (writeBack s (fun w => ids.contains w.id)))
    else if flipQuiet s f then .next (flipPage s die f)
    else .next s

/-- A granule's error cannot be corrected: it is withheld, logged and counted; later reads abort (R350, R396). The abort of an
access to a function that is not ready is logged and counted (R362). -/
def execUncorrectableData (die source key : Nat) (vaddr : W64) (seq : W32) (lcore : Nat) (s : State) : Host.Outcome State Fault Refusal :=
  let a : Abort := { die := die, source := source, key := key, va := vaddr, seq := seq, lcore := lcore }
  .next (if s.dev.found.contains a then logRecord { s with dev := { s.dev with found := s.dev.found.erase a } } die source key vaddr seq lcore
    else if 1 ≤ source ∧ source ≤ 8 then logError s die source key vaddr seq lcore else s)

/-- A corrected error is counted; passing the threshold asserts trigger source 28 (R350, R396). -/
def execCorrectedError (die source : Nat) (s : State) : Host.Outcome State Fault Refusal :=
    .next (if 1 ≤ source ∧ source ≤ 8 then countError s die source false else s)

/-- REMOVE clears the ready bit of an HBM stack, NV stack, bridge or port until the module is serviced (R396). -/
def execFunctionRemove (die : Nat) (value : W64) (s : State) : Host.Outcome State Fault Refusal :=
    let i := (fld value 0 8).toNat
  let reg := (fld value 8 3).toNat
  if (reg = 0 ∧ 1 ≤ i ∧ i ≤ 6) ∨ (2 ≤ reg ∧ reg ≤ 4 ∧ i < readyWidth reg) then
    let s1 := putReady s die reg i false
    .next { s1 with dev := { s1.dev with removed := (if reg = 0 then die else 0, reg, i) :: s1.dev.removed } }
  else .next s

/-- The Alvel link fails: accesses in flight to host-bias pages abort, and it is not ready (R351, R362). -/
def execAlvelLinkFailure (s : State) : Host.Outcome State Fault Refusal :=
    .next (failLink s)

/-- Each die's management core authenticates the firmware image; after a loss of power only the persist domain is kept (R284, R361). -/
def execPowerOn (authentic : W32) (s : State) : Host.Outcome State Fault Refusal :=
    if s.dev.powered then .next (if s.dev.auth = 0 then { s with dev := { s.dev with auth := authentic } } else s)
  else
    let s1 := afterLoss s
    .next { s1 with dev := { s1.dev with auth := authentic } }

/-- A function's own tests pass and its readiness bit is set, unless its die is not authentic or it has been removed (R361, R397). -/
def execFunctionReady (die reg bit : Nat) (s : State) : Host.Outcome State Fault Refusal :=
    .next (makeReady s die reg bit)

/-- The input falls below 40 V: every die stops issue and the persist domain accepts no more writes (R399). -/
def execInputUndervoltage (s : State) : Host.Outcome State Fault Refusal :=
    .next { s with dev := { s.dev with powered := false } }

/-- The management core withholds issue from whole cores for whole cycles (R399). -/
def execThermalThrottle (die : Nat) (cores : W64) (s : State) : Host.Outcome State Fault Refusal :=
    let x := s.die die
  .next (s.setDie die { x with throttled := cores })

/-- At 115 °C the module stops as on power loss (R399). -/
def execThermalShutdown (s : State) : Host.Outcome State Fault Refusal :=
    .next { s with dev := { s.dev with powered := false } }

/-- The firmware service answers which tile home holds the recoverable version (R369). -/
def execDurableRecovery (launch space : Nat) (p0 p1 : W64) (lcore seat : Nat) (s : State) : Host.Outcome State Fault Refusal :=
    .next (s.tell (recover s launch space p0 p1 lcore seat))

/-- Firmware returns a signed report for a nonce (R398). -/
def execAttestation (nonce : BitVec 256) (s : State) : Host.Outcome State Fault Refusal :=
    .next (s.tell (.attest (attestReport s nonce)))

/-- SCANCTL START: the core under test starts to drain, or the command is refused with ERR (R383). -/
def execScanStart (die : Nat) (value : W64) (s : State) : Host.Outcome State Fault Refusal :=
    .next (if startRefused s die value then scanErr s die else startScan s die value)

/-- SCANCTL ABORT ends a scan and restores the core (R384). -/
def execScanAbort (die : Nat) (s : State) : Host.Outcome State Fault Refusal :=
    .next (if scanSt s die = 1 ∨ scanSt s die = 2 then abortScan s die else s)

/-- The core is drained: the shares of its saved contexts go into their images and the patterns run (R383). -/
def execScanRun (die : Nat) (s : State) : Host.Outcome State Fault Refusal :=
    match (s.die die).scan with
  | none => .next s
  | some x =>
    if scanDrained s die x then
      let s1 := match x.lcore with | some c => saveResidents s (64 * die + c) | none => s
      let y := s1.die die
      .next (setScanSt (s1.setDie die { y with scan := some { x with runs := true } }) die 2)
    else .next s

/-- Every signature has been compared: lines are marked, the verdict stands, the core is restored (R383, R384). -/
def execScanVerdict (die : Nat) (fails rows cols : List Nat) (s : State) : Host.Outcome State Fault Refusal :=
    match (s.die die).scan with
  | some x => .next (if x.runs then verdict s die x fails rows cols else s)
  | none => .next s

/-- A launch of PRIO at or above APRIO with work for the logical number aborts the scan (R384). -/
def execScanPriorityAbort (die : Nat) (s : State) : Host.Outcome State Fault Refusal :=
    match (s.die die).scan with
  | some x => .next (if scanPressed s die x then abortScan s die else s)
  | none => .next s

/-- A logical number whose core has left service, or that a write of LCMAP names, takes a spare once neither core holds a context (R379). -/
def execLogicalCoreRebind (die lcore : Nat) (s : State) : Host.Outcome State Fault Refusal :=
    let core := 64 * die + lcore
  let x := s.die die
  let old := physOf s core
  let st := pcState (pcstat s die old)
  if !rebindDue s die lcore then .next s
  else
    match fget? x.rebind lcore with
    | some p =>
      let s1 := s.setDie die { x with rebind := x.rebind.filter (fun (e : Nat × Nat) => decide (e.1 ≠ lcore)) }
      if pcState (pcstat s die p) ≠ 1 then .next s1
      else
        let v := pcstat s1 die old
        let s2 := if bit (lcmapOf s die lcore) 7 ∧ st = 0 then setPcstat s1 die old (pcWord 1 (pcBin v) (pcPasses v)) else s1
        .next (bindCore s2 die lcore p)
    | none =>
      match bestSpare s die with
      | some p => .next (bindCore s die lcore p)
      | none =>
        .next (putReady (setDieReg s die (0x4600 + 8 * lcore) (putFld (lcmapOf s die lcore) 7 (0 : BitVec 1))) die 1 lcore false)

/-- A firmware write of LCMAP that names a spare asks for the exchange; any other is ignored (R379). -/
def execLcmapWrite (die lcore : Nat) (value : W64) (s : State) : Host.Outcome State Fault Refusal :=
    let p := (fld value 0 7).toNat
  let x := s.die die
  .next (if p < 68 ∧ lcore < 64 ∧ pcState (pcstat s die p) = 1 then s.setDie die { x with rebind := fset x.rebind lcore p } else s)

/-- Writing CLR resets a unit's statistics; they are first written to the sessions that record monitors (R385, R390; log entry 28). -/
def execMonitorClear (die unit : Nat) (s : State) : Host.Outcome State Fault Refusal :=
    let x := s.die die
  let m := fget {} x.mons unit
  let bins := (List.range 32).flatMap (fun b => bytesOf 4 (fget 0 m.bins b).toNat)
  let pay := bytesOf 8 m.count.toNat ++ bytesOf 8 m.sum.toNat ++ bytesOf 8 m.min.toNat ++ bytesOf 8 m.max.toNat ++ bins
  let s1 := traceAll s die 4 0 (recordBytes (traceHead s die unit 0 4) pay 192)
  let y := s1.die die
  .next (s1.setDie die { y with mons := fset y.mons unit { cfg := m.cfg, flt := m.flt, spans := m.spans } })

/-- A unit on a level source takes its sample of every 64 die cycles, one for each such span that is over (R385, R386). -/
def execMonitorLevelSample (die unit : Nat) (s : State) : Host.Outcome State Fault Refusal :=
    let m := fget {} (s.die die).mons unit
  let src := (fld m.cfg 50 6).toNat
  let seats := s.ctxs.filter (fun p => p.2.run.live && !p.2.run.saved && decide (dieOf p.2.run.lcore = die)
    && monPasses m { core := p.2.run.lcore, seat := p.2.run.bank, launch := p.2.run.launch })
  let reserved := (seats.map (fun p => (p.2.q.lq.map (fun q => (q.2.filter (fun e => decide (e.st = .reserved))).length)).sum)).sum
  let queued := (s.dev.queues.map (fun q => q.2.length)).sum
  let awaited := (s.ctxs.map (fun p => (p.2.cmds.map (fun x =>
    if dieOf x.core = die then (x.chunks.filter (fun c => decide (c.2 = .sent))).length else 0)).sum)).sum
  let v := if src = 10 then reserved else if src = 11 then queued else awaited
  if levelDue s die unit then
    let x := s.die die
    let s1 := s.setDie die { x with mons := fset x.mons unit { takeSample m (BitVec.ofNat 64 v) with spans := m.spans + 1 } }
    let thr := (fld m.cfg 43 5).toNat
    .next (if thr ≠ 0 ∧ thr ≤ monBin (BitVec.ofNat 64 v) then raiseSource s1 die unit else s1)
  else .next s

/-- A line asserts after its selected source events, which merge, and goes out to the other dies when it is device-wide (R388). -/
def execTriggerAssert (die line : Nat) (s : State) : Host.Outcome State Fault Refusal :=
    let x := s.die die
  let mask := fget 0 x.lines line
  if mask = 0 then .next s
  else
    let s1 := s.setDie die { x with lines := x.lines.filter (fun (p : Nat × W32) => decide (p.1 ≠ line)) }
    let s2 := if bit (dieReg s die (0x6000 + 8 * line) 0) 63 then spreadLine s1 die line else s1
    .next (assertLine s2 die line mask)

/-- A device-wide line that another die asserted asserts here (R388). -/
def execDeviceTriggerPropagation (die line : Nat) (s : State) : Host.Outcome State Fault Refusal :=
    let x := s.die die
  if x.remote.contains line then .next (assertLine (s.setDie die { x with remote := eraseFirst line x.remote }) die line 0)
  else .next s

/-- A firmware write of TRGFW is a source event (R388). -/
def execTrgfwWrite (die : Nat) (s : State) : Host.Outcome State Fault Refusal :=
    .next (raiseSource s die 23)

/-- An external edge on a trigger pin is a source event of die 0 (R388). -/
def execTriggerPinInput (pin : Nat) (s : State) : Host.Outcome State Fault Refusal :=
    .next (if pin < 4 then raiseSource s 0 (24 + pin) else s)

/-- A write of TRCTL with ON = 1 opens a session (R389); one that is open keeps its counts. -/
def execTraceOpen (die session : Nat) (value : W64) (s : State) : Host.Outcome State Fault Refusal :=
    let t := traceOf s die session
  let t1 := { t with ctl := putFld (value &&& trctlMask) 63 (1 : BitVec 1) }
  .next (setTrace s die session (if t.open_ then t1 else { t1 with head := 0, lost := 0 }))

/-- A write of TRCTL with ON = 0 ends a session with REASON 1 (R389). -/
def execTraceEnd (die session : Nat) (s : State) : Host.Outcome State Fault Refusal :=
    .next (endTrace s die session 1)

/-- The companion processor's access to a device-bias page is performed at the home die store; its releases and acquires order its own accesses (R278, R351). -/
def execCompanionAccess (op : CompanionOp) (s : State) : Host.Outcome State Fault Refusal :=
    if companionWaits s || !linkReady s then .next s
  else
    match op with
    | .read space va n =>
      match companionRead s space va n with
      | some bs => .next (s.tell (.companionOut bs))
      | none => .next s
    | .write space va data => .next (companionNote (companionWrite s space va data) s.nextId)
    | .atomic space va op operand expected =>
      .next (companionNote (companionAtomic s space va op.toNat operand expected) s.nextId)
    | .release => .next { s with dev := { s.dev with compWait := s.dev.compWrites } }
    | .acquire => .next s

/-- The link sends a granule again; nothing of it is visible (R351). -/
def execLinkCrcRetry (_granule : Nat) (s : State) : Host.Outcome State Fault Refusal :=
    .next s

end Sys2Proof.Machine
end

