-- ==== Sys2Proof/Machine/CtlWrite.lean ====
section
/-! DEFINITION. Writes of a die's control window (R335, R341, R349, R353, R357, R373 to R396, R402): every register by its offset.
Offsets that name no register, and fields that only hardware writes, ignore them. -/
namespace Sys2Proof.Machine

/-- The state that an event leaves, for an event that always has one. -/
def after (o : Host.Outcome State Fault Refusal) (s : State) : State :=
  match o with
  | .next s' => s'
  | _ => s

/-- A write of SCTL: ATT and STEPH are taken, ERR clears where 1 is written, then the command acts; commands 0 and 6 to 15 set
ERR (R335). -/
def writeSctl (s : State) (core bank : Nat) (v : W64) : State :=
  let k := s.bankOf core bank
  let c := s.ctx k
  let s1 := s.setCtx k { c with dbg := { c.dbg with att := bit v 23, steph := bit v 22, err := c.dbg.err && !bit v 21 } }
  match (fld v 28 4).toNat with
  | 1 => after (execStop core bank s1) s1
  | 2 => after (execStep core bank s1) s1
  | 3 => after (execRun core bank s1) s1
  | 4 => after (execHalt core bank s1) s1
  | 5 => after (execRelease core bank s1) s1
  | _ => refuse s1 k

/-- A write of SDCTL: ignored with ERR while BUSY or with a KIND that is not 1 to 3; else KIND, AS and SDCNT stand as written
(R349). -/
def writeSdctl (s : State) (d : Nat) (v : W64) : State :=
  let old := dieReg s d 0x4400 0
  let kept := if bit v 62 then putFld old 62 (0 : BitVec 1) else old
  let taken := !(s.die d).shoot.busy && decide (fld v 60 2 ≠ 0)
  let s1 := setDieReg s d 0x4400 (if taken then putFld kept 32 (fld v 32 28) else kept)
  let space := (fld v 54 6).toNat
  match (fld v 60 2).toNat with
  | 1 => after (execShootdownPages d space (dieReg s d 0x4408 0).toNat (fld v 32 22).toNat s1) s1
  | 2 => after (execShootdownSpace d space s1) s1
  | 3 => after (execShootdownAll d s1) s1
  | _ => setDieReg s1 d 0x4400 (putFld kept 62 (1 : BitVec 1))

/-- A write of SCANCTL: ERR clears where 1 is written, then the command acts (R382 to R384). -/
def writeScanctl (s : State) (d : Nat) (v : W64) : State :=
  let s1 := if bit v 55 then setDieReg s d 0x4A40 (putFld (scanReg s d) 55 (0 : BitVec 1)) else s
  match (fld v 60 4).toNat with
  | 0 => s1
  | 1 => after (execScanStart d v s1) s1
  | 2 => let s2 := scanTake s1 d v; after (execScanAbort d s2) s2
  | _ => scanErr s1 d

/-- A firmware write of PCSTAT (R378): ignored for a core in service or scanning, with STATE 0, or with a refused value; it clears
PASSES. -/
def writePcstat (s : State) (d p : Nat) (v : W64) : State :=
  let old := pcState (pcstat s d p)
  let st := pcState v
  if 68 ≤ p ∨ old = 0 ∨ old = 4 ∨ st = 0 ∨ 5 ≤ st ∨ pcBin v = 3 then s else setPcstat s d p (pcWord st (pcBin v) 0)

/-- A write of a monitor unit's register (R385): EN stays 0 with a source that never samples. -/
def writeMonitor (s : State) (d u o : Nat) (v : W64) : State :=
  let s1 := if o = 0 ∧ bit v 62 = true then after (execMonitorClear d u s) s else s
  let x := s1.die d
  let m := fget {} x.mons u
  let src := (fld v 50 6).toNat
  let cfg := v &&& 0x80FFF80000000000
  let on := decide (1 ≤ src) && decide (src ≤ 12)
  if o = 0 then s1.setDie d { x with mons := fset x.mons u { m with
      cfg := if on then cfg else putFld cfg 63 (0 : BitVec 1)
      spans := if monLevel m.cfg then m.spans else BitVec.ofNat 64 (spansOver s d) } }
  else if o = 8 then s1.setDie d { x with mons := fset x.mons u { m with flt := v &&& 0xFFFFFFFF0000007F } }
  else s1

/-- A write of a trace session's register (R389). -/
def writeTrace (s : State) (d i o : Nat) (v : W64) : State :=
  let t := traceOf s d i
  if o = 0 then
    (if bit v 63 then after (execTraceOpen d i v s) s
     else
       let s1 := after (execTraceEnd d i s) s
       setTrace s1 d i { traceOf s1 d i with ctl := v &&& trctlMask })
  else if o = 8 then setTrace s d i { t with base := BitVec.ofNat 64 (v.toNat % 2 ^ 57 / 4096 * 4096) }
  else if o = 16 then setTrace s d i { t with size := BitVec.ofNat 64 (v.toNat / 4096 * 4096) }
  else s

/-- A write into a reliability block (R373 to R376, R387): a column's COUNT is taken, 0 clears a lost-cycle counter; the other
fields are hardware's. -/
def writeRel (s : State) (d p o width : Nat) (v : W64) : State :=
  let x := physAt s d p
  let byteAt := fun (i : Nat) => v.toNat / 2 ^ (8 * i) % 256
  if o = 0x408 then after (execRetireWrite d p v s) s
  else if 0x440 ≤ o ∧ o < 0x4C8 then
    setPhysAt s d p ((List.range width).foldl (fun (x : Phys) i =>
      let j := o - 0x440 + i
      if j < 132 then setLineByte x false j (BitVec.ofNat 8 ((lineByte x false j).toNat / 4 * 4 + byteAt i % 4)) else x) x)
  else if 0x600 ≤ o ∧ o < 0x800 then
    clearLost s d p (((List.range (width / 2)).filter (fun i => decide (v.toNat / 2 ^ (16 * i) % 2 ^ 16 = 0))).map (fun i => (o - 0x600) / 2 + i))
  else s

/-- A write of the queue bindings QASq, byte by byte (R341). -/
def writeQas (s : State) (q width : Nat) (v : W64) : State :=
  (List.range width).foldl (fun s i =>
    let n := q + i
    let off := 0x4300 + n / 8 * 8
    if n < 64 then setDevReg s off (putFld (devReg s off 0) (8 * (n % 8)) (BitVec.ofNat 8 (v.toNat / 2 ^ (8 * i) % 64))) else s) s

/-- The bits of a register that only holds its value (R335, R341, R388, R396); `none` for a value that it does not take. -/
def plainReg (off : Nat) (v : W64) : Option W64 :=
  let va := fun (n : Nat) => BitVec.ofNat 64 (v.toNat % 2 ^ 57 / n * n)
  if off = 0x4000 then some (va 1024)
  else if off = 0x4008 then some (va (2 ^ 23))
  else if off = 0x4010 then (if v.toNat ≤ 4096 then some v else none)
  else if off = 0x4018 then (if 1 ≤ v.toNat ∧ v.toNat < 2 ^ 32 then some v else none)
  else if off = 0x4408 then some (va 4096)
  else if off = 0x4418 then some (va 1)
  else if 0x6000 ≤ off ∧ off < 0x6200 then some (v &&& 0x80000000FFFFFFFF)
  else if 0x6200 ≤ off ∧ off < 0x6400 then some (v &&& 0x71F)
  else if off = 0x6948 then some (v &&& 0xFFFFFFFF)
  else if off = 0x6960 then some v
  else none

/-- A write of a device register, applied to every die's copy (R341, R357). -/
def writeDevice (s : State) (off width : Nat) (v : W64) : State :=
  if 0x4100 ≤ off ∧ off < 0x4300 then setDevReg s off (v &&& 0x0F8FFFFFFFFFF001)
  else if 0x4300 ≤ off ∧ off < 0x4340 then writeQas s (off - 0x4300) width v
  else if off = 0x4430 ∧ 6000 ≤ v.toNat ∧ v.toNat ≤ 6000000 then setDevReg s off v
  else s

/-- A write of a die register that is not one of a bank, of the device or of a core (R349, R353, R378 to R396). -/
def writeDie (s : State) (d off : Nat) (v : W64) : State :=
  if off = 0x4400 then writeSdctl s d v
  else if off = 0x4410 then
    (let s1 := if bit v 62 then setDieReg s d off (putFld (dieReg s d off 0) 62 (0 : BitVec 1)) else s
     after (execBiasFlip d v s1) s1)
  else if 0x4600 ≤ off ∧ off < 0x4800 then after (execLcmapWrite d ((off - 0x4600) / 8) v s) s
  else if 0x4800 ≤ off ∧ off < 0x4A20 then writePcstat s d ((off - 0x4800) / 8) v
  else if off = 0x4A40 then writeScanctl s d v
  else if 0x5000 ≤ off ∧ off < 0x6000 then writeMonitor s d ((off - 0x5000) / 0x100) (off % 0x100) v
  else if off = 0x6400 then let s1 := setDieReg s d off v; after (execTrgfwWrite d s1) s1
  else if 0x6800 ≤ off ∧ off < 0x6900 then writeTrace s d ((off - 0x6800) / 0x20) (off % 0x20) v
  else if 0x6908 ≤ off ∧ off < 0x6948 then (if v = 0 then setDieReg s d off 0 else s)
  else if off = 0x6950 then let s1 := setDieReg s d off (v &&& 0x7FF); after (execFunctionRemove d v s1) s1
  else
    match plainReg off v with
    | some w => setDieReg s d off w
    | none => s

/-- A write of `width` bytes of a die's control window takes effect in each register that it covers (R335, R402). -/
def execControlRegisterWrite (die off width : Nat) (value : W64) (s : State) : Host.Outcome State Fault Refusal :=
    let v : W64 := BitVec.ofNat 64 (value.toNat % 2 ^ (8 * width))
  if off < 0x3000 then .next (if off % 0x40 = 0 then writeSctl s (64 * die + off / 0x40 / 3) (off / 0x40 % 3) v else s)
  else if (0x4100 ≤ off ∧ off < 0x4340) ∨ off = 0x4430 then .next (writeDevice s off width v)
  else if 0x8000 ≤ off ∧ off < 0x8000 + 68 * 0x1000 then
    .next (writeRel s die ((off - 0x8000) / 0x1000) ((off - 0x8000) % 0x1000) width v)
  else .next (writeDie s die off v)

end Sys2Proof.Machine
end

