-- ==== Sys2Proof/Machine/Coll.lean ====
section
/-! DEFINITION. The collective engine (R101, R202, R203, R316): the descriptor, the members' contributions, and the results. -/
namespace Sys2Proof.Machine

/-- A collective descriptor (R202). -/
structure CollDesc where
  src    : W64
  dst    : W64
  group  : Nat
  rank   : Nat
  count  : Nat
  fmt    : Nat
  gloved : Bool
  k      : Nat
  deriving DecidableEq, Repr

/-- The fields of a descriptor. -/
def descOf (d : BitVec 512) : CollDesc :=
  { src := fld d 0 64, dst := fld d 64 64, group := (fld d 128 32).toNat, rank := (fld d 160 32).toNat,
    count := (fld d 192 32).toNat, fmt := (fld d 224 4).toNat, gloved := bit d 228, k := (fld d 232 16).toNat }

/-- The tile format of gloved elements of a V format (R248; log entry 30). -/
def collTile (fmt : Nat) : Option Nat :=
  match fmt with
  | 0 => some 5 | 1 => some 6 | 4 => some 4 | 6 => some 3 | 7 => some 2 | 8 => some 1
  | 9 => some 0x10 | 10 => some 0x11 | 11 => some 0x12 | 12 => some 0x14
  | _ => none

/-- Bytes of `n` elements of a V format. -/
def fmtBytes (fmt n : Nat) : Nat := fmtW fmt * n / 8

/-- The descriptor obeys the table (R202). -/
def descOk (op : Nat) (w : BitVec 512) : Bool :=
  let d := descOf w
  let reduce := decide (op ≤ 3)
  let align := if d.gloved then 256 else max 1 (fmtW d.fmt / 8)
  decide (fld w 229 3 = (0 : BitVec 3)) && decide (fld w 248 264 = (0 : BitVec 264))
    && (if op = 3 then decide (1 ≤ d.k ∧ d.k ≤ 4096) else decide (d.k = 0))
    && (if reduce then [4, 5, 6, 7, 8].contains d.fmt else decide (d.fmt ≤ 14))
    && decide (1 ≤ d.count ∧ d.count ≤ 2 ^ 28)
    && (!d.gloved || (decide (d.count % 16384 = 0) && (collTile d.fmt).isSome))
    && decide (d.src.toNat % align = 0) && decide (d.dst.toNat % align = 0)
    && (decide (d.fmt ≠ 11) || decide (d.count % 2 = 0))
    && decide (addrForm d.src = .global) && decide (addrForm d.dst = .global)

/-- The declaration that stands for gloved elements. -/
def collDecl (d : CollDesc) : TileDecl := { fmt := (collTile d.fmt).getD 1, gloved := d.gloved, depth := 1, base := 0 }

/-- Elements that a member's source holds: rank 0 of a scatter holds every part, its others none (R203). -/
def srcCount (op size : Nat) (d : CollDesc) : Nat :=
  if op = 5 then (if d.rank = 0 then size * d.count else 0) else d.count

/-- Bytes of a contribution of `n` elements. -/
def partBytes (d : CollDesc) (n : Nat) : Nat := if d.gloved then n / 16384 * (collDecl d).foot else fmtBytes d.fmt n

/-- The runs of `n` elements at an address, from an offset of the buffer on: plain, or tile by tile with their gloves (R175,
R249). -/
def collRuns (d : CollDesc) (va : W64) (n off : Nat) (buf : List Byte) : List (W64 × Nat × Nat) :=
  if d.gloved then
    let t := collDecl d
    (List.range (n / 16384)).flatMap (fun i =>
      let o := off + i * t.foot
      (tileRuns (va + BitVec.ofNat 64 (i * t.foot)) t (buf.drop o)).map (fun r => (r.1, r.2.1, r.2.2 + o)))
  else [(va, fmtBytes d.fmt n, off)]

/-- Runs cut at the boundaries of their own addresses and of those they are stepped through with (R175). -/
def cutRuns (other : Option Nat) (rs : List (W64 × Nat × Nat)) : List Piece :=
  rs.flatMap (fun r => cutBoth other (r.2.1 / 2048 + 3) r.1 r.2.1 r.2.2)

/-- Where an address stands in its page when the offset is 0, if it stands at `va` at offset `back`. -/
def standsAt (va : W64) (back : Nat) : Option Nat := some ((va.toNat % 4096 + 4096 - back % 4096) % 4096)

/-- The chunks that a member reads of its source, or writes of its destination: cut at the boundaries of both, where a byte of
one goes with a byte of the other (R175, R203). -/
def collPieces (op size : Nat) (d : CollDesc) (buf : List Byte) (write : Bool) : List Piece :=
  let n := partBytes d d.count
  let each := fun (va : W64) (other : Nat → Option Nat) => (List.range size).flatMap (fun r =>
    cutRuns (other r) (collRuns d (va + BitVec.ofNat 64 (r * n)) d.count (r * n) buf))
  match op, write with
  | 3, true => cutRuns none [(d.dst, 8 * d.k, 0)]
  | 3, false => cutRuns none (collRuns d d.src d.count 0 buf)
  | 4, true => each d.dst (fun r => if r = d.rank then standsAt d.src (r * n) else none)
  | 4, false => cutRuns (standsAt (d.dst + BitVec.ofNat 64 (d.rank * n)) 0) (collRuns d d.src d.count 0 buf)
  | 5, true => cutRuns (if d.rank = 0 then standsAt d.src 0 else none) (collRuns d d.dst d.count 0 buf)
  | 5, false => if d.rank = 0 then each d.src (fun r => if r = 0 then standsAt d.dst 0 else none) else []
  | _, true => cutRuns (standsAt d.src 0) (collRuns d d.dst d.count 0 buf)
  | _, false => cutRuns (standsAt d.dst 0) (collRuns d d.src d.count 0 buf)

/-- The descriptor a command has read: its first 64 bytes. -/
def cmdDesc (x : Cmd) : CollDesc := descOf (BitVec.ofNat 512 (ofBytes (x.buf.take 64)))
/-- What follows the descriptor: the contribution, later the result. -/
def cmdData (x : Cmd) : List Byte := x.buf.drop 64
/-- The operation of a collective. -/
def collOp (x : Cmd) : Nat := match x.op with | .coll _ op => op | _ => 0
/-- A collective that has read its descriptor for a group, and whose round is not yet done. -/
def inGroup (x : Cmd) (g : Nat) : Bool :=
  (match x.op with | .coll _ _ => true | _ => false) && decide (x.phase = 1 ∨ x.phase = 2) && decide (x.status = 0)
    && decide ((cmdDesc x).group = g)

/-- The commands of a group's present round on this device, with their contexts: of each context the first that waits for the
other members, else the first that reads its source (R203, R277). -/
def members (s : State) (g : Nat) : List (Nat × Cmd) :=
  s.ctxs.filterMap (fun p =>
    let mine := p.2.cmds.filter (fun x => inGroup x g)
    match mine.find? (fun x => decide (x.phase = 2)) with
    | some x => some (p.1, x)
    | none => (mine.head?).map (fun x => (p.1, x)))

/-- The members that wait for the others. -/
def waiting (s : State) (g : Nat) : List (Nat × Cmd) := (members s g).filter (fun m => decide (m.2.phase = 2))

/-- A message to the devices of a group's other members (R354; log entry 29). -/
def sendGroup (s : State) (gid : Nat) (g : Group) (rank off : Nat) (data : List Byte) : State :=
  let bs := data ++ List.replicate ((256 - data.length % 256) % 256) 0
  ((g.devs.map (·.2)).eraseDups).foldl (fun s dst => routeFrame s dst
    (headerOf (linkTmo s / 128) (BitVec.ofNat 17 dst) s.dev.owner 0x10 gid (g.round % 256) off (max 1 (bs.length / 256)) 0 rank) bs) s

/-- A group whose round is over: the contributions to it go (R203). -/
def Group.next (g : Group) : Group :=
  { g with round := g.round + 1, got := g.got.filter (fun p => decide (p.1 % 256 ≠ g.round % 256)) }

/-- A round of a group fails (R203; log entry 31): the commands of its members here, of other devices' members by a message where
`told` says so, and those of members still to come. -/
def failRound (s : State) (gid : Nat) (status : Nat) (detail : W64) (told : Bool) : State :=
  match fget? s.dev.groups gid with
  | none => (members s gid).foldl (fun s m => putCmd s m.1 (failCmd m.2 status detail)) s
  | some g =>
    let ms := members s gid
    let here := ms.map (fun m => (cmdDesc m.2).rank)
    let come := (List.range g.size).filter (fun r => !here.contains r && (fget? g.devs r).isNone)
    let s1 := ms.foldl (fun s m => putCmd s m.1 (failCmd m.2 status detail)) s
    let s2 := if told then sendGroup s1 gid g (here.headD 0) partFail (BitVec.ofNat 8 status :: bytesOf 8 detail.toNat) else s1
    let g2 : Group := { g.next with late := come.foldl (fun m r => fset m r (status, detail)) g.late }
    { s2 with dev := { s2.dev with groups := fset s2.dev.groups gid g2 } }

/-- A failure of one member ends the others: a glove or group mismatch as itself, any other as a peer fault (R203; log entry
31). -/
def failGroup (s : State) (g : Nat) (status : Nat) (detail : W64) : State := failRound s g status detail true

/-- A member fails. -/
def failMember (s : State) (k : Nat) (x : Cmd) (status : Nat) (detail : W64) : State :=
  let s1 := putCmd s k (failCmd x status detail)
  if x.phase ≠ 1 ∧ x.phase ≠ 2 then s1
  else
    let g := (cmdDesc x).group
    let r := (cmdDesc x).rank
    let s2 := failGroup s1 g (if status = 1 ∨ status = 7 then status else 9) (if status = 1 ∨ status = 7 then detail else 0)
    match fget? s2.dev.groups g with
    | some y => { s2 with dev := { s2.dev with groups := fset s2.dev.groups g { y with late := fdel y.late r } } }
    | none => s2

/-- The tiles of a contribution verify (R203); the first that does not, by index. -/
def badTile (d : CollDesc) (n : Nat) (data : List Byte) : Option Nat :=
  if d.gloved then
    (List.range (n / 16384)).find? (fun i => !footVerifies (collDecl d) ((data.drop (i * (collDecl d).foot)).take (collDecl d).foot))
  else none

/-- The elements of `n` elements' bytes, by index. -/
def collElem (d : CollDesc) (data : List Byte) (i : Nat) : Nat :=
  if d.gloved then
    tileElem (collDecl d).fmt ((data.drop (i / 16384 * (collDecl d).foot)).take (tfData (collDecl d).fmt)) (i % 16384)
  else if d.fmt = 11 then (data.getD (i / 2) 0).toNat / 16 ^ (i % 2) % 16
  else ofBytes ((data.drop (fmtW d.fmt / 8 * i)).take (fmtW d.fmt / 8))

/-- The fixed reduction tree of R316 over the contributions in rank order: one stage joins neighbours. -/
def treeStage {α : Type} (f : α → α → α) : List α → List α
  | a :: b :: r => f a b :: treeStage f r
  | r => r

/-- The tree, stage by stage. -/
def treeFold {α : Type} (f : α → α → α) : (fuel : Nat) → List α → List α
  | 0, xs => xs
  | fuel + 1, xs => treeFold f fuel (treeStage f xs)

/-- f32 sum of two values, RNE (R79). -/
def addF32 (a b : Nat) : Nat := encF ff32 .rne false (addV (decF ff32 a) (decF ff32 b))

/-- Element-wise sum over the ranks (R203, R316): fixed tree under determinism, else a free rounding order, which with one or
two ranks leaves nothing open. -/
def sumElem (fmt : Nat) (det : Bool) (nonce : Nat) (xs : List Nat) : Nat :=
  match ffOf fmt with
  | none => xs.sum % 2 ^ fmtW fmt
  | some f =>
    let ys := xs.map (fun x => encF ff32 .rne false (decF f x))
    let v := if det ∨ ys.length ≤ 2 then (treeFold addF32 ys.length ys).headD 0
      else (Config.freeTreeSum nonce (ys.map (BitVec.ofNat 32))).toNat
    encF f .rne false (decF ff32 v)

/-- Element-wise maximum or minimum over the ranks (R136, R203). -/
def extElem (fmt : Nat) (max : Bool) (xs : List Nat) : Nat :=
  (treeFold (fun a b => lane2 (BitVec.ofNat 4 fmt)
    (fun x y => if max then (if x < y then y else x) else (if y < x then y else x))
    (if max then maxV else minV) a b) xs.length xs).headD 0

/-- The ranked entries of top-k: the best `k` of the values with their global indices (R101, R203). -/
def topK (fmt k : Nat) (xs : List (Nat × Nat)) : List (Nat × Nat) :=
  (xs.mergeSort (fun a b => decide (rankKey fmt b.1 < rankKey fmt a.1)
    || (decide (rankKey fmt b.1 = rankKey fmt a.1) && decide (a.2 ≤ b.2)))).take k

/-- The bytes of `n` result elements of a format, with gloves where asked (R95, R203, R252). -/
def packResult (d : CollDesc) (seq : W32) (els : List Nat) (scales : List (List Byte)) : List Byte :=
  if d.gloved then
    let t := collDecl d
    (List.range (els.length / 16384)).flatMap (fun i =>
      footOf t seq (packElems t.fmt ((els.drop (16384 * i)).take 16384)) (scales.getD i []))
  else if d.fmt = 11 then packElems 0x12 els
  else els.flatMap (bytesOf (fmtW d.fmt / 8))

/-- The tiles of a contribution, each with its scale block. -/
def tileScales (d : CollDesc) (n : Nat) (data : List Byte) : List (List Byte) :=
  (List.range (n / 16384)).map (fun i =>
    (data.drop (i * (collDecl d).foot + tfData (collDecl d).fmt + 1280)).take (tfScaleBytes (collDecl d).fmt))

/-- What every member's destination receives: of the contributions in rank order, by the operation (R203). For scatter, `rank`
picks the part. -/
def collResult (op : Nat) (d : CollDesc) (seq : W32) (det : Bool) (nonce : Nat) (parts : List (List Byte)) : List Byte :=
  let n := d.count
  let el := fun (p : List Byte) i => collElem d p i
  if op = 0 then packResult d seq ((List.range n).map (fun i => sumElem d.fmt det (nonce + i) (parts.map (fun p => el p i)))) []
  else if op = 1 ∨ op = 2 then packResult d seq ((List.range n).map (fun i => extElem d.fmt (decide (op = 1)) (parts.map (fun p => el p i)))) []
  else if op = 3 then
    let all := (parts.zipIdx).flatMap (fun p => (List.range n).map (fun i => (el p.1 i, p.2 * n + i)))
    let best := topK d.fmt d.k all
    (best ++ List.replicate (d.k - best.length) (0, 2 ^ 32 - 1)).flatMap (fun (e : Nat × Nat) => bytesOf 4 e.1 ++ bytesOf 4 e.2)
  else if op = 4 then
    packResult d seq (parts.flatMap (fun p => (List.range n).map (el p))) (parts.flatMap (tileScales d n))
  else
    let p := parts.headD []
    packResult d seq ((List.range n).map (fun i => el p (d.rank * n + i)))
      (((tileScales d (n * (d.rank + 1)) p)).drop (d.rank * (n / 16384)))

/-- The place in a contribution of the part that a frame carries (R354; log entry 29): plain elements by their index; the
footprint of gloved tile i in parts of 4 KiB, part j at offset 16,384·i + j. -/
def partAt (d : CollDesc) (off : Nat) : Nat :=
  if d.gloved then off / 16384 * (collDecl d).foot + 4096 * (off % 16384) else fmtBytes d.fmt off

/-- The parts of a contribution, each with its OFFSET. -/
def partsOf (d : CollDesc) (data : List Byte) : List (Nat × List Byte) :=
  if d.gloved then
    let t := (collDecl d).foot
    (List.range (data.length / t)).flatMap (fun i => (List.range ((t + 4095) / 4096)).map (fun j =>
      (16384 * i + j, (((data.drop (i * t)).take t).drop (4096 * j)).take 4096)))
  else
    (List.range ((data.length + 4095) / 4096)).map (fun i => (32768 / fmtW d.fmt * i, (data.drop (4096 * i)).take 4096))

/-- A contribution of another device's member, once all of it has come. -/
def RankPart.whole (p : RankPart) (size : Nat) : Option (List Byte) :=
  let d := descOf p.desc
  let n := partBytes d (srcCount p.op size d)
  let t := (collDecl d).foot
  let len := (p.data.map (fun e =>
    let at_ := partAt d e.1
    min e.2.length ((if d.gloved then (at_ / t + 1) * t else n) - at_))).sum
  if p.desc = 0 ∨ len < n then none
  else some ((p.data.foldl (fun b e =>
    let at_ := partAt d e.1
    patch b at_ (e.2.take ((if d.gloved then (at_ / t + 1) * t else n) - at_))) (List.replicate n 0)).take n)

/-- What rank `r` of another device has sent for the present round. -/
def Group.part (g : Group) (r : Nat) : RankPart := fget {} g.got (partKey g.round r)

/-- The contributions of a group in rank order: of members here, and as received from other devices; nothing until all are
there. A scatter needs only rank 0's data. -/
def groupParts (g : Group) (ms : List (Nat × Cmd)) : Option (List (List Byte)) :=
  let one := fun r =>
    match fget? g.devs r with
    | some _ => (g.part r).whole g.size
    | none => (ms.find? (fun m => decide ((cmdDesc m.2).rank = r))).map (fun m => cmdData m.2)
  (List.range g.size).foldr (fun r acc => match one r, acc with
    | some b, some bs => some (b :: bs)
    | _, _ => none) (some [])

/-- Two members ask for the same collective (R203). -/
def sameColl (op1 : Nat) (d : CollDesc) (op2 : Nat) (e : CollDesc) : Bool :=
  decide (op1 = op2) && decide (d.fmt = e.fmt) && decide (d.count = e.count) && decide (d.k = e.k) && decide (d.gloved = e.gloved)

/-- The members do not fit the group (R203): fields differ, here or in what another device's member has sent, a rank is beyond
the group, another device's, or taken twice. -/
def mismatched (g : Group) (ms : List (Nat × Cmd)) : Bool :=
  let fits := fun (op : Nat) (d : CollDesc) => ms.all (fun m => sameColl op d (collOp m.2) (cmdDesc m.2))
  ms.any (fun m => !fits (collOp m.2) (cmdDesc m.2)
    || decide (g.size ≤ (cmdDesc m.2).rank) || (fget? g.devs (cmdDesc m.2).rank).isSome)
  || decide (((ms.map (fun m => (cmdDesc m.2).rank)).eraseDups).length ≠ ms.length)
  || g.devs.any (fun p => let q := g.part p.1
      decide (q.desc ≠ 0) && (!fits q.op (descOf q.desc) || decide ((descOf q.desc).rank ≠ p.1)))

/-- When every member is there, each receives its result to write; members that do not agree all fail, and so do all where one
has (R203). -/
def combineGroup (s : State) (gid : Nat) : State :=
  match fget? s.dev.groups gid with
  | none => failGroup s gid 7 (BitVec.ofNat 64 gid)
  | some g =>
    let ms := waiting s gid
    match g.devs.findSome? (fun p => (g.part p.1).fail) with
    | some (st, a) => failRound s gid st a false
    | none =>
      if mismatched g ms then failGroup s gid 7 (BitVec.ofNat 64 gid)
      else
        match ms.head?, groupParts g ms with
        | some m0, some parts =>
          let op := collOp m0.2
          let det := ms.all (fun m => (s.ctx m.1).run.det)
          let nonce := s.nextId
          let s1 := { s with
            nextId := s.nextId + (cmdDesc m0.2).count
            dev := { s.dev with groups := fset s.dev.groups gid g.next } }
          ms.foldl (fun s m =>
            let buf := m.2.buf.take 64 ++ collResult op (cmdDesc m.2) m.2.seq det nonce parts
            putCmd s m.1 { m.2 with
              phase := 3, done := 0, buf := buf, total := (collPieces op g.size (cmdDesc m.2) (buf.drop 64) true).length }) s1
        | _, _ => s

/-- A member's descriptor, operation and contribution sent to the devices of the other ranks (R354; log entry 29). -/
def sendParts (s : State) (x : Cmd) (g : Group) : State :=
  let d := cmdDesc x
  let s1 := sendGroup s d.group g d.rank partHead (x.buf.take 64 ++ [BitVec.ofNat 8 (collOp x)])
  (partsOf d (cmdData x)).foldl (fun s p => sendGroup s d.group g d.rank p.1 p.2) s1

/-- A collective waits for members on other devices (R203, R357). -/
def collWaits (s : State) (x : Cmd) : Bool :=
  match fget? s.dev.groups (cmdDesc x).group with
  | some g => !g.devs.isEmpty
  | none => false

/-- The source of a collective is read whole; gloves are verified, twice at most; without a working port towards another member's
device the command ends with a peer fault (R191, R203, R358). -/
def collRead (s : State) (k : Nat) (x : Cmd) (g : Group) : State :=
  let d := cmdDesc x
  let n := srcCount (collOp x) g.size d
  match badTile d n (cmdData x) with
  | none =>
    let y := { x with phase := 2, sentAt := fset x.sentAt 0 (nowAt s x.core) }
    if g.devs.any (fun p => (portFor s p.2).isNone) then failMember s k x 9 0
    else combineGroup (sendParts (putCmd s k y) y g) d.group
  | some i =>
    if x.tries = 0 then putCmd s k { x with tries := 1, done := 0, buf := x.buf.take 64 }
    else failMember s k x 1 (d.src + BitVec.ofNat 64 (i * (collDecl d).foot))

/-- The pages of a destination that the descriptor names hold one with the durable attribute (R187, R202, R281). -/
def destDurable (s : State) (k : Nat) (x : Cmd) (op size : Nat) (d : CollDesc) : Bool :=
  (collPieces op size d [] true).any (fun p =>
    match xlate s x.core (s.ctx k).run.space p.va { w := true, lvl := x.lvl } with
    | .ok xl => pteDur xl.leaf
    | .error _ => false)

/-- The descriptor of a collective is read (R202, R203). -/
def collStart (s : State) (k : Nat) (x : Cmd) (va : W64) (op : Nat) : State :=
  let p : Piece := { va := va, len := 64, off := 0 }
  let s1 := notePiece s k x p
  match readPiece s k x p with
  | .error (st, a) => putCmd s1 k (failCmd x st a)
  | .ok rs =>
    let bs := patchRuns [] rs
    let w : BitVec 512 := BitVec.ofNat 512 (ofBytes bs)
    let d := descOf w
    if !descOk op w then putCmd s1 k (failCmd x 8 va)
    else
      match fget? s.dev.groups d.group with
      | none => putCmd s1 k (failCmd x 7 (BitVec.ofNat 64 d.group))
      | some g =>
        match fget? g.late d.rank with
        | some (st, a) =>
          putCmd { s1 with dev := { s1.dev with groups := fset s1.dev.groups d.group { g with late := fdel g.late d.rank } } } k (failCmd x st a)
        | none =>
          putCmd s1 k { x with
            phase := 1, done := 0, buf := bs, dur := destDurable s k x op g.size d, total := (collPieces op g.size d [] false).length }

/-- One chunk of a collective (R175, R202, R203, R394). -/
def collChunk (s : State) (k : Nat) (x : Cmd) : State :=
  let c := s.ctx k
  match x.op with
  | .coll va op =>
    if x.phase = 0 then (if flipBlocks s c.run.space va then s else collStart s k x va op)
    else
      let d := cmdDesc x
      match fget? s.dev.groups d.group with
      | none => if x.phase = 3 then s else putCmd s k (failCmd x 7 (BitVec.ofNat 64 d.group))
      | some g =>
        if x.phase = 1 then
          match (collPieces op g.size d (cmdData x) false)[x.done]? with
          | none => collRead s k x g
          | some p =>
            if flipBlocks s c.run.space p.va then s
            else
              match readPiece s k x p with
              | .error (st, a) => failMember (notePiece s k x p) k x st a
              | .ok rs => putCmd (notePiece s k x p) k { x with buf := x.buf.take 64 ++ patchRuns (cmdData x) rs, done := x.done + 1 }
        else if x.phase = 2 then combineGroup s d.group
        else
          match (collPieces op g.size d (cmdData x) true)[x.done]? with
          | none => s
          | some p =>
            if flipBlocks s c.run.space p.va then s
            else
              writeChunk (noteXl s x.core c.run.space p.va) k x { w := true } (fun _ => true)
                (p.runs.map (fun r => (r.1, ((cmdData x).drop r.2.2).take r.2.1))) none
  | _ => s

/-- Every byte of a collective's result has been moved. -/
def collMoved (x : Cmd) : Bool := decide (x.phase = 3) && decide (x.total ≤ x.done) && decide (x.watch = 0)

/-- A member's command completes: failed, or with its destination holding the result, visible at device scope and, in durable
pages, persisted (R203, R281). -/
def collComplete (s : State) (k : Nat) (x : Cmd) : State :=
  if (decide (x.status ≠ 0) || collMoved x)
      && (cmdWrites s k x.seq.toNat).all (fun w => w.performedAt 3 && (!w.durable || w.persisted)) then endCmd s k x
  else s

end Sys2Proof.Machine
end

