-- ==== Sys2Proof/Machine/EngEvents.lean ====
section
/-! DEFINITION. The engine and fabric events (R175, R190, R200 to R203, R354 to R360): one chunk, completions, requests, replies,
time limits, frames, ports, keys and the window tables. -/
namespace Sys2Proof.Machine

/-- One chunk of an engine command moves (R175, R277, R329): a tile, window or collective chunk. -/
def execChunkTransfer (ctx : Nat) (seq : W32) (s : State) : Host.Outcome State Fault Refusal :=
  match cmdOf s ctx seq with
  | none => .next s
  | some x =>
    if !cmdMoves s ctx x then .next s
    else
      match x.op with
      | .wget _ _ _ | .wput _ _ _ | .wadd _ _ _ _ => .next (winSend s ctx x)
      | .coll _ _ => .next (collChunk s ctx x)
      | _ => .next (tileChunk s ctx x)

/-- A copy-path tile command completes, whole or failed (R174, R190). -/
def execTileCommandCompletion (ctx : Nat) (seq : W32) (s : State) : Host.Outcome State Fault Refusal :=
  match cmdOf s ctx seq with
  | none => .next s
  | some x =>
    match x.path with
    | 1 => .next (tileComplete s ctx x)
    | _ => .next s

/-- The exporter judges a request chunk, performs or refuses it, and acknowledges an accepted write once it is performed (R201, R359). -/
def execWindowChunkRequest (frame : Frame) (s : State) : Host.Outcome State Fault Refusal :=
  match s.dev.served.find? (fun p => p.1 == frame) with
  | some p => .next (ackChunk s frame p.2)
  | none => if [1, 2, 3, 4].contains (frType frame) && firstRequest s frame then .next (judgeChunk s frame) else .next s

/-- A reply reaches the requester (R200, R201, R359). -/
def execChunkReply (frame : Frame) (s : State) : Host.Outcome State Fault Refusal :=
  if s.dev.inbox.contains frame && [0x08, 0x09, 0x0A].contains (frType frame) then .next (takeReply s frame) else .next s

/-- A chunk without reply runs into its time limit (R200, R357); a collective that waits for a peer ends with a peer fault. -/
def execChunkTimeLimit (ctx : Nat) (seq : W32) (chunk : Nat) (s : State) : Host.Outcome State Fault Refusal :=
  match cmdOf s ctx seq with
  | none => .next s
  | some x =>
    match x.op with
    | .wget _ _ _ | .wput _ _ _ | .wadd _ _ _ _ =>
      if chunkSt x chunk = .sent ∧ limitOver s x chunk = true then .next (putCmd s ctx (setChunk x chunk .timeout)) else .next s
    | .coll _ _ => if x.phase = 2 ∧ collWaits s x = true ∧ limitOver s x 0 = true then .next (failMember s ctx x 9 0) else .next s
    | _ => .next s

/-- A window command whose chunks are all settled completes (R200, R201). -/
def execWindowCommandCompletion (ctx : Nat) (seq : W32) (s : State) : Host.Outcome State Fault Refusal :=
  match cmdOf s ctx seq with
  | none => .next s
  | some x => if (winOp x.op).isSome then .next (winComplete s ctx x) else .next s

/-- The commands of a group's members complete as far as they can (R203); so do commands that failed before they knew their group. -/
def execCollectiveCompletion (group : Nat) (s : State) : Host.Outcome State Fault Refusal :=
  let s1 := combineGroup s group
  let ends := s1.ctxs.flatMap (fun p => (p.2.cmds.filter (fun x => match x.op with
    | .coll _ _ => decide (x.phase = 0) || decide ((cmdDesc x).group = group)
    | _ => false)).map (fun x => (p.1, x)))
  .next (ends.foldl (fun s m => collComplete s m.1 m.2) s1)

/-- A port checks a received frame and drops or accepts it (R355). -/
def execFrameReceive (port : Nat) (frame : Frame) (s : State) : Host.Outcome State Fault Refusal :=
  if !portUp s port then .next s
  else
    match dropReason s port frame with
    | 0 => .next (acceptFrame s port frame)
    | r => .next (dropFrame s port r (frOwner frame))

/-- A frame whose LIFE reaches 0 at a port is dropped and counted (R355). -/
def execFrameLifeExpiry (port : Nat) (frame : Frame) (s : State) : Host.Outcome State Fault Refusal :=
  .next (dropFrame { s with dev := { s.dev with inbox := s.dev.inbox.erase frame } } port 4 (frOwner frame))

/-- A port fails: its routes move to its group's other ports (R358). -/
def execPortFailure (port : Nat) (s : State) : Host.Outcome State Fault Refusal :=
  if 72 ≤ port then .next s
  else .next { s with dev := { s.dev with portDown := (port :: s.dev.portDown).eraseDups } }

/-- A session key for an owner is loaded into the slot of a port group not in use, and senders switch to it (R356); a fifth owner finds no place. -/
def execRekey (group owner key : Nat) (s : State) : Host.Outcome State Fault Refusal :=
  let at_ := 65536 * group + owner % 65536
  let others := s.dev.keys.filter (fun p => decide (p.1 / 65536 = group) && decide (p.1 ≠ at_))
  match fget? s.dev.keys at_ with
  | some ks =>
    let ks1 : KeySlot := if ks.cur = 0 then { ks with cur := 1, k1 := some key } else { ks with cur := 0, k0 := some key }
    let ks' : KeySlot := { ks1 with since := (s.die 0).cycle }
    .next { s with dev := { s.dev with keys := fset s.dev.keys at_ ks' } }
  | none =>
    if 8 ≤ group ∨ 4 ≤ others.length then .next s
    else .next { s with dev := { s.dev with keys := fset s.dev.keys at_ { cur := 0, k0 := some key, since := (s.die 0).cycle } } }

/-- LINKTMO cycles have passed since a slot was loaded (R356; log entry 107). -/
def slotStale (s : State) (ks : KeySlot) : Bool := decide (linkTmo s ≤ ((s.die 0).cycle - ks.since).toNat)

/-- The key slot that is not in use is cleared, LINKTMO after the rekey (R356). -/
def execKeySlotClear (group owner : Nat) (s : State) : Host.Outcome State Fault Refusal :=
  let at_ := 65536 * group + owner % 65536
  match fget? s.dev.keys at_ with
  | some ks =>
    let ks' : KeySlot := if ks.cur = 0 then { ks with k1 := none } else { ks with k0 := none }
    if slotStale s ks then .next { s with dev := { s.dev with keys := fset s.dev.keys at_ ks' } } else .next s
  | none => .next s

/-- An entry of the export table is written (R359). -/
def execExportEntryWrite (index : Nat) (value : BitVec 192) (s : State) : Host.Outcome State Fault Refusal :=
  if 65536 ≤ index then .next s
  else .next { s with dev := { s.dev with exports := fset s.dev.exports index (value &&& expMask) } }

/-- An entry of the import table is written (R359). -/
def execImportEntryWrite (index : Nat) (value : BitVec 192) (s : State) : Host.Outcome State Fault Refusal :=
  if 65536 ≤ index then .next s
  else .next { s with dev := { s.dev with imports := fset s.dev.imports index (value &&& impMask) } }

/-- The writes of accepted chunks of an export entry that are not yet performed. -/
def entryWrites (s : State) (index : Nat) : List Nat :=
  (s.dev.served.filter (fun p => decide (frIndex p.1 = index))).flatMap (fun p => p.2)

/-- A revoke raises an entry's generation, or invalidates it, at once; it completes when every accepted chunk is done (R360). A
second revoke that comes before acts on the entry again. -/
def execRevoke (index : Nat) (invalidate : Bool) (s : State) : Host.Outcome State Fault Refusal :=
  if 65536 ≤ index then .next s
  else
    let e := fget 0 s.dev.exports index
    let e' := if invalidate ∨ expGen e = 255 then putFld e 0 (0 : BitVec 1) else putFld e 128 (BitVec.ofNat 8 (expGen e + 1))
    let ids := entryWrites s index
    let s1 := { s with dev := { s.dev with exports := fset s.dev.exports index e', revokes := fset s.dev.revokes index ids } }
    .next (settleRevoke s1 index)

end Sys2Proof.Machine
end

