-- ==== Sys2Proof/Machine/LaunchEvents.lean ====
section
/-! DEFINITION. The launch and walker events (R207, R296 to R312, R325, R326, R339, R352). An event that is not enabled changes
nothing (log entry 4). -/
namespace Sys2Proof.Machine

/-- The oldest report of a seat that runs at its level is delivered at a bundle boundary (R325). -/
def execReportDelivery (ctx : Nat) (s : State) : Host.Outcome State Fault Refusal :=
    let c := s.ctx ctx
  match reportDue c with
  | some r => .next (if atBoundary s ctx && !flipBlocks s c.run.space (reportAddr s ctx) then deliver s ctx r else s)
  | none => .next s

/-- The dispatcher answers the doorbells of a queue in the order in which they were rung; LQSTq shows the result of the last
(R352). -/
def answerBell (s : State) (id q : Nat) (va : W64) : State :=
  if (s.dev.bells.find? (fun b => decide (b.2.1 = q))).map (·.1) ≠ some id then s
  else
    let a := offerRecord s 0 q va
    let d := a.2.dev
    let rest := d.bells.filter (fun b => decide (b.1 ≠ id))
    let busy := rest.any (fun b => decide (b.2.1 = q))
    { a.2 with dev := { d with bells := rest, lqst := if busy then d.lqst else fset d.lqst q a.1 } }

/-- The dispatcher judges the record that an `enq` offered once the release is done, and the answer is then ready, or the record
of a doorbell (R207, R298, R312, R341, R352). While a page of the address space changes its bias it waits (R353). -/
def execLaunchAccept (id : Nat) (s : State) : Host.Outcome State Fault Refusal :=
    match s.loads.find? (fun l => decide (l.id = id)) with
  | none =>
    match s.dev.bells.find? (fun b => decide (b.1 = id)) with
    | some b => .next (if flipIn s (queueSpace s b.2.1) then s else answerBell s id b.2.1 b.2.2)
    | none => .next s
  | some l =>
    match l.kind with
    | .enq va lq =>
      if !needsMet s l.ctx 3 l.needs || flipIn s l.space then .next s
      else
        let a := if queueSpace s lq ≠ l.space then (2, s) else offerRecord s (dieOf l.core) lq va
        .next { a.2 with loads := a.2.loads.map (fun x => if x.id = id then { x with kind := .answer a.1 } else x) }
    | _ => .next s

/-- The dispatcher starts the runnable launch whose turn it is; one with a failed predecessor is not run (R311, R312). -/
def execLaunchStart (launch : Nat) (s : State) : Host.Outcome State Fault Refusal :=
    let x := s.launch launch
  if x.st = .queued ∧ x.cancelled = false ∧ (predFailed s x.rec_.after0 ∨ predFailed s x.rec_.after1) then
    .next (unqueue (s.setLaunch launch { x with cancelled := true, pools := [], failed := BitVec.ofNat 64 x.rec_.n }) launch)
  else if nextLaunchOf s = some launch then
    let y := { x with st := .running, done := if x.rec_.kind = 2 then 1 else 0 }
    .next (raiseEvery (traceLaunch (unqueue (s.setLaunch launch y) launch) launch 0) 20)
  else .next s

/-- A seat claims a range of a map entry's pool and its walker enters; an idle seat starts a context with it (R303, R305, R306). -/
def execClaim (core seat launch entry : Nat) (s : State) : Host.Outcome State Fault Refusal :=
    match mayClaim s core seat launch entry with
  | none => .next s
  | some (a, b) =>
    let x := s.launch launch
    let two := (x.pools[entry]?).toList.map (fun p => p.taken x.rec_.det core seat b)
    let s1 := s.setLaunch launch { x with pools := x.pools.take entry ++ two ++ x.pools.drop (entry + 1) }
    let k := s.bankOf core seat
    let s2 := if restsOn s core seat launch then (dropSeatSteals s1 core seat).setCtx k ((s1.ctx k).takeRange a b)
      else startBank s1 core seat k (newRun s1 core seat launch) 0 x.rec_.entry 0 (fun c => c.takeRange a b)
    .next (if x.rec_.det then s2 else notePlaced s2 launch a b (dieOf core))

/-- A walker enters its tile step: coordinates, index and arguments are written, the random stream and FRAME set (R304). -/
def execTileStepEntry (ctx : Nat) (s : State) : Host.Outcome State Fault Refusal :=
    let c := s.ctx ctx
  let r := (s.launch c.run.launch).rec_
  if atBoundary s ctx && decide (c.run.wst = .enter) && decide (c.lvl = 0) && stepEligible s ctx && (reportDue c).isNone then
    let cs := coords r c.run.cur
    let six := (List.range 6).map (fun d => BitVec.ofNat 64 (cs.getD d 0))
    .next (s.setCtx ctx { c with
      regs := { c.regs with s := fsets c.regs.s 40 (six ++ [BitVec.ofNat 64 c.run.cur, r.args]) }
      ctr := { c.ctr with
        srstate := BitVec.ofNat 64 (r.seed.toNat + c.run.cur * 2 ^ 32)
        frame := 0 }
      flow := { c.flow with npc0 := r.entry, npc1 := 1, npc2 := 1, delay := 0, bubble := 0, bubnext := 0, loops := [] }
      run := { c.run with wst := .run } })
  else .next s

/-- A context without work, counters and reports ends, and its seat is idle (R305, R326, R400). -/
def execContextEnd (ctx : Nat) (s : State) : Host.Outcome State Fault Refusal :=
    let c := s.ctx ctx
  if c.run.live && !c.run.halted && !c.run.saved && c.mayEnd && workDone s ctx
      && !exchanging s c.run.lcore c.run.bank && decide (c.run.bank < 2) then
    .next (dropSeatSteals (endCtx s ctx) c.run.lcore c.run.bank)
  else .next s

/-- A launch whose units are all accounted for ends: stash lines go home, the mirrors are added to, counters and traces follow, persist records are freed (R260, R282, R310). -/
def execLaunchEnd (launch : Nat) (s : State) : Host.Outcome State Fault Refusal :=
    if !launchOver s launch || flipIn s (s.launch launch).rec_.space then .next s
  else
    let ws := launchWrites s launch
    let ids := ws.map (·.id)
    if ws.any (fun w => w.stash.isSome) then .next (settle (writeBack s (fun w => ids.contains w.id)))
    else if ws.any (fun w => !w.performedAt 3) then .next s
    else .next (closeLaunch s launch)

/-- A cancel command of the driver over the Alvel link (R311, R362). -/
def execHostCancel (level ident : Nat) (s : State) : Host.Outcome State Fault Refusal :=
    .next (if linkReady s then cancelItem s level ident else s)

/-- A doorbell write offers a record to a queue; bit 31 of LQSTq reads 1 until the result arrives (R352, R362). -/
def execLaunchDoorbell (q : Nat) (va : W64) (s : State) : Host.Outcome State Fault Refusal :=
    if linkReady s && decide (q < 64) then
    let (i, s1) := takeId s
    .next { s1 with dev := { s1.dev with
      bells := s1.dev.bells ++ [(i, q, va)]
      lqst := fset s1.dev.lqst q 0x80000000 } }
  else .next s

/-- Every launch of a queue is cancelled, the queue is empty, their trace sessions end with REASON 2 (R339). -/
def execQueueReset (q : Nat) (s : State) : Host.Outcome State Fault Refusal :=
    let ls := (launchIds s).filter (fun l => (s.launch l).alive && decide ((s.launch l).rec_.queue = q))
  let s1 := ls.foldl cancelLaunch s
  .next (ls.foldl (fun s l => endTracesEvery s l 2) { s1 with dev := { s1.dev with queues := fset s1.dev.queues q [] } })

end Sys2Proof.Machine
end

