-- ==== Sys2Proof/Machine/Dispatch.lean ====
section
/-! DEFINITION. The meaning of every instruction, microword and machine event: one arm for each constructor. -/
namespace Sys2Proof.Machine

/-- One step of one agent: a word of the bundle in issue, a microword of the running call, or a machine event. -/
def exec (i : Instr) (s : State) : Host.Outcome State Fault Refusal :=
  match i with
  | .bundleIssue core => Sys2Proof.Machine.execBundleIssue core s
  | .controlRegisterWrite die off width value => Sys2Proof.Machine.execControlRegisterWrite die off width value s
  | .nop => Sys2Proof.Machine.execNop s
  | .add d a b w => Sys2Proof.Machine.execAdd d a b w s
  | .sub d a b w => Sys2Proof.Machine.execSub d a b w s
  | .and d a b w => Sys2Proof.Machine.execAnd d a b w s
  | .or d a b w => Sys2Proof.Machine.execOr d a b w s
  | .xor d a b w => Sys2Proof.Machine.execXor d a b w s
  | .andn d a b w => Sys2Proof.Machine.execAndn d a b w s
  | .shl d a b w => Sys2Proof.Machine.execShl d a b w s
  | .shr d a b w => Sys2Proof.Machine.execShr d a b w s
  | .sra d a b w => Sys2Proof.Machine.execSra d a b w s
  | .rol d a b w => Sys2Proof.Machine.execRol d a b w s
  | .mul d a b w => Sys2Proof.Machine.execMul d a b w s
  | .mulh d a b w => Sys2Proof.Machine.execMulh d a b w s
  | .mulhn d a b w => Sys2Proof.Machine.execMulhn d a b w s
  | .div d a b w => Sys2Proof.Machine.execDiv d a b w s
  | .divn d a b w => Sys2Proof.Machine.execDivn d a b w s
  | .rem d a b w => Sys2Proof.Machine.execRem d a b w s
  | .remn d a b w => Sys2Proof.Machine.execRemn d a b w s
  | .min d a b w => Sys2Proof.Machine.execMin d a b w s
  | .max d a b w => Sys2Proof.Machine.execMax d a b w s
  | .minn d a b w => Sys2Proof.Machine.execMinn d a b w s
  | .maxn d a b w => Sys2Proof.Machine.execMaxn d a b w s
  | .clz d a w => Sys2Proof.Machine.execClz d a w s
  | .popc d a w => Sys2Proof.Machine.execPopc d a w s
  | .ctz d a w => Sys2Proof.Machine.execCtz d a w s
  | .cmov d a b w => Sys2Proof.Machine.execCmov d a b w s
  | .ceq d a b w => Sys2Proof.Machine.execCeq d a b w s
  | .cne d a b w => Sys2Proof.Machine.execCne d a b w s
  | .clt d a b w => Sys2Proof.Machine.execClt d a b w s
  | .cle d a b w => Sys2Proof.Machine.execCle d a b w s
  | .cltn d a b w => Sys2Proof.Machine.execCltn d a b w s
  | .clen d a b w => Sys2Proof.Machine.execClen d a b w s
  | .addi d a imm => Sys2Proof.Machine.execAddi d a imm s
  | .andi d a imm => Sys2Proof.Machine.execAndi d a imm s
  | .ori d a imm => Sys2Proof.Machine.execOri d a imm s
  | .xori d a imm => Sys2Proof.Machine.execXori d a imm s
  | .shli d a imm => Sys2Proof.Machine.execShli d a imm s
  | .shri d a imm => Sys2Proof.Machine.execShri d a imm s
  | .srai d a imm => Sys2Proof.Machine.execSrai d a imm s
  | .ceqi d a imm => Sys2Proof.Machine.execCeqi d a imm s
  | .clti d a imm => Sys2Proof.Machine.execClti d a imm s
  | .cltni d a imm => Sys2Proof.Machine.execCltni d a imm s
  | .li d imm => Sys2Proof.Machine.execLi d imm s
  | .lis d imm => Sys2Proof.Machine.execLis d imm s
  | .get d file idx lane => Sys2Proof.Machine.execGet d file idx lane s
  | .push w a => Sys2Proof.Machine.execPush w a s
  | .bz a hint disp => Sys2Proof.Machine.execBz a hint disp s
  | .bnz a hint disp => Sys2Proof.Machine.execBnz a hint disp s
  | .blz a hint disp => Sys2Proof.Machine.execBlz a hint disp s
  | .bgez a hint disp => Sys2Proof.Machine.execBgez a hint disp s
  | .br hint disp => Sys2Proof.Machine.execBr hint disp s
  | .call hint disp => Sys2Proof.Machine.execCall hint disp s
  | .jr a => Sys2Proof.Machine.execJr a s
  | .jlr a => Sys2Proof.Machine.execJlr a s
  | .loop level a body => Sys2Proof.Machine.execLoop level a body s
  | .lexit level => Sys2Proof.Machine.execLexit level s
  | .wait ld st cp tl => Sys2Proof.Machine.execWait ld st cp tl s
  | .frame => Sys2Proof.Machine.execFrame s
  | .mfs d reg => Sys2Proof.Machine.execMfs d reg s
  | .mts a reg => Sys2Proof.Machine.execMts a reg s
  | .spill id a => Sys2Proof.Machine.execSpill id a s
  | .fill d id => Sys2Proof.Machine.execFill d id s
  | .trap code => Sys2Proof.Machine.execTrap code s
  | .tret => Sys2Proof.Machine.execTret s
  | .exit => Sys2Proof.Machine.execExit s
  | .brk code => Sys2Proof.Machine.execBrk code s
  | .fwcall service => Sys2Proof.Machine.execFwcall service s
  | .idle => Sys2Proof.Machine.execIdle s
  | .vnop sl => Sys2Proof.Machine.execVnop sl s
  | .vadd sl fmt d a b k => Sys2Proof.Machine.execVadd sl fmt d a b k s
  | .vsub sl fmt d a b k => Sys2Proof.Machine.execVsub sl fmt d a b k s
  | .vmul sl fmt d a b k => Sys2Proof.Machine.execVmul sl fmt d a b k s
  | .vfma sl fmt d a b k => Sys2Proof.Machine.execVfma sl fmt d a b k s
  | .vfms sl fmt d a b k => Sys2Proof.Machine.execVfms sl fmt d a b k s
  | .vmin sl fmt d a b k => Sys2Proof.Machine.execVmin sl fmt d a b k s
  | .vmax sl fmt d a b k => Sys2Proof.Machine.execVmax sl fmt d a b k s
  | .vabs sl fmt d a k => Sys2Proof.Machine.execVabs sl fmt d a k s
  | .vneg sl fmt d a k => Sys2Proof.Machine.execVneg sl fmt d a k s
  | .vtsum sl fmt d a b k => Sys2Proof.Machine.execVtsum sl fmt d a b k s
  | .vadds sl fmt d a b k => Sys2Proof.Machine.execVadds sl fmt d a b k s
  | .vsubs sl fmt d a b k => Sys2Proof.Machine.execVsubs sl fmt d a b k s
  | .vrcp sl fmt d a k => Sys2Proof.Machine.execVrcp sl fmt d a k s
  | .vrsq sl fmt d a k => Sys2Proof.Machine.execVrsq sl fmt d a k s
  | .vexp2 sl fmt d a k => Sys2Proof.Machine.execVexp2 sl fmt d a k s
  | .vlog2 sl fmt d a k => Sys2Proof.Machine.execVlog2 sl fmt d a k s
  | .vsqrt sl fmt d a k => Sys2Proof.Machine.execVsqrt sl fmt d a k s
  | .vflr sl fmt d a k => Sys2Proof.Machine.execVflr sl fmt d a k s
  | .vand sl d a b k => Sys2Proof.Machine.execVand sl d a b k s
  | .vor sl d a b k => Sys2Proof.Machine.execVor sl d a b k s
  | .vxor sl d a b k => Sys2Proof.Machine.execVxor sl d a b k s
  | .vnot sl d a k => Sys2Proof.Machine.execVnot sl d a k s
  | .vshl sl fmt d a b k => Sys2Proof.Machine.execVshl sl fmt d a b k s
  | .vshr sl fmt d a b k => Sys2Proof.Machine.execVshr sl fmt d a b k s
  | .vsra sl fmt d a b k => Sys2Proof.Machine.execVsra sl fmt d a b k s
  | .vaddi sl fmt d a imm => Sys2Proof.Machine.execVaddi sl fmt d a imm s
  | .vshli sl fmt d a imm => Sys2Proof.Machine.execVshli sl fmt d a imm s
  | .vshri sl fmt d a imm => Sys2Proof.Machine.execVshri sl fmt d a imm s
  | .vsplat sl fmt d a imm => Sys2Proof.Machine.execVsplat sl fmt d a imm s
  | .vceq sl fmt d a b k => Sys2Proof.Machine.execVceq sl fmt d a b k s
  | .vcne sl fmt d a b k => Sys2Proof.Machine.execVcne sl fmt d a b k s
  | .vclt sl fmt d a b k => Sys2Proof.Machine.execVclt sl fmt d a b k s
  | .vcle sl fmt d a b k => Sys2Proof.Machine.execVcle sl fmt d a b k s
  | .vcun sl fmt d a b k => Sys2Proof.Machine.execVcun sl fmt d a b k s
  | .kand sl d a b => Sys2Proof.Machine.execKand sl d a b s
  | .kor sl d a b => Sys2Proof.Machine.execKor sl d a b s
  | .kxor sl d a b => Sys2Proof.Machine.execKxor sl d a b s
  | .knot sl d a => Sys2Proof.Machine.execKnot sl d a s
  | .vsel sl d a b k => Sys2Proof.Machine.execVsel sl d a b k s
  | .vmov sl d a k => Sys2Proof.Machine.execVmov sl d a k s
  | .vget sl d file idx lane => Sys2Proof.Machine.execVget sl d file idx lane s
  | .viota sl fmt d k => Sys2Proof.Machine.execViota sl fmt d k s
  | .vlane sl fmt d a b k => Sys2Proof.Machine.execVlane sl fmt d a b k s
  | .vradd sl fmt d a k => Sys2Proof.Machine.execVradd sl fmt d a k s
  | .vrmax sl fmt d a k => Sys2Proof.Machine.execVrmax sl fmt d a k s
  | .vrmin sl fmt d a k => Sys2Proof.Machine.execVrmin sl fmt d a k s
  | .vrarg sl fmt d a k => Sys2Proof.Machine.execVrarg sl fmt d a k s
  | .vcvt sl fd d a fs rnd sat => Sys2Proof.Machine.execVcvt sl fd d a fs rnd sat s
  | .vdefer sl cnt a b k => Sys2Proof.Machine.execVdefer sl cnt a b k s
  | .vdrain sl d o km => Sys2Proof.Machine.execVdrain sl d o km s
  | .vpush sl w a => Sys2Proof.Machine.execVpush sl w a s
  | .vspill sl id a => Sys2Proof.Machine.execVspill sl id a s
  | .vfill sl d id => Sys2Proof.Machine.execVfill sl d id s
  | .mnop => Sys2Proof.Machine.execMnop s
  | .mcall routine nocorr limc e5 ceil start => Sys2Proof.Machine.execMcall routine nocorr limc e5 ceil start s
  | .mset p imm => Sys2Proof.Machine.execMset p imm s
  | .mseth => Sys2Proof.Machine.execMseth s
  | .mget p a => Sys2Proof.Machine.execMget p a s
  | .mabort => Sys2Proof.Machine.execMabort s
  | .cnop sl => Sys2Proof.Machine.execCnop sl s
  | .ldi8 sl base q disp => Sys2Proof.Machine.execLdi8 sl base q disp s
  | .ldn8 sl base q disp => Sys2Proof.Machine.execLdn8 sl base q disp s
  | .ldi16 sl base q disp => Sys2Proof.Machine.execLdi16 sl base q disp s
  | .ldn16 sl base q disp => Sys2Proof.Machine.execLdn16 sl base q disp s
  | .ldi32 sl base q disp => Sys2Proof.Machine.execLdi32 sl base q disp s
  | .ldn32 sl base q disp => Sys2Proof.Machine.execLdn32 sl base q disp s
  | .ld64 sl base q disp => Sys2Proof.Machine.execLd64 sl base q disp s
  | .vld sl base q disp => Sys2Proof.Machine.execVld sl base q disp s
  | .vldg sl base q w sc => Sys2Proof.Machine.execVldg sl base q w sc s
  | .vlds sl base a q => Sys2Proof.Machine.execVlds sl base a q s
  | .st8 sl base w disp => Sys2Proof.Machine.execSt8 sl base w disp s
  | .st16 sl base w disp => Sys2Proof.Machine.execSt16 sl base w disp s
  | .st32 sl base w disp => Sys2Proof.Machine.execSt32 sl base w disp s
  | .st64 sl base w disp => Sys2Proof.Machine.execSt64 sl base w disp s
  | .vst sl base w disp => Sys2Proof.Machine.execVst sl base w disp s
  | .vsts sl base a w => Sys2Proof.Machine.execVsts sl base a w s
  | .vstm sl base wd wi sc => Sys2Proof.Machine.execVstm sl base wd wi sc s
  | .aadd sl base q scope order disp => Sys2Proof.Machine.execAadd sl base q scope order disp s
  | .amin sl base q scope order disp => Sys2Proof.Machine.execAmin sl base q scope order disp s
  | .amax sl base q scope order disp => Sys2Proof.Machine.execAmax sl base q scope order disp s
  | .aand sl base q scope order disp => Sys2Proof.Machine.execAand sl base q scope order disp s
  | .aor sl base q scope order disp => Sys2Proof.Machine.execAor sl base q scope order disp s
  | .axch sl base q scope order disp => Sys2Proof.Machine.execAxch sl base q scope order disp s
  | .acas sl base q scope order disp => Sys2Proof.Machine.execAcas sl base q scope order disp s
  | .afadd sl base q scope order disp => Sys2Proof.Machine.execAfadd sl base q scope order disp s
  | .aminn sl base q scope order disp => Sys2Proof.Machine.execAminn sl base q scope order disp s
  | .amaxn sl base q scope order disp => Sys2Proof.Machine.execAmaxn sl base q scope order disp s
  | .fence sl scope order => Sys2Proof.Machine.execFence sl scope order s
  | .fencex sl from_ to_ scope => Sys2Proof.Machine.execFencex sl from_ to_ scope s
  | .pbar sl => Sys2Proof.Machine.execPbar sl s
  | .tloadSlot sl base a slot pitched => Sys2Proof.Machine.execTloadSlot sl base a slot pitched s
  | .tloadRing sl base a ring pitched => Sys2Proof.Machine.execTloadRing sl base a ring pitched s
  | .rpush sl slot ring => Sys2Proof.Machine.execRpush sl slot ring s
  | .tstore sl base a slot pitched => Sys2Proof.Machine.execTstore sl base a slot pitched s
  | .tstoreDur sl base a slot pitched => Sys2Proof.Machine.execTstoreDur sl base a slot pitched s
  | .ttrn sl base slot => Sys2Proof.Machine.execTtrn sl base slot s
  | .tcvt sl base slot rnd => Sys2Proof.Machine.execTcvt sl base slot rnd s
  | .tzero sl slot => Sys2Proof.Machine.execTzero sl slot s
  | .tfree sl slot => Sys2Proof.Machine.execTfree sl slot s
  | .tgath sl base a slot w => Sys2Proof.Machine.execTgath sl base a slot w s
  | .wget sl base a n => Sys2Proof.Machine.execWget sl base a n s
  | .wput sl base a n => Sys2Proof.Machine.execWput sl base a n s
  | .wadd sl base a n int => Sys2Proof.Machine.execWadd sl base a n int s
  | .coll sl base op => Sys2Proof.Machine.execColl sl base op s
  | .smap sl base a n => Sys2Proof.Machine.execSmap sl base a n s
  | .swb sl base n => Sys2Proof.Machine.execSwb sl base n s
  | .sinv sl base n discard => Sys2Proof.Machine.execSinv sl base n discard s
  | .pref sl base disp => Sys2Proof.Machine.execPref sl base disp s
  | .enq sl base q lq => Sys2Proof.Machine.execEnq sl base q lq s
  | .cancel sl base level => Sys2Proof.Machine.execCancel sl base level s
  | .cnt sl base q level kind => Sys2Proof.Machine.execCnt sl base q level kind s
  | .cli sl d a imm => Sys2Proof.Machine.execCli sl d a imm s
  | .cadd sl d a imm => Sys2Proof.Machine.execCadd sl d a imm s
  | .cget sl d file idx lane => Sys2Proof.Machine.execCget sl d file idx lane s
  | .cstr sl d level sreg => Sys2Proof.Machine.execCstr sl d level sreg s
  | .xnop => Sys2Proof.Machine.execXnop s
  | .xget d file idx lane => Sys2Proof.Machine.execXget d file idx lane s
  | .xmov fmt d a b => Sys2Proof.Machine.execXmov fmt d a b s
  | .xpack fmt d a b e rnd => Sys2Proof.Machine.execXpack fmt d a b e rnd s
  | .xunpk fmt d a b e => Sys2Proof.Machine.execXunpk fmt d a b e s
  | .xscal fmt d a b e rnd => Sys2Proof.Machine.execXscal fmt d a b e rnd s
  | .xmxs fmt a b e => Sys2Proof.Machine.execXmxs fmt a b e s
  | .xshuf fmt d a b => Sys2Proof.Machine.execXshuf fmt d a b s
  | .xrot fmt d a b => Sys2Proof.Machine.execXrot fmt d a b s
  | .xzip fmt d a b => Sys2Proof.Machine.execXzip fmt d a b s
  | .xuzp fmt d a b => Sys2Proof.Machine.execXuzp fmt d a b s
  | .xlsc e x imm => Sys2Proof.Machine.execXlsc e x imm s
  | .xssc e x imm => Sys2Proof.Machine.execXssc e x imm s
  | .barInit id scope a => Sys2Proof.Machine.execBarInit id scope a s
  | .barArr id scope => Sys2Proof.Machine.execBarArr id scope s
  | .barWait id scope => Sys2Proof.Machine.execBarWait id scope s
  | .barTst id scope q => Sys2Proof.Machine.execBarTst id scope q s
  | .spawn t a b => Sys2Proof.Machine.execSpawn t a b s
  | .yield => Sys2Proof.Machine.execYield s
  | .microwordMnop => Sys2Proof.Machine.execMicrowordMnop s
  | .mldw src sp metaSlot => Sys2Proof.Machine.execMldw src sp metaSlot s
  | .mswp => Sys2Proof.Machine.execMswp s
  | .mstrm src tiles blk pop => Sys2Proof.Machine.execMstrm src tiles blk pop s
  | .mmv vec nv pa cnt blk wfmt gl => Sys2Proof.Machine.execMmv vec nv pa cnt blk wfmt gl s
  | .mdrn blk dst rnd clr => Sys2Proof.Machine.execMdrn blk dst rnd clr s
  | .mclr blk nb => Sys2Proof.Machine.execMclr blk nb s
  | .mloop pc im cnt => Sys2Proof.Machine.execMloop pc im cnt s
  | .mend => Sys2Proof.Machine.execMend s
  | .mpop src n => Sys2Proof.Machine.execMpop src n s
  | .mbud pb => Sys2Proof.Machine.execMbud pb s
  | .mchk nc => Sys2Proof.Machine.execMchk nc s
  | .mret => Sys2Proof.Machine.execMret s
  | .mwt => Sys2Proof.Machine.execMwt s
  | .mlad st cl e5 lc => Sys2Proof.Machine.execMlad st cl e5 lc s
  | .callStart core => Sys2Proof.Machine.execCallStart core s
  | .streamStepDecision core => Sys2Proof.Machine.execStreamStepDecision core s
  | .planeLoadComplete core => Sys2Proof.Machine.execPlaneLoadComplete core s
  | .drainComplete core => Sys2Proof.Machine.execDrainComplete core s
  | .callEnd core => Sys2Proof.Machine.execCallEnd core s
  | .loadQueueArrival id => Sys2Proof.Machine.execLoadQueueArrival id s
  | .storeCompletion id => Sys2Proof.Machine.execStoreCompletion id s
  | .writeStagePass id => Sys2Proof.Machine.execWriteStagePass id s
  | .crossDieApply id die => Sys2Proof.Machine.execCrossDieApply id die s
  | .chunkTransfer ctx seq => Sys2Proof.Machine.execChunkTransfer ctx seq s
  | .tileCommandCompletion ctx seq => Sys2Proof.Machine.execTileCommandCompletion ctx seq s
  | .windowCommandCompletion ctx seq => Sys2Proof.Machine.execWindowCommandCompletion ctx seq s
  | .swbCompletion ctx seq => Sys2Proof.Machine.execSwbCompletion ctx seq s
  | .persistArrival id => Sys2Proof.Machine.execPersistArrival id s
  | .pbarCompletion ctx => Sys2Proof.Machine.execPbarCompletion ctx s
  | .barrierInitMessage id => Sys2Proof.Machine.execBarrierInitMessage id s
  | .barrierArrivalMessage id => Sys2Proof.Machine.execBarrierArrivalMessage id s
  | .barrierReply id => Sys2Proof.Machine.execBarrierReply id s
  | .barrierCompletionMessage id => Sys2Proof.Machine.execBarrierCompletionMessage id s
  | .reportDelivery ctx => Sys2Proof.Machine.execReportDelivery ctx s
  | .launchAccept id => Sys2Proof.Machine.execLaunchAccept id s
  | .launchStart launch => Sys2Proof.Machine.execLaunchStart launch s
  | .claim core seat launch entry => Sys2Proof.Machine.execClaim core seat launch entry s
  | .tileStepEntry ctx => Sys2Proof.Machine.execTileStepEntry ctx s
  | .contextEnd ctx => Sys2Proof.Machine.execContextEnd ctx s
  | .launchEnd launch => Sys2Proof.Machine.execLaunchEnd launch s
  | .retireMapChange core => Sys2Proof.Machine.execRetireMapChange core s
  | .retireWrite die pcore value => Sys2Proof.Machine.execRetireWrite die pcore value s
  | .windowChunkRequest frame => Sys2Proof.Machine.execWindowChunkRequest frame s
  | .chunkReply frame => Sys2Proof.Machine.execChunkReply frame s
  | .chunkTimeLimit ctx seq chunk => Sys2Proof.Machine.execChunkTimeLimit ctx seq chunk s
  | .collectiveCompletion group => Sys2Proof.Machine.execCollectiveCompletion group s
  | .stashWriteback ctx index => Sys2Proof.Machine.execStashWriteback ctx index s
  | .exchangeStart core => Sys2Proof.Machine.execExchangeStart core s
  | .exchangeEnd core => Sys2Proof.Machine.execExchangeEnd core s
  | .contextImageWrite core => Sys2Proof.Machine.execContextImageWrite core s
  | .standbyPrefill core ctx => Sys2Proof.Machine.execStandbyPrefill core ctx s
  | .microprogramImageLoad core launch => Sys2Proof.Machine.execMicroprogramImageLoad core launch s
  | .stealRequest core seat => Sys2Proof.Machine.execStealRequest core seat s
  | .stealSplit id => Sys2Proof.Machine.execStealSplit id s
  | .stealGrant id => Sys2Proof.Machine.execStealGrant id s
  | .preempt die launch => Sys2Proof.Machine.execPreempt die launch s
  | .contextResume ctx => Sys2Proof.Machine.execContextResume ctx s
  | .hostCancel level ident => Sys2Proof.Machine.execHostCancel level ident s
  | .launchDoorbell q va => Sys2Proof.Machine.execLaunchDoorbell q va s
  | .queueReset q => Sys2Proof.Machine.execQueueReset q s
  | .launchStop launch => Sys2Proof.Machine.execLaunchStop launch s
  | .stopComplete launch => Sys2Proof.Machine.execStopComplete launch s
  | .stopLimitExpiry ctx => Sys2Proof.Machine.execStopLimitExpiry ctx s
  | .stop core bank => Sys2Proof.Machine.execStop core bank s
  | .step core bank => Sys2Proof.Machine.execStep core bank s
  | .run core bank => Sys2Proof.Machine.execRun core bank s
  | .halt core bank => Sys2Proof.Machine.execHalt core bank s
  | .release core bank => Sys2Proof.Machine.execRelease core bank s
  | .domainChange core bank domain => Sys2Proof.Machine.execDomainChange core bank domain s
  | .ownerChange owner => Sys2Proof.Machine.execOwnerChange owner s
  | .shootdownPages die space va count => Sys2Proof.Machine.execShootdownPages die space va count s
  | .shootdownSpace die space => Sys2Proof.Machine.execShootdownSpace die space s
  | .shootdownAll die => Sys2Proof.Machine.execShootdownAll die s
  | .shootdownComplete die => Sys2Proof.Machine.execShootdownComplete die s
  | .biasFlip die value => Sys2Proof.Machine.execBiasFlip die value s
  | .biasFlipComplete die => Sys2Proof.Machine.execBiasFlipComplete die s
  | .uncorrectableData die source key vaddr seq lcore => Sys2Proof.Machine.execUncorrectableData die source key vaddr seq lcore s
  | .correctedError die source => Sys2Proof.Machine.execCorrectedError die source s
  | .functionRemove die value => Sys2Proof.Machine.execFunctionRemove die value s
  | .frameReceive port frame => Sys2Proof.Machine.execFrameReceive port frame s
  | .frameLifeExpiry port frame => Sys2Proof.Machine.execFrameLifeExpiry port frame s
  | .portFailure port => Sys2Proof.Machine.execPortFailure port s
  | .rekey group owner key => Sys2Proof.Machine.execRekey group owner key s
  | .keySlotClear group owner => Sys2Proof.Machine.execKeySlotClear group owner s
  | .exportEntryWrite index value => Sys2Proof.Machine.execExportEntryWrite index value s
  | .revoke index invalidate => Sys2Proof.Machine.execRevoke index invalidate s
  | .alvelLinkFailure => Sys2Proof.Machine.execAlvelLinkFailure s
  | .powerOn authentic => Sys2Proof.Machine.execPowerOn authentic s
  | .functionReady die reg bit => Sys2Proof.Machine.execFunctionReady die reg bit s
  | .inputUndervoltage => Sys2Proof.Machine.execInputUndervoltage s
  | .thermalThrottle die cores => Sys2Proof.Machine.execThermalThrottle die cores s
  | .thermalShutdown => Sys2Proof.Machine.execThermalShutdown s
  | .durableRecovery launch space p0 p1 lcore seat => Sys2Proof.Machine.execDurableRecovery launch space p0 p1 lcore seat s
  | .attestation nonce => Sys2Proof.Machine.execAttestation nonce s
  | .scanStart die value => Sys2Proof.Machine.execScanStart die value s
  | .scanAbort die => Sys2Proof.Machine.execScanAbort die s
  | .scanRun die => Sys2Proof.Machine.execScanRun die s
  | .scanVerdict die fails rows cols => Sys2Proof.Machine.execScanVerdict die fails rows cols s
  | .scanPriorityAbort die => Sys2Proof.Machine.execScanPriorityAbort die s
  | .logicalCoreRebind die lcore => Sys2Proof.Machine.execLogicalCoreRebind die lcore s
  | .lcmapWrite die lcore value => Sys2Proof.Machine.execLcmapWrite die lcore value s
  | .monitorClear die unit => Sys2Proof.Machine.execMonitorClear die unit s
  | .monitorLevelSample die unit => Sys2Proof.Machine.execMonitorLevelSample die unit s
  | .triggerAssert die line => Sys2Proof.Machine.execTriggerAssert die line s
  | .deviceTriggerPropagation die line => Sys2Proof.Machine.execDeviceTriggerPropagation die line s
  | .trgfwWrite die => Sys2Proof.Machine.execTrgfwWrite die s
  | .triggerPinInput pin => Sys2Proof.Machine.execTriggerPinInput pin s
  | .traceOpen die session value => Sys2Proof.Machine.execTraceOpen die session value s
  | .traceEnd die session => Sys2Proof.Machine.execTraceEnd die session s
  | .companionAccess op => Sys2Proof.Machine.execCompanionAccess op s
  | .importEntryWrite index value => Sys2Proof.Machine.execImportEntryWrite index value s
  | .linkCrcRetry granule => Sys2Proof.Machine.execLinkCrcRetry granule s

end Sys2Proof.Machine
end

