-- ==== Sys2Proof/Machine/Place.lean ====
section
/-! DEFINITION. Placing one instruction where the next step fetches it (log entry 6): a bundle at the issuing context's
NPC0, or a microword under a running call. -/
namespace Sys2Proof.Machine

/-- The NOP word of a slot class (R11, R47). -/
def nopWord (cls : Nat) : W32 := BitVec.ofNat 32 (cls * 2 ^ 28)

/-- A bundle of four words that holds `w` and NOPs, the last one with the stop bit (R48). -/
def bundleOf (w : W32) : List W32 :=
  let w := BitVec.ofNat 32 (w.toNat % 2 ^ 31)
  let cls := w.toNat / 2 ^ 28
  if cls ≤ 1 then [0, w, nopWord 2, withStop true (nopWord 3)]
  else if cls = 2 then [0, nopWord 1, w, withStop true (nopWord 3)]
  else [0, nopWord 1, nopWord 2, withStop true w]

/-- A leaf that maps one 4 KiB page to the same offset in a die's HBM, with R, W and X (R343). -/
def placeLeaf (die page : Nat) : W64 := BitVec.ofNat 64 (die % 32 * 2 ^ 55 + page % 2 ^ 20 * 4096 + 0x3B)

/-- A core-TLB entry for the page of an address in a space. -/
def placeTlb (die space : Nat) (a : W64) : TlbEntry :=
  { space := space, va := BitVec.ofNat 64 (a.toNat / 4096 * 4096), bits := 12, leaf := placeLeaf die (a.toNat / 4096) }

/-- The words of a bundle as bytes in memory, each at its translated key. -/
def placeWords (die : Nat) (m : List Host.Cell) (a : W64) : List W32 → List Host.Cell
  | [] => m
  | w :: ws =>
    let key := leafKey (placeLeaf die (a.toNat / 4096)) 12 a
    placeWords die (memWrite m key (bytesOf 4 w.toNat)) (a + 4) ws

/-- The physical keys of `n` words from an address. -/
def placeKeys (die : Nat) (a : W64) : (n : Nat) → List Nat
  | 0 => []
  | n + 1 => (List.range 4).map (leafKey (placeLeaf die (a.toNat / 4096)) 12 a + ·) ++ placeKeys die (a + 4) n

/-- A context made ready to issue at its NPC0; no loop holds a copy of the bundle there. -/
def placeCtx (c : Ctx) : Ctx :=
  { c with
    run := { c.run with
      live := true, busy := true, halted := false, saved := false, ending := false
      bank := c.run.bank % 2
      spawned := if c.run.wst = .run then c.run.spawned else true }
    flow := { c.flow with
      bubble := 0, start := 0, framing := 0, framed := false, holding := false
      loops := c.flow.loops.map (fun l => { l with buf := l.buf.filter (fun b => decide (b.addr ≠ c.flow.npc0)) }) }
    dbg := { c.dbg with st := 1, ask := false }
    reports := []
    iss := {} }

/-- The functions that a fetch from a die's HBM needs are ready, and nothing withholds issue (R362, R399, R353). -/
def placeDie (s : State) (die : Nat) : State :=
  let s1 := setDieReg s die 0x4500 (dieReg s die 0x4500 0 ||| 7)
  { s1 with
    dies := s1.dies.map (fun (p : Nat × DieSt) => (p.1, { p.2 with flip := none, throttled := 0 }))
    dev := { s1.dev with powered := true } }

/-- The state whose next step issues a bundle that holds `w`. -/
def placeBundle (s : State) (w : W32) : State :=
  let c := placeCtx s.my
  let core := c.run.lcore
  let die := dieOf core
  let root := 0x4100 + 8 * c.run.space
  let s1 := placeDie (s.setMy c) die
  let s1 := setDevReg s1 root (devReg s1 root 0 ||| 1)
  let x := s1.core core
  let s2 := s1.setCore core { x with
    exch := none
    want := none
    tlb := placeTlb die c.run.space c.flow.npc0 :: placeTlb die c.run.space (c.flow.npc0 + 31) :: x.tlb }
  let ks := placeKeys die c.flow.npc0 4
  { s2 with
    mem := placeWords die s2.mem c.flow.npc0 (bundleOf w)
    writes := s2.writes.map (fun w => { w with cells := w.cells.filter (fun e => !ks.contains e.1) })
    poison := s2.poison.filter (fun g => ks.all (fun k => decide (k / 64 ≠ g)))
    banks := fset s2.banks (3 * core + c.run.bank) s2.me
    agenda := []
    held := none
    turn := .issue core }

/-- The call that a placed microword runs under. -/
def placeCall (c : Ctx) : Call :=
  { pc := c.flow.npc0, seq := c.ctr.seqno, lvl := c.lvl, routine := 0, nocorr := false, limc := false, e5 := false,
    ceil := 0, start := 0, prof := 1, sr := c.ctr.srstate, p := c.regs.psh }

/-- The state whose next step runs microword `w`: word 0 of the core's store under a running call. -/
def placeMicro (s : State) (w : W64) : State :=
  let c := placeCtx s.my
  let core := c.run.lcore
  let s1 := s.setMy c
  let x := s1.core core
  let s2 := s1.setCore core { x with
    ustore := fset x.ustore 0 w
    run := some { ctx := s1.me, call := placeCall c, idx := 0, start := 0, ceil := 0, e5 := false, limc := false,
                  corr := true } }
  { s2 with agenda := [], held := none, turn := .micro core }

end Sys2Proof.Machine
end

