-- ==== Sys2Proof/Machine/Sched.lean ====
section
/-! DEFINITION. Which step comes next when the agenda is empty, and whose turn follows (log entry 4): one order among those that
the manual leaves free (R405), in which everything that can happen does happen within a bounded time (R292). -/
namespace Sys2Proof.Machine

/-! The events of the device's units that can happen now -/

/-- An event of the opcode table that a unit of the device brings about on its own. -/
inductive UnitAct where
  | loadQueueArrival (id : Nat)
  | launchAccept (id : Nat)
  | writeStagePass (id : Nat)
  | storeCompletion (id : Nat)
  | persistArrival (id : Nat)
  | crossDieApply (id die : Nat)
  | stashWriteback (ctx index : Nat)
  | barrierInitMessage (id : Nat)
  | barrierArrivalMessage (id : Nat)
  | barrierReply (id : Nat)
  | barrierCompletionMessage (id : Nat)
  | swbCompletion (ctx : Nat) (seq : W32)
  | chunkTransfer (ctx : Nat) (seq : W32)
  | windowCommandCompletion (ctx : Nat) (seq : W32)
  | collectiveCompletion (group : Nat)
  | tileCommandCompletion (ctx : Nat) (seq : W32)
  | chunkReply (frame : Frame)
  | windowChunkRequest (frame : Frame)
  | reportDelivery (ctx : Nat)
  | pbarCompletion (ctx : Nat)
  | contextEnd (ctx : Nat)
  | tileStepEntry (ctx : Nat)
  | launchStart (launch : Nat)
  | launchEnd (launch : Nat)
  | stopComplete (launch : Nat)
  | microprogramImageLoad (core launch : Nat)
  | claim (core seat launch entry : Nat)
  | stealRequest (core seat : Nat)
  | preempt (die launch : Nat)
  | stealGrant (id : Nat)
  | stealSplit (id : Nat)
  | contextResume (ctx : Nat)
  | contextImageWrite (core : Nat)
  | shootdownComplete (die : Nat)
  | biasFlipComplete (die : Nat)
  | deviceTriggerPropagation (die line : Nat)
  | retireMapChange (core : Nat)
  | uncorrectableData (a : Abort)
  | chunkTimeLimit (ctx : Nat) (seq : W32) (chunk : Nat)
  | keySlotClear (group owner : Nat)
  | scanRun (die : Nat)
  | scanPriorityAbort (die : Nat)
  | logicalCoreRebind (die lcore : Nat)
  | monitorLevelSample (die unit : Nat)
  | triggerAssert (die line : Nat)
  deriving DecidableEq, Repr

/-- A list from its `n`-th element on, round to the one before. -/
def rotated {α : Type} (n : Nat) (xs : List α) : List α := xs.drop (n % xs.length) ++ xs.take (n % xs.length)

/-- Loads, atomics and answers that can arrive, and doorbells to be answered (R22, R207, R352). -/
def loadEvents (s : State) : List UnitAct :=
  s.loads.filterMap (fun l =>
    if !mayRead s l then none
    else
      match l.kind with
      | .enq _ _ => some (.launchAccept l.id)
      | .atomic _ (some key) leaf _ _ => if s.writes.any (atomicFlush l) || mayAtomic s l key leaf then some (.loadQueueArrival l.id) else none
      | _ => some (.loadQueueArrival l.id))
  ++ s.dev.bells.map (fun b => .launchAccept b.1)

/-- Writes that can pass a stage, be applied on a die, complete or persist (R264, R265, R179, R279). -/
def writeEvents (s : State) : List UnitAct :=
  s.writes.filterMap (fun w =>
    if mayPass s w then some (.writeStagePass w.id)
    else if w.store && (storeGroup s w).all storeDone then some (.storeCompletion w.id)
    else if mayPersist s w then some (.persistArrival w.id)
    else (dieList.find? (mayApply s w)).map (fun d => .crossDieApply w.id d))

/-- Stash entries whose dirty lines go home on their own (R260, R292; log entry 90). -/
def stashEvents (s : State) : List UnitAct := s.writes.filterMap (fun w => w.stash.map (fun p => .stashWriteback p.1 p.2))

/-- Barrier messages that can arrive (R164 to R168). -/
def barrierEvents (s : State) : List UnitAct :=
  s.bmsgs.filterMap (fun m =>
    if !barFirst s m then none
    else
      match m with
      | .init id _ _ _ _ _ => some (.barrierInitMessage id)
      | .arrive id _ _ _ _ needs => if needsMet s m.seat 3 needs then some (.barrierArrivalMessage id) else none
      | .reply id _ _ _ _ _ _ _ _ _ => some (.barrierReply id)
      | .complete id _ _ _ _ _ => some (.barrierCompletionMessage id))

/-- What a command of a context does next: a chunk moves, or it completes. -/
def cmdEvents (s : State) (k : Nat) (c : Ctx) (x : Cmd) : List UnitAct :=
  match x.op with
  | .matrix => []
  | .swb _ _ => [.swbCompletion k x.seq]
  | .wget _ _ _ | .wput _ _ _ | .wadd _ _ _ _ =>
    [.chunkTransfer k x.seq, .windowCommandCompletion k x.seq]
      ++ (x.chunks.filter (fun p => decide (p.2 = .sent) && limitOver s x p.1)).map (fun p => .chunkTimeLimit k x.seq p.1)
  | .coll _ _ => [.chunkTransfer k x.seq, .collectiveCompletion (cmdDesc x).group]
  | _ => [if tileMoved c x || decide (x.status ≠ 0) then .tileCommandCompletion k x.seq else .chunkTransfer k x.seq]

/-- Chunks and completions of the engines' commands (R175, R190, R200, R203); copy commands act one at a time. -/
def engineEvents (s : State) : List UnitAct :=
  s.ctxs.flatMap (fun p =>
    let copy := (p.2.cmds.find? (fun x => decide (x.path = 1))).toList
    (copy ++ p.2.cmds.filter (fun x => decide (x.path ≠ 1))).flatMap (cmdEvents s p.1 p.2))

/-- Frames that have come in, and accepted chunks to be acknowledged (R200, R359). -/
def frameEvents (s : State) : List UnitAct :=
  (s.dev.inbox ++ s.dev.served.map (·.1)).map (fun f =>
    if [0x08, 0x09, 0x0A].contains (frType f) then .chunkReply f else .windowChunkRequest f)

/-- Reports, persist barriers, step entries and ends of contexts (R187, R305, R325, R326). -/
def contextEvents (s : State) : List UnitAct :=
  s.ctxs.filterMap (fun p =>
    let k := p.1
    let c := p.2
    if (reportDue c).isSome && atBoundary s k then some (.reportDelivery k)
    else if c.per.armed && c.per.wait.all (needMet s k 0) then some (.pbarCompletion k)
    else if c.run.live && workDone s k then some (.contextEnd k)
    else if atBoundary s k && decide (c.run.wst = .enter) && decide (c.lvl = 0) && stepEligible s k then some (.tileStepEntry k)
    else none)

/-- The seats that a launch may use, core by core. -/
def launchSeats (s : State) (l : Nat) : List (Nat × Nat) := dieList.flatMap (fun d => seatsOn s d l)

/-- What the dispatchers do for a launch: start or end it, load its image on a core, claim for a seat, ask for a steal, settle a
stop (R300, R306, R307, R310 to R313, R333). -/
def launchEvents (s : State) : List UnitAct :=
  (launchIds s).flatMap (fun l =>
    let x := s.launch l
    let seats := if x.working then launchSeats s l else []
    (if nextLaunchOf s = some l ∨ (x.st = .queued ∧ (predFailed s x.rec_.after0 ∨ predFailed s x.rec_.after1)) then [.launchStart l] else [])
    ++ (if launchOver s l then [.launchEnd l] else [])
    ++ (if x.stopping.isSome ∧ x.stopped = false then [.stopComplete l] else [])
    ++ ((seats.map (·.1)).eraseDups.filter (fun c => mayLoad s c l)).map (fun c => .microprogramImageLoad c l)
    ++ seats.flatMap (fun p => (List.range x.pools.length).filterMap (fun e =>
        if (mayClaim s p.1 p.2 l e).isSome then some (.claim p.1 p.2 l e) else none))
    ++ (seats.filter (fun p => decide (thiefLaunch s p.1 p.2 = some l)
        && s.dev.steals.all (fun t => decide (t.core ≠ p.1 ∨ t.seat ≠ p.2)))).map (fun p => .stealRequest p.1 p.2)
    ++ (if x.working then dieList.filterMap (fun d => if (victimSeat s d l).isSome then some (.preempt d l) else none) else []))

/-- Steals under way, saved contexts that may go on, images to be written (R307, R308, R313, R328). -/
def seatEvents (s : State) : List UnitAct :=
  s.dev.steals.map (fun t => if t.range.isSome then .stealGrant t.id else .stealSplit t.id)
  ++ (savedList s).filterMap (fun k => if mayResume s k && (resumeSeat s k).isSome then some (.contextResume k) else none)
  ++ ((s.banks.filter (fun p => decide (p.1 % 3 = 2) && unwritten s (p.1 / 3) p.2)).map (fun p => .contextImageWrite (p.1 / 3)))

/-- Shootdowns, bias flips, trigger lines, scans, rebindings, level samples and retire maps that can go on (R214, R349, R353, R379,
R383 to R386, R388). -/
def dieEvents (s : State) : List UnitAct :=
  s.dies.flatMap (fun p =>
    (if p.2.shoot.busy && shootDone s p.1 then [.shootdownComplete p.1] else [])
    ++ (if p.2.flip.isSome then [.biasFlipComplete p.1] else [])
    ++ p.2.remote.map (fun i => .deviceTriggerPropagation p.1 i)
    ++ (p.2.lines.filter (fun l => decide (l.2 ≠ 0))).map (fun l => .triggerAssert p.1 l.1)
    ++ (match p.2.scan with
        | some x => (if scanPressed s p.1 x then [.scanPriorityAbort p.1] else []) ++ (if scanDrained s p.1 x then [.scanRun p.1] else [])
        | none => [])
    ++ ((leavingCores s p.1).filter (rebindDue s p.1)).map (fun c => .logicalCoreRebind p.1 c)
    ++ ((p.2.mons.map (·.1)).filter (levelDue s p.1)).map (fun u => .monitorLevelSample p.1 u))
  ++ (s.cores.filter (fun p => p.2.idlePoint && decide (p.2.busyMap = 0))).map (fun p => .retireMapChange p.1)

/-- Records of aborts to be written, and key slots to be cleared (R350, R356). -/
def deviceEvents (s : State) : List UnitAct :=
  s.dev.found.map (fun a => .uncorrectableData a)
  ++ (s.dev.keys.filter (fun p => p.2.k0.isSome && p.2.k1.isSome && slotStale s p.2)).map (fun p => .keySlotClear (p.1 / 65536) (p.1 % 65536))

/-- The events of every unit, by kind. -/
def unitEvents (s : State) : List (List UnitAct) :=
  [loadEvents s, writeEvents s, barrierEvents s, contextEvents s, engineEvents s, frameEvents s, launchEvents s, seatEvents s,
   dieEvents s, stashEvents s, deviceEvents s]

/-- The event of a unit that comes next: the kinds take turns, and the events of a kind do. -/
def unitEvent (s : State) : Option UnitAct :=
  (rotated s.phase (unitEvents s)).findSome? (fun is => (rotated (s.phase / 11) is).head?)

/-- A unit does what it is its turn to do: the meaning of the event, as `exec` has it. -/
def runUnit (a : UnitAct) (s : State) : Host.Outcome State Fault Refusal :=
  match a with
  | .loadQueueArrival id => execLoadQueueArrival id s
  | .launchAccept id => execLaunchAccept id s
  | .writeStagePass id => execWriteStagePass id s
  | .storeCompletion id => execStoreCompletion id s
  | .persistArrival id => execPersistArrival id s
  | .crossDieApply id die => execCrossDieApply id die s
  | .stashWriteback ctx index => execStashWriteback ctx index s
  | .barrierInitMessage id => execBarrierInitMessage id s
  | .barrierArrivalMessage id => execBarrierArrivalMessage id s
  | .barrierReply id => execBarrierReply id s
  | .barrierCompletionMessage id => execBarrierCompletionMessage id s
  | .swbCompletion ctx seq => execSwbCompletion ctx seq s
  | .chunkTransfer ctx seq => execChunkTransfer ctx seq s
  | .windowCommandCompletion ctx seq => execWindowCommandCompletion ctx seq s
  | .collectiveCompletion group => execCollectiveCompletion group s
  | .tileCommandCompletion ctx seq => execTileCommandCompletion ctx seq s
  | .chunkReply frame => execChunkReply frame s
  | .windowChunkRequest frame => execWindowChunkRequest frame s
  | .reportDelivery ctx => execReportDelivery ctx s
  | .pbarCompletion ctx => execPbarCompletion ctx s
  | .contextEnd ctx => execContextEnd ctx s
  | .tileStepEntry ctx => execTileStepEntry ctx s
  | .launchStart launch => execLaunchStart launch s
  | .launchEnd launch => execLaunchEnd launch s
  | .stopComplete launch => execStopComplete launch s
  | .microprogramImageLoad core launch => execMicroprogramImageLoad core launch s
  | .claim core seat launch entry => execClaim core seat launch entry s
  | .stealRequest core seat => execStealRequest core seat s
  | .preempt die launch => execPreempt die launch s
  | .stealGrant id => execStealGrant id s
  | .stealSplit id => execStealSplit id s
  | .contextResume ctx => execContextResume ctx s
  | .contextImageWrite core => execContextImageWrite core s
  | .shootdownComplete die => execShootdownComplete die s
  | .biasFlipComplete die => execBiasFlipComplete die s
  | .deviceTriggerPropagation die line => execDeviceTriggerPropagation die line s
  | .retireMapChange core => execRetireMapChange core s
  | .uncorrectableData a => execUncorrectableData a.die a.source a.key a.va a.seq a.lcore s
  | .chunkTimeLimit ctx seq chunk => execChunkTimeLimit ctx seq chunk s
  | .keySlotClear group owner => execKeySlotClear group owner s
  | .scanRun die => execScanRun die s
  | .scanPriorityAbort die => execScanPriorityAbort die s
  | .logicalCoreRebind die lcore => execLogicalCoreRebind die lcore s
  | .monitorLevelSample die unit => execMonitorLevelSample die unit s
  | .triggerAssert die line => execTriggerAssert die line s

/-! Whose turn it is -/

/-- What the array of a core does next: the end or start of a call, the work in flight, or the microword the call is at. -/
def arrayNext (s : State) (core : Nat) : Option Instr :=
  match (s.core core).run with
  | none => if (s.core core).calls.isEmpty then none else some (.callStart core)
  | some r =>
    if r.stop.isSome || r.returned then some (.callEnd core)
    else if r.loading then some (.planeLoadComplete core)
    else if !r.steps.isEmpty then some (.streamStepDecision core)
    else if !r.drains.isEmpty then some (.drainComplete core)
    else decodeMicro (storeAt (s.core core) r.idx)

/-- The core after `c` among those that hold a context. -/
def coreAfter (s : State) (c : Nat) : Nat :=
  let cs := (s.ctxs.filter (fun p => p.2.run.live && !p.2.run.saved)).map (fun p => p.2.run.lcore)
  let up := cs.filter (fun x => decide (c < x))
  match (if up.isEmpty then cs else up) with
  | [] => c
  | x :: r => r.foldl min x

/-- The step of the turn: a core's cycle, also where an array or the units have nothing to do. -/
def nextStep (s : State) : Instr :=
  match s.turn with
  | .issue c => .bundleIssue c
  | .micro c => (arrayNext s c).getD (.bundleIssue c)
  | .units c => .bundleIssue (coreAfter s c)

/-- What the units do, when it is their turn and they have something to do. -/
def unitTurn (s : State) : Option UnitAct :=
  match s.turn with
  | .units _ => unitEvent s
  | _ => none

/-- Whose turn follows. -/
def turnAfter (s : State) : Turn :=
  match s.turn with
  | .issue c => .micro c
  | .micro c => .units c
  | .units c => .issue (coreAfter s c)

/-- The state after a step that the agenda did not ask for: the turn passes on, and with it the units' turn among themselves. -/
def turned (s : State) : State :=
  { s with
    turn := turnAfter s
    phase := match s.turn with | .units _ => s.phase + 1 | _ => s.phase }

end Sys2Proof.Machine
end

