-- ==== Sys2Proof/Machine/Step.lean ====
section
/-! DEFINITION. One step of the device: the head of the agenda, or the step whose turn it is (log entry 4); and the placing
of one instruction where the next step fetches it (log entry 6). -/
namespace Sys2Proof.Machine

/-- The step of the turn: what a unit does, or the instruction that `nextStep` names. -/
def turnStep (s : State) : Host.Outcome State Fault Refusal :=
  match unitTurn s with
  | some a => runUnit a s
  | none => exec (nextStep s) s

/-- One step: the head of the agenda, or the step of the turn, after which the turn passes on. -/
def step (s : State) : Host.Outcome State Fault Refusal :=
  match s.agenda with
  | i :: rest => exec i { s with agenda := rest }
  | [] =>
    match turnStep s with
    | .next s' => .next (turned s')
    | o => o

/-- `s` with one instruction, its bits numbered as the opcode table numbers them, where the next step runs it. -/
def State.withFetchWord (s : State) (nbits w : Nat) : State :=
  if nbits = 64 then placeMicro s (BitVec.ofNat 64 w) else placeBundle s (BitVec.ofNat 32 w)

end Sys2Proof.Machine
end

