-- ==== Sys2Proof/Machine/Dump.lean ====
section
/-! DEFINITION. What a dump of a stopped launch or of a halted seat holds (R337): memory at device scope, the contexts with ST and
the cut marks, and the stores that are held. A dump reads the machine and changes nothing. -/
namespace Sys2Proof.Machine

/-- The byte that an agent of the device reads at device scope: writes not yet performed there are left out (R337). -/
def dumpByte (s : State) (key : Nat) : Byte := overlayByte (s.writes.filter (fun w => w.performedAt 3)) s.mem key

/-- The memory image: global memory as it is read at device scope (R337). -/
def dumpMemory (s : State) : List Host.Cell :=
  let ks := ((s.writes.filter (fun w => w.performedAt 3)).flatMap (·.keys)).filter (fun k => !isCoreKey k)
  ks.foldl (fun m k => memWrite m k [dumpByte s k]) (s.mem.filter (fun c => !isCoreKey c.1))

/-- STAGE of a held write: 0 seat, 1 core, 2 quad, 3 die, 4 applied on some dies (R264, R337). -/
def heldStage (w : WriteRec) : Nat :=
  if w.stage < 3 then w.stage else if w.applied &&& ~~~BitVec.ofNat 32 (2 ^ w.die) = 0 then 3 else 4

/-- The granules that a write touches. -/
def WriteRec.granules (w : WriteRec) : List Nat := (w.keys.map (· / 64)).eraseDups

/-- The virtual address of a granule of a write: pages are whole granules (R337; log entry 106). -/
def granuleVa (w : WriteRec) (g : Nat) : W64 :=
  BitVec.ofNat 64 (w.va.toNat + 64 * g - w.keys.headD 0)

/-- The pending-store entry of one granule of a held write (R337). -/
def pendingEntry (w : WriteRec) (g : Nat) : BitVec 768 :=
  let at_ := fun (i : Nat) => w.cells.find? (fun c => decide (c.1 = 64 * g + i))
  let data := ofBytes ((List.range 64).map (fun i => match at_ i with | some c => c.2 | none => 0))
  let mask := (List.range 64).foldl (fun m i => if (at_ i).isSome then m + 2 ^ i else m) 0
  let seq := if w.agent = agentOf w.ctx 0 then 0 else w.seq.toNat
  BitVec.ofNat 768 ((granuleVa w g).toNat + heldStage w * 2 ^ 64 + seq * 2 ^ 128 + w.applied.toNat * 2 ^ 160 + mask * 2 ^ 192
    + data * 2 ^ 256)

/-- The pending stores of a context: its writes that have not been performed at device scope, oldest first (R337). -/
def pendingStores (s : State) (k : Nat) : List (BitVec 768) :=
  (s.writes.filter (fun w => decide (w.agent ≠ 0) && decide (w.ctx = k) && !w.performedAt 3)).flatMap (fun w =>
    w.granules.map (pendingEntry w))

/-- One context of a dump: its image in the layout of R330, ST, the cut marks and its pending stores. -/
structure DumpCtx where
  image  : List Byte
  st     : Nat
  atCut  : Bool
  missed : Bool
  stores : List (BitVec 768)
  deriving DecidableEq, Repr

/-- A dump (R337). -/
structure Dump where
  mem  : List Host.Cell
  ctxs : List (Nat × DumpCtx)
  deriving DecidableEq, Repr

/-- A context as a dump shows it; one that has been saved is idle in ST (R335). -/
def dumpCtx (s : State) (k : Nat) : DumpCtx :=
  let c := s.ctx k
  { image := imageBytes s k
    st := if c.run.saved then 0 else stOf s c.run.lcore c.run.bank
    atCut := c.dbg.at_, missed := c.dbg.missed, stores := pendingStores s k }

/-- The dump of a stopped launch (R333, R337). -/
def dumpLaunch (s : State) (l : Nat) : Option Dump :=
  if (s.launch l).stopped then
    some { mem := dumpMemory s
           ctxs := ((ctxsOf s l).filter (fun k => (s.ctx k).run.live)).map (fun k => (k, dumpCtx s k)) }
  else none

/-- The dump of a halted seat (R322, R337). -/
def dumpSeat (s : State) (core seat : Nat) : Option Dump :=
  let k := s.bankOf core seat
  if (s.ctx k).run.halted then some { mem := dumpMemory s, ctxs := [(k, dumpCtx s k)] } else none

end Sys2Proof.Machine
end

