-- ==== Sys2Proof/Safety.lean ====
section
/-! DEFINITION. What a safe run keeps (the canonical form of memory), and the words in which the statements speak: a register
write made pending, a register write that clashes with none, an effect put off to the end of the bundle, an entry of a queue. -/
namespace Sys2Proof

/-- The level a context holds is one of R120. -/
def legalLevel (c : Machine.Ctx) : Prop := c.lvl ≤ 2

/-- Memory and the persist domain are canonical. -/
def canonicalMemory (s : Machine.State) : Prop := Machine.Memory.wf s.mem = true ∧ Machine.Memory.wf s.nv = true

namespace Machine

/-- No pending write of the issuing level names this register with this delay, so that a write of that latency breaks no
schedule (R19). -/
def State.free (s : State) (cls kind reg lat : Nat) : Prop :=
  ∀ p ∈ s.my.pend, ¬(p.cls = cls ∧ p.kind = kind ∧ p.reg = reg ∧ p.delay = lat)

/-- `s` with one more write pending at the issuing level (R18). -/
def State.write (s : State) (cls kind reg lat : Nat) (v : Wide) : State :=
  s.setMy (s.my.setPend (s.my.pend ++ [{ cls := cls, kind := kind, reg := reg, delay := lat, value := v }]))

/-- A scalar destination takes a write of this latency: s0 always does. -/
def State.freeS (s : State) (d : BitVec 6) (lat : Nat) : Prop := d = 0 ∨ s.free 1 0 d.toNat lat
/-- `s` with a scalar write pending; s0 drops it (R15). -/
def State.writeS (s : State) (d : BitVec 6) (lat : Nat) (v : W64) : State :=
  if d = 0 then s else s.write 1 0 d.toNat lat (v.setWidth 1024)

/-- A vector destination takes a write of this latency. -/
def State.freeV (s : State) (sl : VSlot) (d lat : Nat) : Prop := s.free (VSlot.cls sl) 0 d lat
/-- `s` with a vector write pending. -/
def State.writeV (s : State) (sl : VSlot) (d lat : Nat) (v : Wide) : State := s.write (VSlot.cls sl) 0 d lat v

/-- A mask destination takes a write of this latency: k0 always does. -/
def State.freeK (s : State) (sl : VSlot) (d : BitVec 5) (lat : Nat) : Prop := d = 0 ∨ s.free (VSlot.cls sl) 1 d.toNat lat
/-- `s` with a mask write pending; k0 drops it (R15). -/
def State.writeK (s : State) (sl : VSlot) (d : BitVec 5) (lat : Nat) (v : W32) : State :=
  if d = 0 then s else s.write (VSlot.cls sl) 1 d.toNat lat (v.setWidth 1024)

/-- `s` with an effect added for the end of the bundle in issue. -/
def State.later (s : State) (fx : EndFx) : State :=
  s.setMy { s.my with iss := { s.my.iss with fx := s.my.iss.fx ++ [fx] } }

/-- `s` with an entry appended to a store queue of the issuing context. -/
def State.queued (s : State) (w : Nat) (e : WEntry) : State :=
  s.setMy { s.my with q := { s.my.q with sq := fset s.my.q.sq w (fget [] s.my.q.sq w ++ [e]) } }

end Machine

end Sys2Proof
end

