-- ==== Sys2Proof/Certificates/Slice0/Obligations.lean ====
section
/-! DEFINITION. The statements for the provers, drawn from the numbered rules of spec/. Each docstring names the rules it rests on,
and the log entry where a clause is the model's own choice. -/
open Sys2Proof Sys2Proof.Machine

/-! The scalar slot -/

/-- An SA word: destination, operands, width code, latency, and its function on n-bit operands (R103, R104, R106, R107). -/
structure Say.SaRow where
  d   : BitVec 6
  a   : BitVec 6
  b   : BitVec 6
  w   : BitVec 2
  lat : Nat
  op  : (n : Nat) → BitVec n → BitVec n → BitVec n

/-- The number 1 where a relation holds, else 0 (R107). -/
def Say.truth {n : Nat} (b : Bool) : BitVec n := if b then 1 else 0

/-- The SA words but `cmov`, from the tables of R104, R106 and R107; a word without a b field reads s0 in its place. -/
def Say.saRow : Instr → Option Say.SaRow
  | .add d a b w => some ⟨d, a, b, w, 1, fun _ x y => x + y⟩
  | .sub d a b w => some ⟨d, a, b, w, 1, fun _ x y => x - y⟩
  | .and d a b w => some ⟨d, a, b, w, 1, fun _ x y => x &&& y⟩
  | .or d a b w => some ⟨d, a, b, w, 1, fun _ x y => x ||| y⟩
  | .xor d a b w => some ⟨d, a, b, w, 1, fun _ x y => x ^^^ y⟩
  | .andn d a b w => some ⟨d, a, b, w, 1, fun _ x y => x &&& ~~~y⟩
  | .shl d a b w => some ⟨d, a, b, w, 1, fun n x y => x <<< (y.toNat % n)⟩
  | .shr d a b w => some ⟨d, a, b, w, 1, fun n x y => x >>> (y.toNat % n)⟩
  | .sra d a b w => some ⟨d, a, b, w, 1, fun n x y => x.sshiftRight (y.toNat % n)⟩
  | .rol d a b w => some ⟨d, a, b, w, 1, fun n x y => x.rotateLeft (y.toNat % n)⟩
  | .mul d a b w => some ⟨d, a, b, w, 3, fun _ x y => x * y⟩
  | .mulh d a b w => some ⟨d, a, b, w, 3, fun n x y => BitVec.ofInt n (x.toInt * y.toInt / 2 ^ n)⟩
  | .mulhn d a b w => some ⟨d, a, b, w, 3, fun n x y => BitVec.ofNat n (x.toNat * y.toNat / 2 ^ n)⟩
  | .div d a b w => some ⟨d, a, b, w, 18, fun n x y => if y = 0 then BitVec.allOnes n else x.sdiv y⟩
  | .divn d a b w => some ⟨d, a, b, w, 18, fun n x y => if y = 0 then BitVec.allOnes n else x / y⟩
  | .rem d a b w => some ⟨d, a, b, w, 18, fun _ x y => if y = 0 then x else x.srem y⟩
  | .remn d a b w => some ⟨d, a, b, w, 18, fun _ x y => if y = 0 then x else x % y⟩
  | .min d a b w => some ⟨d, a, b, w, 1, fun _ x y => if x.sle y then x else y⟩
  | .max d a b w => some ⟨d, a, b, w, 1, fun _ x y => if x.sle y then y else x⟩
  | .minn d a b w => some ⟨d, a, b, w, 1, fun _ x y => if x.ule y then x else y⟩
  | .maxn d a b w => some ⟨d, a, b, w, 1, fun _ x y => if x.ule y then y else x⟩
  | .clz d a w => some ⟨d, a, 0, w, 1,
      fun n x _ => BitVec.ofNat n (((List.range n).reverse.takeWhile (fun i => !x.getLsbD i)).length)⟩
  | .popc d a w => some ⟨d, a, 0, w, 1, fun n x _ => BitVec.ofNat n (((List.range n).filter (fun i => x.getLsbD i)).length)⟩
  | .ctz d a w => some ⟨d, a, 0, w, 1,
      fun n x _ => BitVec.ofNat n (((List.range n).takeWhile (fun i => !x.getLsbD i)).length)⟩
  | .ceq d a b w => some ⟨d, a, b, w, 1, fun _ x y => Say.truth (x == y)⟩
  | .cne d a b w => some ⟨d, a, b, w, 1, fun _ x y => Say.truth (x != y)⟩
  | .clt d a b w => some ⟨d, a, b, w, 1, fun _ x y => Say.truth (x.slt y)⟩
  | .cle d a b w => some ⟨d, a, b, w, 1, fun _ x y => Say.truth (x.sle y)⟩
  | .cltn d a b w => some ⟨d, a, b, w, 1, fun _ x y => Say.truth (x.ult y)⟩
  | .clen d a b w => some ⟨d, a, b, w, 1, fun _ x y => Say.truth (x.ule y)⟩
  | _ => none

/-- The result an SA word writes (R103): 64 bits for w = 00, else the low halves, sign-extended for w = 01. -/
def Say.saResult (w : BitVec 2) (op : (n : Nat) → BitVec n → BitVec n → BitVec n) (x y : W64) : W64 :=
  if w = 0 then op 64 x y
  else if w = 1 then (op 32 (x.setWidth 32) (y.setWidth 32)).signExtend 64
  else (op 32 (x.setWidth 32) (y.setWidth 32)).setWidth 64

/-- Every SA word but `cmov` completes with its result pending on d at its latency, and changes nothing else; s0 drops it. -/
def Say.ScalarWordsWriteTheirResult : Prop :=
  ∀ (i : Instr) (r : Say.SaRow) (s : State) (x y : W64),
    Say.saRow i = some r → r.w ≠ 3 → rdS s.my 1 r.a.toNat = .ok x → rdS s.my 1 r.b.toNat = .ok y → s.freeS r.d r.lat →
    exec i s = .next (s.writeS r.d r.lat (Say.saResult r.w r.op x y))

/-- `cmov` (R105; op 0x19, SA, latency 1): A, extended per w, goes to d when B is not 0; otherwise nothing happens at all, whatever
writes are pending on d. -/
def Obligations.CmovWritesOnlyWhenTheConditionHolds : Prop :=
  ∀ (d a b : BitVec 6) (w : BitVec 2) (s : State) (x y : W64),
    w ≠ 3 → rdS s.my 1 a.toNat = .ok x → rdS s.my 1 b.toNat = .ok y →
    (∃ wd : W32, encodeWord (.cmov d a b w) = some wd ∧ wd.extractLsb' 28 3 = 1 ∧ wd.extractLsb' 20 8 = 0x19) ∧
    (Say.saResult w (fun _ _ v => v) x y ≠ 0 → s.freeS d 1 →
      exec (.cmov d a b w) s = .next (s.writeS d 1 (Say.saResult w (fun _ u _ => u) x y))) ∧
    (Say.saResult w (fun _ _ v => v) x y = 0 → exec (.cmov d a b w) s = .next s)

/-- An SB word: destination, operand, immediate, and its function on 64-bit values (R107, R108). -/
def Say.sbRow : Instr → Option (BitVec 6 × BitVec 6 × BitVec 8 × (W64 → W64 → W64))
  | .addi d a imm => some (d, a, imm, fun x i => x + i)
  | .andi d a imm => some (d, a, imm, fun x i => x &&& i)
  | .ori d a imm => some (d, a, imm, fun x i => x ||| i)
  | .xori d a imm => some (d, a, imm, fun x i => x ^^^ i)
  | .shli d a imm => some (d, a, imm, fun x _ => BitVec.ofNat 64 (x.toNat * 2 ^ imm.toNat))
  | .shri d a imm => some (d, a, imm, fun x _ => BitVec.ofNat 64 (x.toNat / 2 ^ imm.toNat))
  | .srai d a imm => some (d, a, imm, fun x _ => BitVec.ofInt 64 (x.toInt / 2 ^ imm.toNat))
  | .ceqi d a imm => some (d, a, imm, fun x i => Say.truth (x == i))
  | .clti d a imm => some (d, a, imm, fun x i => Say.truth (x.slt i))
  | .cltni d a imm => some (d, a, imm, fun x i => Say.truth (x.ult i))
  | _ => none

/-- Every well-formed SB word completes with its result pending on d at latency 1, the immediate sign-extended. -/
def Say.ScalarImmediateWordsWriteTheirResult : Prop :=
  ∀ (i : Instr) (d a : BitVec 6) (imm : BitVec 8) (f : W64 → W64 → W64) (s : State) (x : W64),
    Say.sbRow i = some (d, a, imm, f) → i.wf → rdS s.my 1 a.toNat = .ok x → s.freeS d 1 →
    exec i s = .next (s.writeS d 1 (f x (imm.signExtend 64)))

/-- `li` and `lis` (R109; ops 0x3A and 0x3B, latency 1), whose fifth word of the example is 0x13B24DEF; a `lis` of s0 reads 0 and
drops its result. -/
def Obligations.ConstantWordsBuildConstants : Prop :=
  (∀ (d : BitVec 6) (imm : BitVec 14) (s : State), s.freeS d 1 →
    exec (.li d imm) s = .next (s.writeS d 1 (imm.setWidth 64)) ∧
    (∀ x, rdS s.my 1 d.toNat = .ok x →
      exec (.lis d imm) s = .next (s.writeS d 1 (BitVec.ofNat 64 (x.toNat * 2 ^ 14) ||| imm.setWidth 64)))) ∧
  (∀ (imm : BitVec 14) (s : State), rdS s.my 1 0 = .ok 0 ∧ exec (.lis 0 imm) s = .next s) ∧
  (∀ (d : BitVec 6) (imm : BitVec 14),
    (∃ wd : W32, encodeWord (.li d imm) = some wd ∧ wd.extractLsb' 28 3 = 1 ∧ wd.extractLsb' 20 8 = 0x3A) ∧
    (∃ wd : W32, encodeWord (.lis d imm) = some wd ∧ wd.extractLsb' 28 3 = 1 ∧ wd.extractLsb' 20 8 = 0x3B)) ∧
  encodeWord (.lis 9 0x0DEF) = some 0x13B24DEF

/-- What a scalar operand reads (R23, R26, R102): s0 is 0, fields 1 to 55 are registers, fields 56 to 63 are queue heads, which
give bits 63:0 of an entry that has arrived, hold for one that has not, and trap for a faulted one or an empty queue. -/
def Say.ScalarOperandsReadRegistersAndHeads : Prop :=
  ∀ (c : Ctx) (cls : Nat),
    rdS c cls 0 = .ok 0 ∧
    (∀ n, 1 ≤ n → n ≤ 55 → rdS c cls n = .ok (fget 0 c.regs.s n)) ∧
    (∀ q e r, q < 8 → fget [] c.q.lq q = e :: r →
      (e.st = .arrived → rdS c cls (56 + q) = .ok (e.data.setWidth 64)) ∧
      (e.st = .reserved → rdS c cls (56 + q) = .error (.hold .head)) ∧
      (e.st = .faulted → rdS c cls (56 + q) = .error (.trap { rank := 11, cls := cls, code := 0x13, tval := e.faddr }))) ∧
    (∀ q, q < 8 → fget [] c.q.lq q = [] →
      rdS c cls (56 + q) = .error (.trap { rank := 12, cls := cls, code := 0x05, tval := BitVec.ofNat 64 q }))

/-- `push` (R111; op 0x41): an entry of 8 bytes, a[63:0] at issue, goes behind its store queue; a may be a head; no register is
written. -/
def Obligations.PushAppendsEightBytes : Prop :=
  ∀ (w : BitVec 2) (a : BitVec 6) (s : State) (x : W64), rdS s.my 1 a.toNat = .ok x →
    (∃ wd : W32, encodeWord (.push w a) = some wd ∧ wd.extractLsb' 28 3 = 1 ∧ wd.extractLsb' 20 8 = 0x41) ∧
    ∃ t, exec (.push w a) s = .next t ∧ t = s.queued w.toNat { data := x.setWidth 1024, count := 8 } ∧
      t.my.regs = s.my.regs ∧ t.my.pend = s.my.pend ∧
      fget [] t.my.q.sq w.toNat = fget [] s.my.q.sq w.toNat ++ [{ data := x.setWidth 1024, count := 8 }] ∧
      (∀ v, v ≠ w.toNat → fget [] t.my.q.sq v = fget [] s.my.q.sq v)

/-- `s` with a filled value no longer keeping the standby bank, where that is its place (R42; log entry 82). -/
def Say.unkept (s : State) (id : Nat) (e : SpillEntry) : State := if e.place = .standby then s.later (.filled id) else s

/-- `get`, `spill` and `fill` (R42, R43, R110, R123): a value of another file at latency 2; a value put away at the end of the bundle
where a place has room, SPILL_EXHAUSTED where none has; a value found at latency 8, ILLEGAL_OP where the map holds none of that
width. -/
def Say.ScalarMovesCompleteWithTheirValue : Prop :=
  (∀ (d : BitVec 6) (f : BitVec 3) (n : BitVec 5) (l : BitVec 6) (s : State), Instr.wf (.get d f n l) → s.freeS d 2 →
    exec (.get d f n l) s = .next (s.writeS d 2
      (if f = 0 then ((fget 0 s.my.regs.va n.toNat) >>> (64 * l.toNat)).setWidth 64
       else if f = 1 then ((fget 0 s.my.regs.vb n.toNat) >>> (64 * l.toNat)).setWidth 64
       else if f = 2 then (if l = 0 then fget 0 s.my.regs.ca n.toNat
         else (fget 0 s.my.regs.sa (8 * n.toNat + (l.toNat - 1))).signExtend 64)
       else if f = 3 then (if l = 0 then fget 0 s.my.regs.cb n.toNat
         else (fget 0 s.my.regs.sb (8 * n.toNat + (l.toNat - 1))).signExtend 64)
       else if f = 4 then (if l = 0 then fget 0 s.my.regs.p n.toNat else fget 0 s.my.regs.psh n.toNat)
       else ((fget 0 s.my.regs.x n.toNat) >>> (64 * l.toNat)).setWidth 64))) ∧
  (∀ (id : BitVec 8) (a : BitVec 6) (s : State) (x : W64), rdS s.my 1 a.toNat = .ok x →
    (∀ e, spillEntry s (stagedSpills s.my) id.toNat (x.setWidth 1024) false = some e →
      exec (.spill id a) s = .next (s.later (.spill id.toNat e)) ∧ e.value = x.setWidth 1024 ∧ e.wide = false ∧
      fget? (endFx s (.spill id.toNat e)).my.q.spill id.toNat = some e) ∧
    (spillEntry s (stagedSpills s.my) id.toNat (x.setWidth 1024) false = none →
      exec (.spill id a) s = .next (takeTrap s { rank := 14, cls := 1, code := 0x0F, tval := id.setWidth 64 }))) ∧
  (∀ (d : BitVec 6) (id : BitVec 8) (s : State),
    (∀ (e : SpillEntry), fget? s.my.q.spill id.toNat = some e → e.wide = false → s.freeS d 8 →
      exec (.fill d id) s = .next ((Say.unkept s id.toNat e).writeS d 8 (e.value.setWidth 64))) ∧
    ((∀ e, fget? s.my.q.spill id.toNat = some e → e.wide = true) →
      exec (.fill d id) s =
        .next (takeTrap s { rank := 7, cls := 1, code := 0x02, tval := BitVec.ofNat 64 (0x25200 + id.toNat) })))


/-! Control flow, levels and system registers -/

/-- The word stands in no delay position, and, for a branch, not among the last three bundles of an active body (R31, R37). -/
def Say.mayStand (c : Ctx) (branch : Bool) : Prop :=
  c.flow.delay = 0 ∧ (branch = true → ∀ l ∈ c.flow.loops, c.flow.npc0 ∉ (l.buf.reverse.take 3).map (·.addr))

/-- `s` with the branch of its bundle decided: the target when it is taken, and whether fetch bubbles, which it always does in a
determinism-flagged context (R30). -/
def Say.branched (s : State) (target : Option W64) (bubble : Bool) : State :=
  s.setMy { s.my with iss := { s.my.iss with br := some { target := target, bubble := bubble || s.my.run.det } } }

/-- The target of an SD branch: the bundle's own address plus 4 · disp13 (R112). -/
def Say.sdTarget (s : State) (disp : BitVec 13) : W64 := s.my.flow.npc0 + BitVec.ofInt 64 (4 * disp.toInt)

/-- A conditional SD branch: its register, hint and displacement, and the values on which it is taken (R112). -/
def Say.condRow : Instr → Option (BitVec 6 × BitVec 1 × BitVec 13 × (W64 → Bool))
  | .bz a h disp => some (a, h, disp, fun x => x == 0)
  | .bnz a h disp => some (a, h, disp, fun x => x != 0)
  | .blz a h disp => some (a, h, disp, fun x => decide (x.toInt < 0))
  | .bgez a h disp => some (a, h, disp, fun x => decide (0 ≤ x.toInt))
  | _ => none

/-- `bz`, `bnz`, `blz`, `bgez` and `br` complete with their target fixed; a wrong hint bubbles, `br` never does by itself. -/
def Say.BranchesNameTheirTarget : Prop :=
  (∀ (i : Instr) (a : BitVec 6) (h : BitVec 1) (disp : BitVec 13) (p : W64 → Bool) (s : State) (x : W64),
    Say.condRow i = some (a, h, disp, p) → Say.mayStand s.my true → rdS s.my 1 a.toNat = .ok x →
    exec i s = .next (Say.branched s (if p x then some (Say.sdTarget s disp) else none) (p x != (h == 1)))) ∧
  (∀ (h : BitVec 1) (disp : BitVec 13) (s : State), Say.mayStand s.my true →
    exec (.br h disp) s = .next (Say.branched s (some (Say.sdTarget s disp)) false))

/-- `call`, `jr` and `jlr` complete with their target fixed and, for `call` and `jlr`, the return point pending on s55 at latency 1:
the address after the second delay bundle. A jump to a misaligned target traps ALIGN instead (R29, R112, R113). -/
def Say.CallsAndJumpsLinkAndRedirect : Prop :=
  ∀ (s : State), Say.mayStand s.my true →
    let back := nextAddr s s.me (nextAddr s s.me (s.my.flow.npc0 + BitVec.ofNat 64 (4 * s.my.iss.len)))
    (∀ (h : BitVec 1) (disp : BitVec 13), s.free 1 0 55 1 →
      exec (.call h disp) s = .next (Say.branched (s.writeS 55 1 back) (some (Say.sdTarget s disp)) false)) ∧
    (∀ (a : BitVec 6) (x : W64), rdS s.my 1 a.toNat = .ok x → x.toNat % 4 = 0 →
      exec (.jr a) s = .next (Say.branched s (some x) true) ∧
      (s.free 1 0 55 1 → exec (.jlr a) s = .next (Say.branched (s.writeS 55 1 back) (some x) true))) ∧
    (∀ (a : BitVec 6) (x : W64), rdS s.my 1 a.toNat = .ok x → x.toNat % 4 ≠ 0 →
      exec (.jr a) s = .next (takeTrap s { rank := 8, cls := 1, code := 0x0A, tval := x }) ∧
      exec (.jlr a) s = .next (takeTrap s { rank := 8, cls := 1, code := 0x0A, tval := x }))

/-- `loop` and `lexit` (R33, R36, R115, R116): a loop one level inside the innermost, whose body ends within the enclosing one, is opened
at the end of its bundle with the count of its register, or skipped where that is 0; before its body is framed it holds for the framing
time; a loop that breaks those conditions traps ILLEGAL_OP. `lexit` of an active level marks it and every level inside it as finishing at
the end of its bundle, of another it traps. -/
def Say.LoopsOpenSkipAndFinish : Prop :=
  ∀ (s : State), Say.mayStand s.my false →
    (∀ (lv : BitVec 3) (a : BitVec 6) (body : BitVec 11) (x : W64), rdS s.my 1 a.toNat = .ok x →
      let start := s.my.flow.npc0 + BitVec.ofNat 64 (4 * s.my.iss.len)
      let buf := frameBody s body.toNat start
      let words := (buf.map (·.words)).sum
      let ends := bodyEnd start buf
      let ok := lv.toNat = s.my.flow.loops.length ∧ lv.toNat < 6 ∧ body ≠ 0 ∧
        ∀ o, s.my.flow.loops.getLast? = some o → ends.1.toNat ≤ o.last.toNat
      (s.my.flow.framed = false → 0 < words →
        exec (.loop lv a body) s = .next { s with held := some (.framing ((words + 15) / 16)) }) ∧
      (s.my.flow.framed = true ∨ words = 0 →
        (ok → exec (.loop lv a body) s = .next (s.later
          (if x.setWidth 32 = (0 : W32) then .loopSkip ends.2
           else .loopOpen lv.toNat { start := start, last := ends.1, after := ends.2, nbody := body.toNat,
                                     rem := (x.setWidth 32).toNat, iter := 0, finish := false, buf := buf }))) ∧
        (¬ ok → exec (.loop lv a body) s =
          .next (takeTrap s { rank := 7, cls := 1, code := 0x02, tval := BitVec.ofNat 64 (0x21200 + lv.toNat) })))) ∧
    (∀ (lv : BitVec 3),
      (lv.toNat < s.my.flow.loops.length → exec (.lexit lv) s = .next (s.later (.lexit lv.toNat))) ∧
      (s.my.flow.loops.length ≤ lv.toNat → exec (.lexit lv) s =
        .next (takeTrap s { rank := 7, cls := 1, code := 0x02, tval := BitVec.ofNat 64 (0x23200 + lv.toNat) })))

/-- What the end of a bundle makes of `loop` and `lexit` (R33, R36): an opened loop is the innermost, a skipped one is followed by the
bundle after its body, and the levels from the lowest one marked inward are finishing when the loop end is judged. -/
def Say.LoopWordsActAtTheEndOfTheirBundle : Prop :=
  ∀ (c : Ctx),
    (∀ lv l, c.iss.fx = [.loopOpen lv l] → (nextFlow c).loops = (loopEndOf c).2.1 ++ [l]) ∧
    (∀ a, c.iss.fx = [.loopSkip a] → (loopEndOf c).2.2 = none → c.flow.npc1 = 1 → (nextFlow c).npc0 = a) ∧
    (∀ n, c.iss.fx = [.lexit n] → ∀ (i : Nat) (l : LoopLvl), c.flow.loops[i]? = some l →
      (markLoops c)[i]? = some (if n ≤ i then { l with finish := true } else l)) ∧
    (markLoops c).length = c.flow.loops.length ∧
    loopEndOf c = (let e := loopEnd c.flow.npc0 (markLoops c).reverse; (e.1, e.2.1.reverse, e.2.2))

/-- The control words, and whether each is a branch (R31, R37). -/
def Say.controlRow : Instr → Option Bool
  | .bz _ _ _ | .bnz _ _ _ | .blz _ _ _ | .bgez _ _ _ | .br _ _ | .call _ _ | .jr _ | .jlr _ => some true
  | .loop _ _ _ | .lexit _ | .tret | .exit => some false
  | _ => none

/-- A control word in a delay position, and a branch among the last three bundles of an active body, trap DS_BRANCH instead (R31, R37). -/
def Say.ControlWordsTrapWhereTheyMayNotStand : Prop :=
  ∀ (i : Instr) (br : Bool) (s : State), Say.controlRow i = some br →
    (s.my.flow.delay ≠ 0 →
      exec i s = .next (takeTrap s { rank := 4, cls := 1, code := 0x04, tval := s.my.flow.braddr })) ∧
    (∀ l, s.my.flow.delay = 0 → br = true →
      s.my.flow.loops.find? (fun l => ((l.buf.reverse.take 3).map (·.addr)).contains s.my.flow.npc0) = some l →
      exec i s = .next (takeTrap s { rank := 4, cls := 1, code := 0x04, tval := l.last }))

/-- Where the innermost loop ends: the count falls, the strides of the level are added to the address registers that have one,
and the next bundle is the body's first, or the one after it once the count is used up or the level is finishing (R34, R36). -/
def Say.LoopEndsGoBackUntilTheCountIsUsed : Prop :=
  ∀ (c : Ctx) (l : LoopLvl) (outer : List LoopLvl),
    c.flow.loops = outer ++ [l] → l.last = c.flow.npc0 → c.iss.fx = [] → c.iss.br = none → c.flow.npc1 = 1 →
    (l.finish = false → 1 < l.rem →
      (nextFlow c).npc0 = l.start ∧
      (nextFlow c).loops = outer ++ [{ l with rem := l.rem - 1, iter := l.iter + 1 }] ∧
      (loopEndOf c).1 = [outer.length] ∧
      (∀ r, r < 16 → fget 0 c.regs.sa (8 * r + outer.length) ≠ 0 →
        ({ cls := 5, reg := r, kind := 0, delay := 1,
           value := (fget 0 c.regs.ca r + (fget 0 c.regs.sa (8 * r + outer.length)).signExtend 64).setWidth 1024 } : Pend) ∈ loopPends c) ∧
      (∀ p ∈ loopPends c, (p.cls = 5 → fget 0 c.regs.sa (8 * p.reg + outer.length) ≠ 0) ∧
        (p.cls = 6 → fget 0 c.regs.sb (8 * p.reg + outer.length) ≠ 0) ∧ (p.cls = 5 ∨ p.cls = 6))) ∧
    ((l.finish = true ∨ l.rem ≤ 1) → (∀ o ∈ outer, o.last ≠ c.flow.npc0) →
      (nextFlow c).npc0 = l.after ∧ (nextFlow c).loops = outer)

/-- What a hold of a word becomes (R44, R315): the bundle holds, or in a stamped context at program level STAMP_OVERRUN is taken, the
code of the hold in its detail. -/
def Say.holds (s : State) (h : Hold) (code : Nat) : State :=
  if s.my.stamped then takeTrap s { rank := 5, cls := 0, code := 0x10, tval := stampTval s.my code } else { s with held := some h }

/-- `wait`, `frame` and `idle`: `wait` completes when each counter is at or below its immediate, 31 placing no bound, and holds
otherwise; where it waited for a counter to be 0, the context's later accesses read nothing older than its present moment (R276).
`idle` completes once an event has reached the seat, and holds before; `frame` makes FRAME 0 at the end of its bundle's seat cycle, which
otherwise counts it at program level (R117, R128, R129, R315). -/
def Say.WaitsCompleteWhenTheirConditionHolds : Prop :=
  ∀ (s : State),
    (∀ (ld st cp tl : BitVec 5),
      let met := (ld = 31 ∨ s.my.q.ld ≤ ld.toNat) ∧ (st = 31 ∨ s.my.q.st ≤ st.toNat) ∧
        (cp = 31 ∨ s.my.q.cp ≤ cp.toNat) ∧ (tl = 31 ∨ s.my.q.tl ≤ tl.toNat)
      (met → exec (.wait ld st cp tl) s =
        .next (if ld = 0 ∨ st = 0 ∨ cp = 0 ∨ tl = 0 then raiseFloor s s.me (List.range 6) false else s)) ∧
      (¬ met → exec (.wait ld st cp tl) s = .next (Say.holds s .waitCount 2))) ∧
    (∀ (p : Nat), p < 6 → fget 0 (raiseFloor s s.me (List.range 6) false).my.q.floor p = s.ticks) ∧
    (s.my.flow.wake = true → exec .idle s = .next s) ∧
    (s.my.flow.wake = false → exec .idle s = .next (Say.holds s .idle 7)) ∧
    exec .frame s = .next (s.later .frame) ∧
    (∀ old c : Ctx,
      (.frame ∈ old.iss.fx → (seatCycle old c).ctr.frame = 0) ∧
      (.frame ∉ old.iss.fx → (seatCycle old c).ctr.frame = if old.lvl = 0 then old.ctr.frame + 1 else old.ctr.frame))

/-- The no-operation words change nothing (R130, R135, R155, R173, R216). -/
def Say.IdleWordsChangeNothing : Prop :=
  ∀ (s : State) (v : VSlot) (k : CSlot),
    exec .nop s = .next s ∧ exec (.vnop v) s = .next s ∧ exec .mnop s = .next s ∧ exec (.cnop k) s = .next s ∧
    exec .xnop s = .next s

/-- `pref` (R206; form CA): no visible effect, whatever the address and the counters; bits 16:14 are zero, and a word in which they are
not is refused at decode. -/
def Obligations.PrefetchHasNoVisibleEffect : Prop :=
  (∀ (s : State) (k : CSlot) (base : BitVec 4) (disp : BitVec 14), exec (.pref k base disp) s = .next s) ∧
  (∀ (k : CSlot) (base : BitVec 4) (disp : BitVec 14), ∃ wd : W32, encodeWord (.pref k base disp) = some wd ∧
    wd.extractLsb' 21 7 = 0x54 ∧ wd.extractLsb' 17 4 = base ∧ wd.extractLsb' 14 3 = 0 ∧ wd.extractLsb' 0 14 = disp) ∧
  (∀ wd : W32, (wd.extractLsb' 28 3 = 5 ∨ wd.extractLsb' 28 3 = 6) → wd.extractLsb' 21 7 = 0x54 → wd.extractLsb' 14 3 ≠ 0 →
    judgeWord wd = .error 2)

/-- `tret`, `exit` and `fwcall` complete where their rules let them, and ask for their effect at the end of the bundle; below and
above their levels they trap; `tret` and `exit` hold for pending writes, `exit` for arrivals too; `tret` traps TRET_STATE on a saved
STATUS it does not accept, `exit` raises a stored barrier fault (R125 to R127, R168). A hold of `tret` in a stamped context overruns (log
entry 80). -/
def Say.ReturnsAndExitsWaitForTheirBundle : Prop :=
  ∀ (s : State) (service : BitVec 16),
    (Say.mayStand s.my false → s.my.lvl ≠ 0 → s.my.pend = [] →
      (s.my.lvl = 1 → tretOk s.my s.my.sys.estatus = true) → exec .tret s = .next (s.later .tret)) ∧
    (Say.mayStand s.my false → s.my.lvl = 0 → exec .tret s = .next (takeTrap s { rank := 6, cls := 1, code := 0x03, tval := 0 })) ∧
    (Say.mayStand s.my false → s.my.lvl ≠ 0 → s.my.pend ≠ [] → s.my.run.stmp = false →
      exec .tret s = .next { s with held := some .drain }) ∧
    (Say.mayStand s.my false → s.my.lvl ≠ 0 → s.my.pend ≠ [] → s.my.run.stmp = true →
      exec .tret s = .next (takeTrap s { rank := 5, cls := 0, code := 0x10, tval := stampTval s.my 7 })) ∧
    (Say.mayStand s.my false → s.my.lvl = 1 → s.my.pend = [] → tretOk s.my s.my.sys.estatus = false →
      exec .tret s = .next (takeTrap s { rank := 19, cls := 1, code := 0x15, tval := s.my.sys.estatus })) ∧
    (Say.mayStand s.my false → s.my.lvl ≠ 0 →
      exec .exit s = .next (takeTrap s { rank := 7, cls := 1, code := 0x02, tval := 0x27200 })) ∧
    (Say.mayStand s.my false → s.my.lvl = 0 →
      let arrived := ∀ p ∈ s.my.q.lq, ∀ e ∈ p.2, e.st ≠ .reserved
      (¬ arrived → exec .exit s = .next (Say.holds s .other 7)) ∧
      (arrived → s.my.pend ≠ [] → exec .exit s = .next (Say.holds s .drain 7)) ∧
      (arrived → s.my.pend = [] →
        (∀ f, s.my.barFault = some f → exec .exit s = .next (takeTrap s { rank := 16, cls := 1, code := 0x16, tval := f })) ∧
        (s.my.barFault = none → exec .exit s = .next (s.later .exit)))) ∧
    (s.my.lvl ≠ 2 → exec (.fwcall service) s = .next (s.later (.fwcall (service.setWidth 64)))) ∧
    (s.my.lvl = 2 → exec (.fwcall service) s = .next (takeTrap s { rank := 7, cls := 1, code := 0x02, tval := 0x26200 }))

/-- The saved STATUS that `tret` accepts, and what the end of its bundle restores (R125): the STATUS and the chain saved for the level, the level's own pending writes
being over; the frozen writes of the resumed level are then its pending writes again. -/
def Say.ReturnRestoresStatusAndChain : Prop :=
  (∀ (c : Ctx) (st : W64), tretOk c st = true ↔
    (st.toNat < 128 ∧ st.getLsbD 2 = false ∧ st.toNat % 4 < c.sys.status.toNat % 4 ∧
     st.getLsbD 3 = c.run.det ∧ st.getLsbD 4 = c.run.stmp ∧ st.getLsbD 5 = c.run.pre)) ∧
  (∀ (c : Ctx), c.lvl = 1 ∨ c.lvl = 2 →
    let st := if c.lvl = 1 then c.sys.estatus else c.sys.fstatus
    tretOk c st = true →
    (returnLevel c).sys = { c.sys with status := st } ∧
    (returnLevel c).flow.npc0 = (if c.lvl = 1 then c.sys.epc0 else c.sys.fepc0) ∧
    (returnLevel c).flow.npc1 = (if c.lvl = 1 then c.sys.epc1 else c.sys.fepc1) ∧
    (returnLevel c).flow.npc2 = (if c.lvl = 1 then c.sys.epc2 else c.sys.fepc2) ∧
    (returnLevel c).lvl < c.lvl ∧
    (returnLevel c).pend = (if st.toNat % 4 = 0 then c.flow.pend0 else c.flow.pend1))

/-- What the end of the bundle makes of `exit` and `fwcall` (R40, R126, R127, R305): `exit` empties the queues and the spill map, ends
the loops and the chain, and moves the walker to its next step, counted completed, or ends a spawned context; `fwcall` enters firmware
level with its service in FVAL, FCAUSE 0, and the chain after its bundle saved. -/
def Say.ExitEndsTheStepAndFwcallEntersFirmware : Prop :=
  (∀ (s : State), controlFx s [.exit] = endStep s s.me ∧ ∃ d : Ctx,
    d.regs = (landAll s.my).regs ∧ d.pend = [] ∧ d.sys = s.my.sys ∧ d.ctr = s.my.ctr ∧
    d.q = { s.my.q with lq := [], sq := [], defer := [], spill := [] } ∧
    d.flow.loops = [] ∧ d.flow.npc1 = 1 ∧ d.flow.npc2 = 1 ∧ d.flow.delay = 0 ∧
    (s.my.run.spawned = true →
      d.run = { s.my.run with ending := true } ∧ d.flow.npc0 = s.my.flow.npc0 ∧ endStep s s.me = s.setMy d) ∧
    (s.my.run.spawned = false →
      d.run = { s.my.run with cur := s.my.run.cur + 1, wst := if s.my.run.cur + 1 < s.my.run.hi then .enter else .none } ∧
      d.flow.npc0 = (s.launch s.my.run.launch).rec_.entry ∧
      endStep s s.me = placeSteps (doneUnits (s.setMy d) s.my.run.launch 1))) ∧
  (∀ (s : State) (service : W64), controlFx s [.fwcall service] = s.setMy (enterCall s.my service)) ∧
  (∀ (c : Ctx) (service : W64),
    (enterCall c service).sys = { c.sys with
      status := (c.sys.status &&& ~~~3) ||| 2, fstatus := c.sys.status, fcause := 0, fval := service,
      fepc0 := c.flow.npc0, fepc1 := c.flow.npc1, fepc2 := c.flow.npc2 } ∧
    (enterCall c service).lvl = 2 ∧ (enterCall c service).flow.npc0 = c.sys.ftvec ∧
    (enterCall c service).flow.npc1 = 1 ∧ (enterCall c service).flow.npc2 = 1 ∧ (enterCall c service).regs = c.regs)

/-- `trap` and `brk` take their trap, its detail the code and the bundle's word count (R124). Taking a trap (R32, R45, R320, R321): at program level the handler is entered, or firmware for BREAK under an attached debugger;
at handler level firmware; the level's registers save STATUS, the chain, the cause and the detail, WEN goes off, fetch goes to the
vector, due writes land, the others freeze, and no other context moves. -/
def Obligations.TrapsEnterTheNextLevel : Prop :=
  (∀ (s : State) (code : BitVec 16),
    let detail := BitVec.ofNat 64 (code.toNat + 65536 * (s.my.iss.len % 16))
    exec (.trap code) s = .next { takeTrapAt s s.me 0x0D detail true with
      raised := some { rank := 18, cls := 1, code := 0x0D, tval := detail } } ∧
    exec (.brk code) s = .next { takeTrapAt s s.me 0x0C detail true with
      raised := some { rank := 18, cls := 1, code := 0x0C, tval := detail } }) ∧
  (∀ (s : State) (k : Nat) (code : TrapCode) (tval : W64),
    let c := s.ctx k
    let t := takeTrapAt s k code tval true
    let d := t.ctx k
    let lands := c.cyclePend.regs
    (c.lvl = 0 → (code ≠ 0x0C ∨ c.dbg.att = false) →
      d.lvl = 1 ∧ d.sys.status = (c.sys.status &&& ~~~0x43) ||| 1 ∧ d.sys.estatus = c.sys.status ∧
      d.sys.epc0 = c.flow.npc0 ∧ d.sys.epc1 = c.flow.npc1 ∧ d.sys.epc2 = c.flow.npc2 ∧
      d.sys.tcause = code.setWidth 64 ∧ d.sys.tval = tval ∧ d.flow.npc0 = c.sys.tvec ∧
      d.flow.pend0 = laterPend c.flow.pend0 ∧ d.flow.pend1 = c.flow.pend1 ∧ d.regs = lands) ∧
    ((c.lvl = 1 ∨ (c.lvl = 0 ∧ code = 0x0C ∧ c.dbg.att = true)) →
      d.lvl = 2 ∧ d.sys.status = (c.sys.status &&& ~~~0x43) ||| 2 ∧ d.sys.fstatus = c.sys.status ∧
      d.sys.fepc0 = c.flow.npc0 ∧ d.sys.fepc1 = c.flow.npc1 ∧ d.sys.fepc2 = c.flow.npc2 ∧
      d.sys.fcause = code.setWidth 64 ∧ d.sys.fval = tval ∧ d.flow.npc0 = c.sys.ftvec ∧ d.regs = lands) ∧
    (2 ≤ c.lvl → d.run.halted = true ∧ d.reports = [] ∧ d.haltRec = c.reports) ∧
    (∀ j, j ≠ k → t.ctx j = s.ctx j) ∧ t.mem = s.mem ∧ t.nv = s.nv ∧ t.writes = s.writes ∧ t.cores = s.cores)

/-- The system registers: number, lowest level that reads, lowest level that writes (none: read only), value (R119). -/
def Say.sysRows : List (Nat × Nat × Option Nat × (State → Ctx → W64)) :=
  [(0x000, 0, some 1, fun _ c => c.sys.status), (0x001, 1, some 1, fun _ c => c.sys.estatus),
   (0x002, 1, some 1, fun _ c => c.sys.tvec), (0x003, 1, some 1, fun _ c => c.sys.tcause),
   (0x004, 1, some 1, fun _ c => c.sys.tval), (0x005, 1, some 1, fun _ c => c.sys.epc0),
   (0x006, 1, some 1, fun _ c => c.sys.epc1), (0x007, 1, some 1, fun _ c => c.sys.epc2),
   (0x008, 1, some 1, fun _ c => c.sys.tscratch), (0x010, 0, none, fun _ c => BitVec.ofNat 64 (c.run.bank % 2)),
   (0x011, 0, none, fun _ c => BitVec.ofNat 64 (c.run.lcore % 2048)), (0x012, 0, none, fun _ c => c.ctr.frame),
   (0x013, 0, none, fun _ c => c.ctr.msord), (0x014, 0, some 0, fun _ c => c.ctr.srstate),
   (0x015, 0, none, fun _ c => c.ctr.seqno.setWidth 64),
   (0x016, 0, none, fun s c => if c.run.det then 0 else (s.die (dieOf c.run.lcore)).cycle),
   (0x020, 0, none, fun _ c => c.ctr.oobaddr), (0x021, 0, some 0, fun _ c => if c.ctr.oobflag then 1 else 0),
   (0x030, 0, none, fun s _ => ckLogWord s s.me), (0x031, 2, some 2, fun s c => (s.core c.run.lcore).ckinj)] ++
  [(0x038, 0, some 0, fun _ c => fget 0 c.ctr.dtcnt 0), (0x039, 0, some 0, fun _ c => fget 0 c.ctr.dtcnt 1),
   (0x03A, 0, some 0, fun _ c => fget 0 c.ctr.dtcnt 2), (0x03B, 0, some 0, fun _ c => fget 0 c.ctr.dtcnt 3),
   (0x040, 0, some 0, fun _ c => spillMapWord c), (0x048, 1, some 1, fun _ c => c.ctr.watcha),
   (0x049, 1, some 1, fun _ c => c.ctr.watchm), (0x0F0, 2, some 2, fun _ c => c.sys.fstatus),
   (0x0F2, 2, some 2, fun _ c => c.sys.ftvec), (0x0F3, 2, some 2, fun _ c => c.sys.fcause),
   (0x0F4, 2, some 2, fun _ c => c.sys.fval), (0x0F5, 2, some 2, fun _ c => c.sys.fepc0),
   (0x0F6, 2, some 2, fun _ c => c.sys.fepc1), (0x0F7, 2, some 2, fun _ c => c.sys.fepc2)]

/-- `mfs` and `mts` over every system register (R4, R118 to R122, R238, R392): a read at a level that may gives the register at
latency 2; a write takes effect at the end of the bundle, on the fields that software writes and on nothing else, a write of CKINJ with
its upset applied; below the level both trap PRIVILEGE; a number not in the table traps ILLEGAL_OP. -/
def Obligations.SystemRegistersAreReadAndWritten : Prop :=
  (∀ (s : State) (reg : BitVec 12),
    (∀ (rd : Nat) (wr : Option Nat) (val : State → Ctx → W64), (reg.toNat, rd, wr, val) ∈ Say.sysRows →
      (∀ (d : BitVec 6), rd ≤ s.my.lvl → s.freeS d 2 → exec (.mfs d reg) s = .next (s.writeS d 2 (val s s.my))) ∧
      (∀ (d : BitVec 6), s.my.lvl < rd →
        exec (.mfs d reg) s = .next (takeTrap s { rank := 6, cls := 1, code := 0x03, tval := reg.setWidth 64 })) ∧
      (∀ (a : BitVec 6) (x : W64), rdS s.my 1 a.toNat = .ok x →
        (wr.getD rd ≤ s.my.lvl → exec (.mts a reg) s = .next (s.later (.mts reg.toNat x))) ∧
        (s.my.lvl < wr.getD rd →
          exec (.mts a reg) s = .next (takeTrap s { rank := 6, cls := 1, code := 0x03, tval := reg.setWidth 64 })))) ∧
    (reg.toNat ∉ Say.sysRows.map (·.1) →
      (∀ (d : BitVec 6),
        exec (.mfs d reg) s = .next (takeTrap s { rank := 7, cls := 1, code := 0x02, tval := 0x10000 + reg.setWidth 64 })) ∧
      (∀ (a : BitVec 6) (x : W64), rdS s.my 1 a.toNat = .ok x →
        exec (.mts a reg) s = .next (takeTrap s { rank := 7, cls := 1, code := 0x02, tval := 0x10000 + reg.setWidth 64 })))) ∧
  (∀ (s : State) (n : Nat) (v : W64), n ≠ 0x031 → endFx s (.mts n v) = s.setMy (mtsCtx s.my n v)) ∧
  (∀ (s : State) (v : W64), endFx s (.mts 0x031 v) = s.setCore s.my.run.lcore
    (ckinjApply { s.core s.my.run.lcore with ckinj := v &&& 0xE0FFFFC0FFFFFFFF })) ∧
  (∀ (c : Ctx) (v : W64),
      mtsCtx c 0x000 v = { c with sys := { c.sys with status := (c.sys.status &&& ~~~0x40) ||| (v &&& 0x40) } } ∧
      mtsCtx c 0x001 v = { c with sys := { c.sys with estatus := v } } ∧
      mtsCtx c 0x002 v = { c with sys := { c.sys with tvec := v &&& ~~~3 } } ∧
      mtsCtx c 0x003 v = { c with sys := { c.sys with tcause := v &&& 0xFF } } ∧
      mtsCtx c 0x004 v = { c with sys := { c.sys with tval := v } } ∧
      mtsCtx c 0x005 v = { c with sys := { c.sys with epc0 := v } } ∧
      mtsCtx c 0x006 v = { c with sys := { c.sys with epc1 := v } } ∧
      mtsCtx c 0x007 v = { c with sys := { c.sys with epc2 := v } } ∧
      mtsCtx c 0x008 v = { c with sys := { c.sys with tscratch := v } } ∧
      mtsCtx c 0x014 v = { c with ctr := { c.ctr with srstate := v } } ∧
      (∀ i, i < 4 → mtsCtx c (0x038 + i) v = { c with ctr := { c.ctr with dtcnt := fset c.ctr.dtcnt i v } }) ∧
      mtsCtx c 0x048 v = { c with ctr := { c.ctr with watcha := v &&& ~~~15 } } ∧
      mtsCtx c 0x049 v = { c with ctr := { c.ctr with watchm := v &&& 0x8FFFFF } } ∧
      mtsCtx c 0x0F0 v = { c with sys := { c.sys with fstatus := v } } ∧
      mtsCtx c 0x0F2 v = { c with sys := { c.sys with ftvec := v } } ∧
      mtsCtx c 0x0F3 v = { c with sys := { c.sys with fcause := v } } ∧
      mtsCtx c 0x0F4 v = { c with sys := { c.sys with fval := v } } ∧
      mtsCtx c 0x0F5 v = { c with sys := { c.sys with fepc0 := v } } ∧
      mtsCtx c 0x0F6 v = { c with sys := { c.sys with fepc1 := v } } ∧
      mtsCtx c 0x0F7 v = { c with sys := { c.sys with fepc2 := v } } ∧
      mtsCtx c 0x021 v = { c with ctr := { c.ctr with oobflag := c.ctr.oobflag && !v.getLsbD 0 } } ∧
      mtsCtx c 0x040 v = { c with ctr := { c.ctr with spillsel := v.setWidth 8 } } ∧
      (∀ n, (∃ rd val, (n, rd, none, val) ∈ Say.sysRows) → mtsCtx c n v = c))

/-! The vector slots -/

/-- The number an element of w bits stands for under an integer format: two's complement under i, binary under n (R136). -/
def Say.num (fmt : BitVec 4) (x : Nat) : Int :=
  if fmt.toNat % 2 = 0 ∧ 2 ^ (fmtW fmt.toNat - 1) ≤ x then (x : Int) - 2 ^ fmtW fmt.toNat else x

/-- An element function: under an integer format `iop` on the numbers, modulo 2^w; under a float format `fop` on the values, rounded
once to nearest even (R80, R136). -/
def Say.arith (fmt : BitVec 4) (iop : Int → Int → Int) (fop : FVal → FVal → FVal) (x y : Nat) : Nat :=
  if fmt.toNat < 6 then (iop (Say.num fmt x) (Say.num fmt y) % 2 ^ fmtW fmt.toNat).toNat
  else match ffOf fmt.toNat with
    | some f => encF f .rne false (fop (decF f x) (decF f y))
    | none => 0

/-- A function of one float element (R139, R140). -/
def Say.func (fmt : BitVec 4) (g : FFmt → Nat → Nat) (x : Nat) : Nat :=
  match ffOf fmt.toNat with
  | some f => g f x
  | none => 0

/-- A number held within the range of an integer format (R136). -/
def Say.clamp (fmt : BitVec 4) (z : Int) : Int :=
  let w := fmtW fmt.toNat
  let lo : Int := if fmt.toNat % 2 = 0 then -(2 ^ (w - 1)) else 0
  let hi : Int := if fmt.toNat % 2 = 0 then 2 ^ (w - 1) - 1 else 2 ^ w - 1
  if z < lo then lo else if hi < z then hi else z

/-- A V word that writes elements under a mask: slot, format, destination, operands, mask, latency, and element i of the result from
the operand registers and the old destination (R134). A word without mask stands with k 0, one without operand with va0 or vb0. -/
structure Say.VRow where
  sl  : VSlot
  fmt : BitVec 4
  d   : BitVec 5
  a   : BitVec 5
  b   : BitVec 5
  k   : BitVec 2
  lat : Nat
  el  : (x y o : Wide) → Nat → Nat
  /-- What inactive elements keep: the destination's old value, but for `vsel` the other operand (R145). -/
  rest : (y o : Wide) → Wide := fun _ o => o

/-- A row whose element i depends on element i of its operands alone. -/
def Say.VRow.each (sl : VSlot) (fmt : BitVec 4) (d a b : BitVec 5) (k : BitVec 2) (lat : Nat) (g : Nat → Nat → Nat) : Say.VRow :=
  let w := fmtW fmt.toNat
  { sl := sl, fmt := fmt, d := d, a := a, b := b, k := k, lat := lat, el := fun x y _ i => g (lane w x i) (lane w y i) }

/-- The V words that write elements, from the tables of R135 and R136 and the rules R138 to R147. -/
def Say.vRow : Instr → Option Say.VRow
  | .vadd sl f d a b k => some (.each sl f d a b k (if f.toNat < 6 then 2 else 4) (Say.arith f (· + ·) addV))
  | .vsub sl f d a b k => some (.each sl f d a b k (if f.toNat < 6 then 2 else 4) (Say.arith f (· - ·) (fun x y => addV x (negV y))))
  | .vmul sl f d a b k => some (.each sl f d a b k (if f.toNat < 6 then 2 else 4) (Say.arith f (· * ·) mulV))
  | .vfma sl f d a b k => some ⟨sl, f, d, a, b, k, 4, fun x y o i => Say.func f (fun f _ =>
      encF f .rne false (addV (mulV (decF f (lane f.w x i)) (decF f (lane f.w y i))) (decF f (lane f.w o i)))) 0, fun _ o => o⟩
  | .vfms sl f d a b k => some ⟨sl, f, d, a, b, k, 4, fun x y o i => Say.func f (fun f _ =>
      encF f .rne false (addV (negV (mulV (decF f (lane f.w x i)) (decF f (lane f.w y i)))) (decF f (lane f.w o i)))) 0, fun _ o => o⟩
  | .vmin sl f d a b k => some (.each sl f d a b k 2 (Say.arith f min minV))
  | .vmax sl f d a b k => some (.each sl f d a b k 2 (Say.arith f max maxV))
  | .vabs sl f d a k => some (.each sl f d a a k 2 (Say.arith f (fun x _ => |x|) (fun x _ => absV x)))
  | .vneg sl f d a k => some (.each sl f d a a k 2 (Say.arith f (fun x _ => -x) (fun x _ => negV x)))
  | .vadds sl f d a b k => some (.each sl f d a b k 2 (Say.arith f (fun x y => Say.clamp f (x + y)) (fun x _ => x)))
  | .vsubs sl f d a b k => some (.each sl f d a b k 2 (Say.arith f (fun x y => Say.clamp f (x - y)) (fun x _ => x)))
  | .vrcp sl f d a k => some (.each sl f d a a k 6 (fun x _ => Say.func f rcpF x))
  | .vrsq sl f d a k => some (.each sl f d a a k 6 (fun x _ => Say.func f rsqF x))
  | .vexp2 sl f d a k => some (.each sl f d a a k 6 (fun x _ => Say.func f exp2F x))
  | .vlog2 sl f d a k => some (.each sl f d a a k 6 (fun x _ => Say.func f log2F x))
  | .vsqrt sl f d a k => some (.each sl f d a a k 12 (fun x _ => Say.func f sqrtF x))
  | .vflr sl f d a k => some (.each sl f d a a k 3 (fun x _ => Say.func f flrF x))
  | .vand sl d a b k => some (.each sl 14 d a b k 1 (fun x y => x &&& y))
  | .vor sl d a b k => some (.each sl 14 d a b k 1 (fun x y => x ||| y))
  | .vxor sl d a b k => some (.each sl 14 d a b k 1 (fun x y => x ^^^ y))
  | .vnot sl d a k => some (.each sl 14 d a a k 1 (fun x _ => 2 ^ 32 - 1 - x))
  | .vshl sl f d a b k => some (.each sl f d a b k 1 (fun x y => x * 2 ^ (y % fmtW f.toNat)))
  | .vshr sl f d a b k => some (.each sl f d a b k 1 (fun x y => x / 2 ^ (y % fmtW f.toNat)))
  | .vsra sl f d a b k => some (.each sl f d a b k 1 (fun x y =>
      ((if 2 ^ (fmtW f.toNat - 1) ≤ x then (x : Int) - 2 ^ fmtW f.toNat else x) / 2 ^ (y % fmtW f.toNat) % 2 ^ fmtW f.toNat).toNat))
  | .vaddi sl f d a imm => some (.each sl f d a a 0 (if f.toNat < 6 then 2 else 4)
      (Say.arith f (fun x _ => x + imm.toInt) (fun x _ => addV x (ofInt false imm.toInt 0))))
  | .vshli sl f d a imm => some (.each sl f d a a 0 1 (fun x _ => x * 2 ^ imm.toNat))
  | .vshri sl f d a imm => some (.each sl f d a a 0 1 (fun x _ => x / 2 ^ imm.toNat))
  | .vsplat sl f d a imm => some ⟨sl, f, d, a, a, 0, 1, fun x _ _ _ => lane (fmtW f.toNat) x imm.toNat, fun _ o => o⟩
  | .vsel sl d a b k => some ⟨sl, 14, d, a, b, k, 1, fun x _ _ i => lane 32 x i, fun y _ => y⟩
  | .vmov sl d a k => some (.each sl 14 d a a k 1 (fun x _ => x))
  | .viota sl f d k => some ⟨sl, f, d, 0, 0, k, 2, fun _ _ _ i => i, fun _ o => o⟩
  | .vlane sl f d a b k => some ⟨sl, f, d, a, b, k, 2, fun x y _ i =>
      if lane (fmtW f.toNat) y i < 1024 / fmtW f.toNat then lane (fmtW f.toNat) x (lane (fmtW f.toNat) y i) else 0, fun _ o => o⟩
  | _ => none

/-- The value of a V destination at issue. -/
def Say.dest (s : State) (sl : VSlot) (d : Nat) : Wide :=
  match sl with
  | .v0 => fget 0 s.my.regs.va d
  | .v1 => fget 0 s.my.regs.vb d

/-- Element `i` of width w is active: the mask's bit of its word is set (R132, R133). -/
def Say.active (m : W32) (w i : Nat) : Prop := m.getLsbD (w * i / 32) = true

/-- Every well-formed V word of the table completes with one whole write pending on d at its latency (R134): active elements hold the
result, modulo 2^w, the others what they keep. -/
def Say.VectorWordsWriteEveryElement : Prop :=
  ∀ (i : Instr) (r : Say.VRow) (s : State) (x y : Wide),
    Say.vRow i = some r → i.wf → rdV s.my r.sl r.a.toNat = .ok x → rdV s.my r.sl r.b.toNat = .ok y →
    s.freeV r.sl r.d.toNat r.lat →
    let w := fmtW r.fmt.toNat
    let m := rdK s.my r.sl r.k.toNat
    let o := Say.dest s r.sl r.d.toNat
    ∃ v, exec i s = .next (s.writeV r.sl r.d.toNat r.lat v) ∧
      ∀ j, j < 1024 / w →
        (Say.active m w j → lane w v j = r.el x y o j % 2 ^ w) ∧ (¬ Say.active m w j → lane w v j = lane w (r.rest y o) j)

/-- `vtsum` (R137): the rounded sum goes to d and its exact error to d + 1, both under the mask; an error of zero, or of a sum that
is not finite, is +0. -/
def Say.TwoSumWritesSumAndError : Prop :=
  ∀ (sl : VSlot) (fmt : BitVec 4) (d a b : BitVec 5) (k : BitVec 2) (s : State) (x y : Wide) (f : FFmt),
    Instr.wf (.vtsum sl fmt d a b k) → ffOf fmt.toNat = some f →
    rdV s.my sl a.toNat = .ok x → rdV s.my sl b.toNat = .ok y → s.freeV sl d.toNat 4 → s.freeV sl (d.toNat + 1) 4 →
    let w := fmtW fmt.toNat
    let m := rdK s.my sl k.toNat
    ∃ v e, exec (.vtsum sl fmt d a b k) s = .next ((s.writeV sl d.toNat 4 v).writeV sl (d.toNat + 1) 4 e) ∧
      ∀ j, j < 1024 / w →
        (¬ Say.active m w j → lane w v j = lane w (Say.dest s sl d.toNat) j ∧ lane w e j = lane w (Say.dest s sl (d.toNat + 1)) j) ∧
        (Say.active m w j →
          let exact := addV (decF f (lane w x j)) (decF f (lane w y j))
          let sum := encF f .rne false exact
          lane w v j = sum % 2 ^ w ∧
          (isFin (decF f sum) = false → lane w e j = 0) ∧
          (isFin (decF f sum) = true → ∀ neg q z, addV exact (negV (decF f sum)) = .fin neg q z →
            lane w e j = (if q = 0 then 0 else encF f .rne false (.fin neg q z)) % 2 ^ w))

/-- A compare: slot, format, destination mask, operands, mask, and its relation on elements (R143). -/
def Say.cmpRow : Instr → Option (VSlot × BitVec 4 × BitVec 5 × BitVec 5 × BitVec 5 × BitVec 2 ×
    (Int → Int → Bool) × (FVal → FVal → Bool))
  | .vceq sl f d a b k => some (sl, f, d, a, b, k, fun x y => x == y, eqV)
  | .vcne sl f d a b k => some (sl, f, d, a, b, k, fun x y => x != y, fun x y => !eqV x y)
  | .vclt sl f d a b k => some (sl, f, d, a, b, k, fun x y => decide (x < y), ltV)
  | .vcle sl f d a b k => some (sl, f, d, a, b, k, fun x y => decide (x ≤ y), fun x y => ltV x y || eqV x y)
  | .vcun sl f d a b k => some (sl, f, d, a, b, k, fun _ _ => false, fun x y => isNan x || isNan y)
  | _ => none

/-- Compares complete with a mask pending on d at latency 2: an active bit is set when the relation holds for every element of its
word, by the format's signedness or by value; the others keep the destination's bit; k0 drops the write (R134, R143). -/
def Say.ComparesWriteTheirMask : Prop :=
  ∀ (i : Instr) (sl : VSlot) (fmt : BitVec 4) (d a b : BitVec 5) (k : BitVec 2) (ir : Int → Int → Bool) (fr : FVal → FVal → Bool)
    (s : State) (x y : Wide),
    Say.cmpRow i = some (sl, fmt, d, a, b, k, ir, fr) → i.wf → rdV s.my sl a.toNat = .ok x → rdV s.my sl b.toNat = .ok y →
    s.freeK sl d 2 →
    let w := fmtW fmt.toNat
    let rel := fun p q => if fmt.toNat < 6 then ir (Say.num fmt p) (Say.num fmt q)
      else match ffOf fmt.toNat with | some f => fr (decF f p) (decF f q) | none => false
    ∃ m, exec i s = .next (s.writeK sl d 2 m) ∧
      ∀ j, j < 32 → m.getLsbD j =
        if (rdK s.my sl k.toNat).getLsbD j
        then (List.range (32 / w)).all (fun e => rel (lane w x (32 / w * j + e)) (lane w y (32 / w * j + e)))
        else (rdK s.my sl d.toNat).getLsbD j

/-- `kand`, `kor`, `kxor` and `knot` (R144): over all 32 bits, latency 1; a d of 0 drops the write; a mask above 3 is refused at
decode. -/
def Obligations.MaskWordsCombineMasks : Prop :=
  ∀ (sl : VSlot) (d a b : BitVec 5) (s : State),
    (s.freeK sl d 1 →
      exec (.kand sl d a b) s = .next (s.writeK sl d 1 (rdK s.my sl a.toNat &&& rdK s.my sl b.toNat)) ∧
      exec (.kor sl d a b) s = .next (s.writeK sl d 1 (rdK s.my sl a.toNat ||| rdK s.my sl b.toNat)) ∧
      exec (.kxor sl d a b) s = .next (s.writeK sl d 1 (rdK s.my sl a.toNat ^^^ rdK s.my sl b.toNat)) ∧
      exec (.knot sl d a) s = .next (s.writeK sl d 1 (~~~ rdK s.my sl a.toNat))) ∧
    (∀ m, s.writeK sl 0 1 m = s) ∧
    ((3 < d.toNat ∨ 3 < a.toNat ∨ 3 < b.toNat) →
      Instr.illegal (.kand sl d a b) = some 4 ∧ Instr.illegal (.kor sl d a b) = some 4 ∧ Instr.illegal (.kxor sl d a b) = some 4) ∧
    ((3 < d.toNat ∨ 3 < a.toNat) → Instr.illegal (.knot sl d a) = some 4)

/-- The halving tree of R100 over 2^n lanes: lane i with lane i + 2^(n-1), then again over half as many. -/
def Say.tree (op : Nat → Nat → Nat) : (n : Nat) → (Nat → Nat) → Nat
  | 0, f => f 0
  | n + 1, f => Say.tree op n (fun i => op (f i) (f (i + 2 ^ n)))

/-- A reduction: its operation on elements, and the identity that inactive elements enter as (R149). -/
def Say.redRow : Instr → Option (VSlot × BitVec 4 × BitVec 5 × BitVec 5 × BitVec 2 × (Nat → Nat → Nat) × Nat)
  | .vradd sl f d a k => some (sl, f, d, a, k, Say.arith f (· + ·) addV, reduceIdent f 0)
  | .vrmax sl f d a k => some (sl, f, d, a, k, Say.arith f max maxV, reduceIdent f 1)
  | .vrmin sl f d a k => some (sl, f, d, a, k, Say.arith f min minV, reduceIdent f 2)
  | _ => none

/-- Reductions complete with the tree's result in element 0 of d at latency 6 and every other bit 0 (R100, R149); the identities are
0 or −0, the least and the greatest value of the format. -/
def Obligations.ReductionsFollowTheHalvingTree : Prop :=
  (∀ (i : Instr) (sl : VSlot) (fmt : BitVec 4) (d a : BitVec 5) (k : BitVec 2) (op : Nat → Nat → Nat) (e : Nat) (s : State) (x : Wide),
    Say.redRow i = some (sl, fmt, d, a, k, op, e) → i.wf → rdV s.my sl a.toNat = .ok x → s.freeV sl d.toNat 6 →
    let w := fmtW fmt.toNat
    let m := rdK s.my sl k.toNat
    exec i s = .next (s.writeV sl d.toNat 6 (BitVec.ofNat 1024
      (Say.tree op (if w = 32 then 5 else 6) (fun j => if m.getLsbD (w * j / 32) then lane w x j else e) % 2 ^ w)))) ∧
  (∀ fmt : BitVec 4, fmt.toNat < 6 → reduceIdent fmt 0 = 0) ∧
  reduceIdent 6 0 = 0x8000 ∧ reduceIdent 7 0 = 0x8000 ∧ reduceIdent 8 0 = 0x80000000 ∧
  reduceIdent 2 1 = 0x8000 ∧ reduceIdent 3 1 = 0 ∧ reduceIdent 4 1 = 0x80000000 ∧ reduceIdent 5 1 = 0 ∧ reduceIdent 6 1 = 0xFC00 ∧
  reduceIdent 7 1 = 0xFF80 ∧ reduceIdent 8 1 = 0xFF800000 ∧
  reduceIdent 2 2 = 0x7FFF ∧ reduceIdent 3 2 = 0xFFFF ∧ reduceIdent 4 2 = 0x7FFFFFFF ∧ reduceIdent 5 2 = 0xFFFFFFFF ∧ reduceIdent 6 2 = 0x7C00 ∧
  reduceIdent 7 2 = 0x7F80 ∧ reduceIdent 8 2 = 0x7F800000

/-- `vrarg` (R101, R150): word 0 is the active element of highest rank, the lowest index among equals, word 1 its number; with none
active, 0 and all ones; every other word 0. -/
def Obligations.RankedElementIsFound : Prop :=
  ∀ (sl : VSlot) (fmt : BitVec 4) (d a : BitVec 5) (k : BitVec 2) (s : State) (x : Wide),
    Instr.wf (.vrarg sl fmt d a k) → rdV s.my sl a.toNat = .ok x → s.freeV sl d.toNat 6 →
    let w := fmtW fmt.toNat
    let on := fun j => j < 1024 / w ∧ Say.active (rdK s.my sl k.toNat) w j
    ∃ v, exec (.vrarg sl fmt d a k) s = .next (s.writeV sl d.toNat 6 v) ∧ (∀ j, 2 ≤ j → j < 32 → lane 32 v j = 0) ∧
      ((∀ j, ¬ on j) → lane 32 v 0 = 0 ∧ lane 32 v 1 = 0xFFFFFFFF) ∧
      (∀ j, on j → (∀ i, on i → rankKey fmt.toNat (lane w x i) ≤ rankKey fmt.toNat (lane w x j)) →
        (∀ i, on i → rankKey fmt.toNat (lane w x i) = rankKey fmt.toNat (lane w x j) → j ≤ i) →
        lane 32 v 0 = lane w x j ∧ lane 32 v 1 = j)

/-- `vcvt` (R151): element by element, high bits 0, latency 3; under stochastic rounding it draws from SRSTATE at its place in the
bundle and counts one use (R87). -/
def Say.ConversionsConvertEveryElement : Prop :=
  ∀ (sl : VSlot) (fd : BitVec 4) (d a : BitVec 5) (fs : BitVec 4) (rnd : BitVec 2) (sat : BitVec 1) (s : State) (x : Wide),
    Instr.wf (.vcvt sl fd d a fs rnd sat) → rdV s.my sl a.toNat = .ok x → s.freeV sl d.toNat 3 →
    let wd := fmtW fd.toNat
    let ws := fmtW fs.toNat
    let n := 1024 / (if wd ≤ ws then ws else wd)
    let draw := s.my.ctr.srstate + BitVec.ofNat 64 s.my.iss.sruses
    let how := fun j => if rnd = 0 then Rnd.rne else if rnd = 1 then Rnd.rz else Rnd.sr (srRandom draw j)
    let s1 := if rnd = 2 then s.setMy { s.my with iss := { s.my.iss with sruses := s.my.iss.sruses + 1 } } else s
    ∃ v, exec (.vcvt sl fd d a fs rnd sat) s = .next (s1.writeV sl d.toNat 3 v) ∧
      v.toNat < 2 ^ (wd * n) ∧
      ∀ j, j < n → lane wd v j = convertElem fd.toNat fs.toNat (how j) (sat == 1) (lane ws x j) % 2 ^ wd

/-- `vget` (R148): an s register into 64 bits, or into every element of 64, 32, 16 or 8 bits; a whole register; a whole mask. -/
def Say.VectorMovesBringValues : Prop :=
  ∀ (sl : VSlot) (d : BitVec 5) (n : BitVec 6) (ln : BitVec 5) (s : State),
    (Instr.wf (.vget sl d 0 n ln) → s.freeV sl d.toNat 2 →
      let v := if n = 0 then (0 : W64) else fget 0 s.my.regs.s n.toNat
      ∃ r, exec (.vget sl d 0 n ln) s = .next (s.writeV sl d.toNat 2 r) ∧
        (ln.toNat < 16 → ∀ j, j < 16 → lane 64 r j = if j = ln.toNat then v.toNat else lane 64 (Say.dest s sl d.toNat) j) ∧
        (ln.toNat = 16 → ∀ j, j < 16 → lane 64 r j = v.toNat) ∧
        (ln.toNat = 17 → ∀ j, j < 32 → lane 32 r j = v.toNat % 2 ^ 32) ∧
        (ln.toNat = 18 → ∀ j, j < 64 → lane 16 r j = v.toNat % 2 ^ 16) ∧
        (ln.toNat = 19 → ∀ j, j < 128 → lane 8 r j = v.toNat % 2 ^ 8)) ∧
    (s.freeV sl d.toNat 2 →
      exec (.vget sl d 1 n 0) s = .next (s.writeV sl d.toNat 2 (fget 0 s.my.regs.va n.toNat)) ∧
      exec (.vget sl d 2 n 0) s = .next (s.writeV sl d.toNat 2 (fget 0 s.my.regs.vb n.toNat)) ∧
      exec (.vget sl d 3 n 0) s = .next (s.writeV sl d.toNat 2 (fget 0 s.my.regs.x n.toNat))) ∧
    (s.freeK sl d 2 →
      exec (.vget sl d 4 n 0) s = .next (s.writeK sl d 2 (if n = 0 then BitVec.allOnes 32 else fget 0 s.my.regs.ka n.toNat)) ∧
      exec (.vget sl d 5 n 0) s = .next (s.writeK sl d 2 (if n = 0 then BitVec.allOnes 32 else fget 0 s.my.regs.kb n.toNat)))

/-- `vdefer` and `vdrain` (R38, R39, R152, R153): entries go in by ascending lane behind the queue, SPILL_EXHAUSTED where queue and spill
area do not hold them all; the oldest up to 32 come out, their values, origins and mask pending at latency 4, zeros beyond them. -/
def Say.DeferralsGoInAndComeOutInOrder : Prop :=
  (∀ (sl : VSlot) (cnt a b : BitVec 5) (k : BitVec 2) (s : State) (x y : Wide),
    Instr.wf (.vdefer sl cnt a b k) → rdV s.my sl a.toNat = .ok x → (cnt = 1 → rdV s.my sl b.toNat = .ok y) →
    let it := match s.my.flow.loops.getLast? with | some l => l.iter | none => 0
    let new := ((List.range 32).filter (fun j => (rdK s.my sl k.toNat).getLsbD j)).map (fun j =>
      ({ v0 := BitVec.ofNat 32 (lane 32 x j), v1 := if cnt = 1 then BitVec.ofNat 32 (lane 32 y j) else 0, lane := j, iter := it } : Defer))
    let c1 := { s.my with q := { s.my.q with defer := s.my.q.defer ++ new } }
    let fits := c1.q.defer.length ≤ 64 ∨ areaUsed (stagedSpills c1).q ≤ s.my.tiles.share.spillLen
    (fits → exec (.vdefer sl cnt a b k) s = .next (s.setMy c1)) ∧
    (¬ fits → exec (.vdefer sl cnt a b k) s =
      .next (takeTrap s { rank := 14, cls := VSlot.cls sl, code := 0x0F, tval := 0x100 }))) ∧
  (∀ (sl : VSlot) (d o : BitVec 5) (km : BitVec 2) (s : State),
    Instr.wf (.vdrain sl d o km) → s.freeV sl d.toNat 4 → s.freeV sl (d.toNat + 1) 4 → s.freeV sl o.toNat 4 →
    (km = 0 ∨ s.free (VSlot.cls sl) 1 km.toNat 4) →
    ∃ v0 v1 og m,
      exec (.vdrain sl d o km) s = .next
        (((((s.setMy { s.my with q := { s.my.q with defer := s.my.q.defer.drop 32 } }).writeV sl d.toNat 4 v0).writeV
          sl (d.toNat + 1) 4 v1).writeV sl o.toNat 4 og).writeK sl (km.setWidth 5) 4 m) ∧
      (∀ j t, j < 32 → s.my.q.defer[j]? = some t →
        lane 32 v0 j = t.v0.toNat ∧ lane 32 v1 j = t.v1.toNat ∧ (t.lane < 32 → lane 32 og j = t.iter % 2 ^ 27 * 32 + t.lane) ∧
        m.getLsbD j = true) ∧
      (∀ j, j < 32 → s.my.q.defer.length ≤ j →
        lane 32 v0 j = 0 ∧ lane 32 v1 j = 0 ∧ lane 32 og j = 0 ∧ m.getLsbD j = false))

/-- `vpush`, `vspill` and `vfill` (R27, R42, R43, R154), as their scalar forms with 1,024 bits. -/
def Say.VectorValuesArePushedAndParked : Prop :=
  ∀ (sl : VSlot) (s : State),
    (∀ (w : BitVec 2) (a : BitVec 5) (x : Wide), rdV s.my sl a.toNat = .ok x →
      exec (.vpush sl w a) s = .next (s.queued w.toNat { data := x, count := 128 })) ∧
    (∀ (id : BitVec 8) (a : BitVec 5) (x : Wide), rdV s.my sl a.toNat = .ok x →
      (∀ e, spillEntry s (stagedSpills s.my) id.toNat x true = some e →
        exec (.vspill sl id a) s = .next (s.later (.spill id.toNat e)) ∧ e.value = x ∧ e.wide = true) ∧
      (spillEntry s (stagedSpills s.my) id.toNat x true = none →
        exec (.vspill sl id a) s = .next (takeTrap s { rank := 14, cls := VSlot.cls sl, code := 0x0F, tval := id.setWidth 64 }))) ∧
    (∀ (d : BitVec 5) (id : BitVec 8),
      (∀ (e : SpillEntry), fget? s.my.q.spill id.toNat = some e → e.wide = true → s.freeV sl d.toNat 8 →
        exec (.vfill sl d id) s = .next ((Say.unkept s id.toNat e).writeV sl d.toNat 8 e.value)) ∧
      ((∀ e, fget? s.my.q.spill id.toNat = some e → e.wide = false) →
        exec (.vfill sl d id) s = .next (takeTrap s
          { rank := 7, cls := VSlot.cls sl, code := 0x02, tval := BitVec.ofNat 64 (0x25000 + 512 * VSlot.cls sl + id.toNat) })))

/-! The copy slots: accesses -/

/-- What a word that starts an access or a command leaves alone: memory, the persist domain, the messages and every other context. -/
def Say.leavesOthers (s t : State) : Prop :=
  t.mem = s.mem ∧ t.nv = s.nv ∧ t.poison = s.poison ∧ t.bmsgs = s.bmsgs ∧ t.banks = s.banks ∧ t.dev = s.dev ∧ t.me = s.me ∧
  ∀ k, k ≠ s.me → t.ctx k = s.ctx k

/-- What it leaves alone in its own context: registers and pending writes, levels and chain, tiles, barrier records, reports. -/
def Say.leavesRegisters (c d : Ctx) : Prop :=
  d.regs = c.regs ∧ d.sys = c.sys ∧ d.flow = c.flow ∧ d.run = c.run ∧ d.bar = c.bar ∧ d.reports = c.reports ∧ d.q.defer = c.q.defer ∧
  d.q.spill = c.q.spill ∧ d.q.lq = c.q.lq

/-- How a unit of an access is judged (R172, R173, R246, R323): alignment first, then the form of the address; core store in the seat's
declared tiles has its bytes, elsewhere in core store none; a global address is translated with the level's permissions; other forms do
not translate. The control window of a management core is outside this statement. -/
def Say.AccessUnitsAreJudged : Prop :=
  ∀ (s : State) (c : Ctx) (cls align n : Nat) (need : Need5) (va : W64),
    windowOff c.run.lcore va = none →
    (va.toNat % align ≠ 0 →
      partOf s c cls align need va n = .error (.trap { rank := 8, cls := cls, code := 0x0A, tval := va })) ∧
    (va.toNat % align = 0 →
      (2 ^ 57 ≤ va.toNat → va.toNat / 2 ^ 22 ≠ 2 ^ 41 →
        partOf s c cls align need va n = .error (.trap { rank := 9, cls := cls, code := 0x07, tval := va })) ∧
      (va.toNat / 2 ^ 22 = 2 ^ 41 →
        let o := va.toNat % 2 ^ 22
        let declared := ∃ d ∈ c.tiles.share.slots ++ c.tiles.share.rings, d.2.base ≤ o ∧ o < d.2.base + d.2.span
        (declared → partOf s c cls align need va n =
          .ok { va := va, n := n, key := some (keyCore c.run.lcore o), leaf := 0 }) ∧
        (¬ declared → partOf s c cls align need va n = .ok { va := va, n := n, key := none, leaf := 0 })) ∧
      (va.toNat < 2 ^ 57 →
        (∀ x, xlate s c.run.lcore c.run.space va { need with lvl := c.lvl } = .ok x →
          partOf s c cls align need va n = .ok { va := va, n := n, key := some x.key, leaf := x.leaf }) ∧
        (∀ e, xlate s c.run.lcore c.run.space va { need with lvl := c.lvl } = .error (.code e) →
          partOf s c cls align need va n =
            .error (.trap { rank := if e = 0x13 then 11 else 9, cls := cls, code := e, tval := va }))))

/-- The end effect of an access that leaves the seat's tiles: its lowest address out of range (R246). -/
def Say.outside (ps : List Part) : List EndFx :=
  match lowestOob ps with
  | some a => [.oob a]
  | none => []

/-- Where byte i of a unit lies: its key and its address, when the unit has bytes. -/
def Say.byteOf (ps : List Part) (a : W64) (i : Nat) : Option (Nat × W64) :=
  ((ps.find? (fun p => decide (p.va = a))).bind (·.key)).map (fun k => (k + i, a + BitVec.ofNat 64 i))

/-- The addresses of 32 word lanes (R177, R180). -/
def Say.lanesAt (base step : W64) : List (Option W64 × Nat) :=
  (List.range 32).map (fun j => (some (base + BitVec.ofNat 64 j * step), 4))

/-- The lanes an index entry names (R178, R181): none where the entry is too short or the index is all ones. -/
def Say.indexed (base : W64) (sc : Nat) (e : WEntry) : List (Option W64 × Nat) :=
  (List.range 32).map (fun j =>
    (if 4 * j + 4 ≤ e.count ∧ lane 32 e.data j ≠ 0xFFFFFFFF then
      some (base + BitVec.ofNat 64 (lane 32 e.data j * 2 ^ sc)) else none, 4))

/-- The units of an access of n bytes at one address: whole up to 8 bytes, else words (R176, R266). -/
def Say.unitsAt (va : W64) (n : Nat) : List (Option W64 × Nat) :=
  if n ≤ 8 then [(some va, n)] else (List.range (n / 4)).map (fun j => (some (va + BitVec.ofNat 64 (4 * j)), 4))

/-- The units that have an address. -/
def Say.named (us : List (Option W64 × Nat)) : List (W64 × Nat) := us.filterMap (fun u => u.1.map (fun a => (a, u.2)))

/-- A register-and-displacement load: queue, address, bytes, alignment, and the bits it sign-extends from, 0 for none (R176). -/
def Say.loadRow (s : State) : Instr → Option (CSlot × BitVec 3 × W64 × Nat × Nat × Nat)
  | .ldi8 sl b q d => some (sl, q, rdC s.my sl b.toNat + d.signExtend 64, 1, 1, 8)
  | .ldn8 sl b q d => some (sl, q, rdC s.my sl b.toNat + d.signExtend 64, 1, 1, 0)
  | .ldi16 sl b q d => some (sl, q, rdC s.my sl b.toNat + d.signExtend 64, 2, 2, 16)
  | .ldn16 sl b q d => some (sl, q, rdC s.my sl b.toNat + d.signExtend 64, 2, 2, 0)
  | .ldi32 sl b q d => some (sl, q, rdC s.my sl b.toNat + d.signExtend 64, 4, 4, 32)
  | .ldn32 sl b q d => some (sl, q, rdC s.my sl b.toNat + d.signExtend 64, 4, 4, 0)
  | .ld64 sl b q d => some (sl, q, rdC s.my sl b.toNat + d.signExtend 64, 8, 8, 0)
  | .vld sl b q d => some (sl, q, rdC s.my sl b.toNat + d.signExtend 64, 128, 4, 0)
  | _ => none

/-- The state after a load of units of `size` bytes started: one more load in flight, which will read the listed bytes; `ld` one
higher; an entry reserved at the end of the bundle; nothing else of note moved. -/
def Say.loading (s t : State) (q sext : Nat) (us : List (Option W64 × Nat)) (size : Nat) (ps : List Part) (left : Queues) : Prop :=
  ∃ l cells, t.loads = s.loads ++ [l] ∧ l.id = s.nextId ∧ l.ctx = s.me ∧ l.q = q ∧ l.counted = true ∧ l.kind = .read cells sext ∧
    cells.length = size * us.length ∧
    (∀ j u, us[j]? = some u → ∀ i, i < size → cells[size * j + i]? = some (u.1.bind (fun a => Say.byteOf ps a i))) ∧
    t.nextId = s.nextId + 1 ∧ t.writes = s.writes ∧
    t.my.q = { left with ld := left.ld + 1 } ∧
    t.my.iss.fx = s.my.iss.fx ++ Say.outside ps ++ [.reserve q { acc := s.nextId }] ∧
    t.my.ctr = s.my.ctr ∧ Say.leavesRegisters s.my t.my ∧ Say.leavesOthers s t

/-- Loads (R28, R176 to R178, R182, R246) complete when their counter and their units let them: the access is in flight, its entry
reserved. A gather takes the head of its index queue first. -/
def Obligations.LoadsReserveTheirEntry : Prop :=
  ∀ (s : State) (ps : List Part), s.my.q.ld < 255 →
    (∀ (i : Instr) (sl : CSlot) (q : BitVec 3) (va : W64) (n align sext : Nat),
      Say.loadRow s i = some (sl, q, va, n, align, sext) → windowOff s.my.run.lcore va = none →
      checkUnits s (CSlot.cls sl) align { r := true } (Say.named (Say.unitsAt va n)) = .ok ps →
      ∃ t, exec i s = .next t ∧
        Say.loading s t q.toNat sext (Say.unitsAt va n) (if n ≤ 8 then n else 4) ps s.my.q) ∧
    (∀ (sl : CSlot) (base a : BitVec 4) (q : BitVec 3),
      let us := Say.lanesAt (rdC s.my sl base.toNat) (rdC s.my sl a.toNat)
      checkUnits s (CSlot.cls sl) 4 { r := true } (Say.named us) = .ok ps →
      ∃ t, exec (.vlds sl base a q) s = .next t ∧ Say.loading s t q.toNat 0 us 4 ps s.my.q) ∧
    (∀ (sl : CSlot) (base : BitVec 4) (q : BitVec 3) (w sc : BitVec 2) (e : WEntry) (rest : List WEntry),
      fget [] s.my.q.sq w.toNat = e :: rest →
      let us := Say.indexed (rdC s.my sl base.toNat) sc.toNat e
      let left := { s.my.q with sq := fset s.my.q.sq w.toNat rest }
      checkUnits (s.setMy { s.my with q := left }) (CSlot.cls sl) 4 { r := true } (Say.named us) = .ok ps →
      ∃ t, exec (.vldg sl base q w sc) s = .next t ∧ Say.loading s t q.toNat 0 us 4 ps left)

/-- Bytes of a store-queue entry from an offset: those beyond its count are 0 (R179). -/
def Say.entryBytes (e : WEntry) (off n : Nat) : List Byte :=
  (List.range n).map (fun i => if off + i < e.count then (e.data >>> (8 * (off + i))).setWidth 8 else 0)

/-- The bytes that the units of a store with addresses put where they have bytes: lane j takes the entry's bytes from size · j. -/
def Say.stored (e : WEntry) (size : Nat) (us : List (Option W64 × Nat)) (ps : List Part) : List (Nat × Byte) :=
  ((us.zipIdx.filter (fun u => u.1.1.isSome)).zip ps).flatMap (fun x =>
    match x.2.key with
    | some k => ((Say.entryBytes e (size * x.1.2) size).zipIdx).map (fun b => (k + b.2, b.1))
    | none => [])

/-- The state after a store started: writes in flight that hold the stored bytes, all of one sequence number; `st` one higher; memory
as before. -/
def Say.storing (s t : State) (cells : List (Nat × Byte)) (ps : List Part) (left : Queues) : Prop :=
  ∃ ws, t.writes = s.writes ++ ws ∧ ws ≠ [] ∧ (ws.flatMap (·.cells)) = cells ∧
    (∀ w ∈ ws, w.ctx = s.me ∧ w.seq = s.my.ctr.seqno ∧ w.store = true ∧ w.stage = 0 ∧ w.coh = none ∧ s.nextId ≤ w.id ∧ w.id < t.nextId) ∧
    t.loads = s.loads ∧ t.my.ctr = { s.my.ctr with seqno := s.my.ctr.seqno + 1 } ∧
    (∃ dur, t.my.q = { left with st := left.st + 1, durable := left.durable ++ dur }) ∧
    t.my.iss.fx = s.my.iss.fx ++ Say.outside ps ∧ Say.leavesRegisters s.my t.my ∧ Say.leavesOthers s t

/-- A register-and-displacement store: queue, address, bytes, alignment (R179). -/
def Say.storeRow (s : State) : Instr → Option (CSlot × BitVec 3 × W64 × Nat × Nat)
  | .st8 sl b w d => some (sl, w, rdC s.my sl b.toNat + d.signExtend 64, 1, 1)
  | .st16 sl b w d => some (sl, w, rdC s.my sl b.toNat + d.signExtend 64, 2, 2)
  | .st32 sl b w d => some (sl, w, rdC s.my sl b.toNat + d.signExtend 64, 4, 4)
  | .st64 sl b w d => some (sl, w, rdC s.my sl b.toNat + d.signExtend 64, 8, 8)
  | .vst sl b w d => some (sl, w, rdC s.my sl b.toNat + d.signExtend 64, 128, 4)
  | _ => none

/-- Stores (R27, R28, R179 to R182) complete when their counter, their queue and their units let them: the head of the queue is taken,
the writes are in flight; a store none of whose units has bytes still completes, with an empty write. -/
def Obligations.StoresSetOutTheirWrites : Prop :=
  ∀ (s : State) (ps : List Part), s.my.q.st < 255 →
    (∀ (i : Instr) (sl : CSlot) (w : BitVec 3) (va : W64) (n align : Nat) (e : WEntry) (rest : List WEntry),
      Say.storeRow s i = some (sl, w, va, n, align) → windowOff s.my.run.lcore va = none →
      fget [] s.my.q.sq w.toNat = e :: rest →
      checkUnits s (CSlot.cls sl) align { w := true } (Say.named (Say.unitsAt va n)) = .ok ps →
      ∃ t, exec i s = .next t ∧ Say.storing s t (Say.stored e (if n ≤ 8 then n else 4) (Say.unitsAt va n) ps) ps
        { s.my.q with sq := fset s.my.q.sq w.toNat rest }) ∧
    (∀ (sl : CSlot) (base a : BitVec 4) (w : BitVec 2) (e : WEntry) (rest : List WEntry),
      let us := Say.lanesAt (rdC s.my sl base.toNat) (rdC s.my sl a.toNat)
      fget [] s.my.q.sq w.toNat = e :: rest → checkUnits s (CSlot.cls sl) 4 { w := true } (Say.named us) = .ok ps →
      ∃ t, exec (.vsts sl base a w) s = .next t ∧ Say.storing s t (Say.stored e 4 us ps) ps
        { s.my.q with sq := fset s.my.q.sq w.toNat rest }) ∧
    (∀ (sl : CSlot) (base : BitVec 4) (wd wi sc : BitVec 2) (e ix : WEntry) (rest rest2 : List WEntry),
      let sq1 := fset s.my.q.sq wd.toNat rest
      let left := { s.my.q with sq := fset sq1 wi.toNat rest2 }
      let us := Say.indexed (rdC s.my sl base.toNat) sc.toNat ix
      fget [] s.my.q.sq wd.toNat = e :: rest → fget [] sq1 wi.toNat = ix :: rest2 →
      checkUnits (s.setMy { s.my with q := left }) (CSlot.cls sl) 4 { w := true } (Say.named us) = .ok ps →
      ∃ t, exec (.vstm sl base wd wi sc) s = .next t ∧ Say.storing s t (Say.stored e 4 us ps) ps left)

/-- A management core's scalar access of its control window (R402): above program level, with a width the register takes, a load is in
flight and arrives right after its bundle, and a store's register write follows its bundle and then completes it; at program level both
trap PERMISSION, and with another width or alignment ALIGN. -/
def Say.ManagementAccessesReachTheControlWindow : Prop :=
  ∀ (s : State) (i : Instr) (sl : CSlot) (va : W64) (n align off : Nat),
    n ≤ 8 → windowOff s.my.run.lcore va = some off →
    (∀ (q : BitVec 3) (sext : Nat), Say.loadRow s i = some (sl, q, va, n, align, sext) → s.my.q.ld < 255 →
      (s.my.lvl = 0 → exec i s = .next (takeTrap s { rank := 9, cls := CSlot.cls sl, code := 0x08, tval := va })) ∧
      (s.my.lvl ≠ 0 → windowFits off n = false →
        exec i s = .next (takeTrap s { rank := 8, cls := CSlot.cls sl, code := 0x0A, tval := va })) ∧
      (s.my.lvl ≠ 0 → windowFits off n = true →
        ∃ t l, exec i s = .next t ∧ t.loads = s.loads ++ [l] ∧ l.id = s.nextId ∧ l.kind = .ctl off n sext ∧ l.q = q.toNat ∧
          t.agenda = s.agenda ++ [.loadQueueArrival s.nextId] ∧ t.my.q = { s.my.q with ld := s.my.q.ld + 1 } ∧
          t.my.iss.fx = s.my.iss.fx ++ [.reserve q.toNat { acc := s.nextId }] ∧ t.writes = s.writes ∧
          Say.leavesRegisters s.my t.my ∧ Say.leavesOthers s t)) ∧
    (∀ (w : BitVec 3) (e : WEntry) (rest : List WEntry), Say.storeRow s i = some (sl, w, va, n, align) → s.my.q.st < 255 →
      fget [] s.my.q.sq w.toNat = e :: rest →
      (s.my.lvl = 0 → exec i s = .next (takeTrap s { rank := 9, cls := CSlot.cls sl, code := 0x08, tval := va })) ∧
      (s.my.lvl ≠ 0 → windowFits off n = false →
        exec i s = .next (takeTrap s { rank := 8, cls := CSlot.cls sl, code := 0x0A, tval := va })) ∧
      (s.my.lvl ≠ 0 → windowFits off n = true →
        ∃ t, exec i s = .next t ∧
          t.agenda = s.agenda ++ [.controlRegisterWrite (dieOf s.my.run.lcore) off n (BitVec.ofNat 64 (ofBytes (Say.entryBytes e 0 n))),
            .storeCompletion s.nextId] ∧
          t.my.q = { s.my.q with sq := fset s.my.q.sq w.toNat rest, st := s.my.q.st + 1 } ∧ t.loads = s.loads ∧
          Say.leavesRegisters s.my t.my ∧ Say.leavesOthers s t))

/-! The copy slots: atomics, orders, address registers -/

/-- An atomic: slot, queue, address, scope, order, how many entries it takes, and the new value it gives from the old value, the
operand and the expected value, none where it writes nothing (R183). -/
structure Say.Atomic where
  sl    : CSlot
  q     : BitVec 3
  va    : W64
  scope : BitVec 3
  order : BitVec 2
  n     : Nat
  new   : W64 → W64 → W64 → Option W64

/-- The atomics of R183; `afadd` adds each half in FP32 with round to nearest even. -/
def Say.atomicRow (s : State) : Instr → Option Say.Atomic
  | .aadd sl b q sc o d => some ⟨sl, q, rdC s.my sl b.toNat + d.signExtend 64, sc, o, 1, fun x v _ => some (x + v)⟩
  | .amin sl b q sc o d => some ⟨sl, q, rdC s.my sl b.toNat + d.signExtend 64, sc, o, 1, fun x v _ => some (if x.sle v then x else v)⟩
  | .amax sl b q sc o d => some ⟨sl, q, rdC s.my sl b.toNat + d.signExtend 64, sc, o, 1, fun x v _ => some (if x.sle v then v else x)⟩
  | .aand sl b q sc o d => some ⟨sl, q, rdC s.my sl b.toNat + d.signExtend 64, sc, o, 1, fun x v _ => some (x &&& v)⟩
  | .aor sl b q sc o d => some ⟨sl, q, rdC s.my sl b.toNat + d.signExtend 64, sc, o, 1, fun x v _ => some (x ||| v)⟩
  | .axch sl b q sc o d => some ⟨sl, q, rdC s.my sl b.toNat + d.signExtend 64, sc, o, 1, fun _ v _ => some v⟩
  | .acas sl b q sc o d => some ⟨sl, q, rdC s.my sl b.toNat + d.signExtend 64, sc, o, 2, fun x v e => if x = e then some v else none⟩
  | .afadd sl b q sc o d => some ⟨sl, q, rdC s.my sl b.toNat + d.signExtend 64, sc, o, 1, fun x v _ =>
      let half : Nat → Nat := fun i => encF ff32 .rne false
        (addV (decF ff32 (x.extractLsb' (32 * i) 32).toNat) (decF ff32 (v.extractLsb' (32 * i) 32).toNat))
      some (BitVec.ofNat 64 (half 0 + 2 ^ 32 * half 1))⟩
  | .aminn sl b q sc o d => some ⟨sl, q, rdC s.my sl b.toNat + d.signExtend 64, sc, o, 1, fun x v _ => some (if x.ule v then x else v)⟩
  | .amaxn sl b q sc o d => some ⟨sl, q, rdC s.my sl b.toNat + d.signExtend 64, sc, o, 1, fun x v _ => some (if x.ule v then v else x)⟩
  | _ => none

/-- The operand an entry supplies: its low 8 bytes, those it does not hold being 0 (R183). -/
def Say.operand (e : WEntry) : W64 := BitVec.ofNat 64 (e.data.toNat % 2 ^ (8 * min e.count 8))

/-- Atomics (R183, R184, R269) complete when their counter, their entries and their address let them: operands taken, entry reserved,
and in flight with the operation that gives the new value; a release waits for every earlier access of the seat, and every later access
waits for an acquire. A release at device scope or wider has the seat's dirty stash lines written back (R259). -/
def Obligations.AtomicsTakeTheirOperandAndSetOut : Prop :=
  ∀ (s : State) (i : Instr) (r : Say.Atomic) (es rest : List WEntry) (p : Part),
    Say.atomicRow s i = some r → s.my.q.ld < 255 → es.length = r.n →
    fget [] s.my.q.sq (r.q.toNat % 4) = es ++ rest →
    checkUnits s (CSlot.cls r.sl) 8 { r := true, w := true } [(r.va, 8)] = .ok [p] →
    ∃ t l op, exec i s = .next (if 3 ≤ r.scope.toNat ∧ 2 ≤ r.order.toNat then flushWrites t s.me else t) ∧
      t.loads = s.loads ++ [l] ∧ l.id = s.nextId ∧ l.ctx = s.me ∧ l.q = r.q.toNat ∧ l.counted = true ∧
      (∃ e x, l.kind = .atomic op p.key p.leaf x e ∧ (∀ a, es = [a] → x = Say.operand a) ∧
        (∀ a b, es = [a, b] → e = Say.operand a ∧ x = Say.operand b)) ∧
      (∀ o v e, atomicNew op o v e = r.new o v e) ∧
      (2 ≤ r.order.toNat →
        (∀ m ∈ s.loads, m.ctx = s.me → ∃ n ∈ l.needs, n.id = m.id ∧ n.k = 0) ∧
        (∀ w ∈ s.writes, w.agent = agentOf s.me 0 → ∃ n ∈ l.needs, n.id = w.id ∧ n.k = (if r.order = 3 then 2 else 1) ∧
          n.scope = r.scope.toNat)) ∧
      (r.order = 1 ∨ r.order = 3 → (∃ n ∈ readNeeds t.my, n.id = l.id ∧ n.k = 0) ∧ (∃ n ∈ writeNeeds t.my, n.id = l.id ∧ n.k = 0)) ∧
      fget [] t.my.q.sq (r.q.toNat % 4) = rest ∧ (∀ w, w ≠ r.q.toNat % 4 → fget [] t.my.q.sq w = fget [] s.my.q.sq w) ∧
      t.my.q.ld = s.my.q.ld + 1 ∧ t.my.q.st = s.my.q.st ∧
      t.my.iss.fx = s.my.iss.fx ++ Say.outside [p] ++ [.reserve r.q.toNat { acc := s.nextId }] ∧
      t.writes = s.writes ∧ t.my.ctr = s.my.ctr ∧ Say.leavesRegisters s.my t.my ∧ Say.leavesOthers s t

/-- The dirty stash lines of the seat are written back first where an order reaches device scope (R259): none of its writes stays in
its stash, those on their way will pass it, and memory is as before. -/
def Say.FlushesEmptyTheStash : Prop :=
  ∀ (s : State) (k : Nat),
    let t := flushWrites s k
    t.writes.map (·.id) = s.writes.map (·.id) ∧ t.loads = s.loads ∧ t.mem = s.mem ∧ t.nv = s.nv ∧
    (∀ j, (t.ctx j).regs = (s.ctx j).regs ∧ (t.ctx j).q = (s.ctx j).q ∧ (t.ctx j).run = (s.ctx j).run) ∧
    ((s.writes.map (·.id)).Nodup →
      ∀ w ∈ t.writes, (∀ i, w.stash ≠ some (k, i)) ∧ (w.agent = agentOf k 0 → w.stage < 3 → w.noStash = true))

/-- The state in which an order takes effect: the seat's dirty stash lines are written back where it reaches device scope (R259). -/
def Say.flushed (s : State) (yes : Prop) [Decidable yes] : State := if yes then flushWrites s s.me else s

/-- `fence` (R185, R268, R270) completes at once: an acquire or both makes later reads wait for the value of every earlier read of the
seat, each order makes later writes wait for them; every order puts later writes behind the writes that the seat has observed, a release
or both behind its own earlier writes and atomics at the scope, and both has later reads wait until those are performed there. It adds
nothing else to what a context must wait for, and moves nothing else of it but the moment from which an acquire reads. -/
def Say.FencesOrderLaterAccesses : Prop :=
  ∀ (s : State) (sl : CSlot) (scope : BitVec 3) (order : BitVec 2), order ≠ 0 →
    let u := Say.flushed s (3 ≤ scope.toNat)
    let c := u.ctx s.me
    ∃ fs fl, exec (.fence sl scope order) s = .next (u.setCtx s.me { c with q := { c.q with fences := fs, floor := fl } }) ∧
      let d := { c with q := { c.q with fences := fs, floor := fl } }
      (∀ l ∈ s.loads, l.ctx = s.me →
        (∃ n ∈ writeNeeds d, n.id = l.id ∧ n.k = 0) ∧ (order ≠ 2 → ∃ n ∈ readNeeds d, n.id = l.id ∧ n.k = 0)) ∧
      (∀ i, (∃ w ∈ s.writes, w.id = i ∧ w.agent = agentOf s.me 0) ∨ (∃ l ∈ s.loads, l.id = i ∧ l.isAtomic s.me = true) → order ≠ 1 →
        (∃ n ∈ writeNeeds d, n.id = i ∧ n.k = 1 ∧ n.scope = scope.toNat) ∧
        (order = 3 → ∃ n ∈ readNeeds d, n.id = i ∧ n.k = 2 ∧ n.scope = scope.toNat)) ∧
      (∀ i ∈ s.my.q.observed, (∃ w ∈ s.writes, w.id = i) → ∃ n ∈ writeNeeds d, n.id = i ∧ n.k = 1 ∧ n.scope = scope.toNat) ∧
      (∀ f ∈ fs, f ∈ s.my.q.fences ∨ f.scope = scope.toNat) ∧
      (order ≠ 2 → fget 0 fl 0 = u.ticks)

/-- `fencex` (R186, R275) completes at once: every operation of its first path that the seat has in flight, access by access and
command by command, and every write that its reads have observed, is waited for at its scope by the later operations of its second path,
and of no other; the second path reads from now on nothing older. -/
def Say.FencexOrdersPaths : Prop :=
  ∀ (s : State) (sl : CSlot) (a b scope : BitVec 3), a.toNat ≤ 5 → b.toNat ≤ 5 → scope.toNat ≤ 4 →
    let u := Say.flushed s (a = 0 ∧ 3 ≤ scope.toNat)
    let c := u.ctx s.me
    ∃ fs fl, exec (.fencex sl a b scope) s = .next (u.setCtx s.me { c with q := { c.q with pfences := fs, floor := fl } }) ∧
      let d := { c with q := { c.q with pfences := fs, floor := fl } }
      let waits := fun (i : Nat) => ∃ n ∈ pathNeeds d b.toNat, n.id = i ∧ n.k = 2 ∧ n.scope = scope.toNat
      let alive := fun (i : Nat) => ∃ w ∈ s.writes, w.id = i
      (a = 0 → (∀ l ∈ s.loads, l.ctx = s.me → waits l.id) ∧ (∀ i ∈ s.my.q.observed, alive i → waits i)) ∧
      (∀ w ∈ s.writes, w.agent = agentOf s.me a.toNat → waits w.id) ∧
      (a = 5 → ∀ w ∈ s.writes, w.ctx = s.me → w.wb = true → waits w.id) ∧
      (a ≠ 0 → ∀ e ∈ s.my.q.saw, e.1 = a.toNat → alive e.2.2 → waits e.2.2) ∧
      (a ≠ 0 → ∀ x ∈ s.my.cmds, x.path = a.toNat →
        ∃ n ∈ pathNeeds d b.toNat, n.id = x.seq.toNat ∧ n.k = 3 ∧ n.scope = scope.toNat) ∧
      (∀ p, p ≠ b.toNat → ∀ n ∈ pathNeeds d p, n ∈ pathNeeds s.my p) ∧
      fget 0 fl b.toNat = u.ticks

/-- `pbar` (R187, R282) holds while a durable write of an earlier bundle has not persisted or no record slot is free; else it completes,
and at the end of its bundle, in C0 or when C0 holds no durable write, the seat's persist sequence number is one higher and its 64-byte
record, with MSORD and the walker position of that moment, stands in the persist domain and in memory; with a durable write in C0 it
waits for it. PERSIST.PBAR_COMPLETION then does the same, with MSORD and the position that stood at the `pbar`. -/
def Obligations.PbarWaitsAndWritesItsRecord : Prop :=
  (∀ (s : State) (sl : CSlot), ¬(∀ n ∈ s.my.q.durable, n ∉ s.my.iss.dur → needMet s s.me 0 n = true) ∨ recordSlot s s.my = none →
    exec (.pbar sl) s = .next (Say.holds s .other 7)) ∧
  (∀ (s : State) (sl : CSlot) (i : Nat), (∀ n ∈ s.my.q.durable, n ∉ s.my.iss.dur → needMet s s.me 0 n = true) →
    recordSlot s s.my = some i →
    ∃ after, exec (.pbar sl) s = .next (s.later (.pbar after)) ∧ (sl = .c0 → after = []) ∧
      (∀ n ∈ after, n ∈ s.my.iss.dur) ∧ (sl = .c1 → ∀ n ∈ s.my.iss.dur, n.k = 4 → n ∈ after)) ∧
  (∀ (s : State), endFx s (.pbar []) = pbarDone s s.me s.my.ctr.msord s.my.run.cur) ∧
  (∀ (s : State) (n : Need) (ns : List Need), (endFx s (.pbar (n :: ns))).my.per =
    { s.my.per with wait := n :: ns, armed := true, msord := s.my.ctr.msord, cur := s.my.run.cur }) ∧
  (∀ (s : State) (k : Nat), s.dev.powered = true → (s.ctx k).per.armed = true →
    (∀ n ∈ (s.ctx k).per.wait, needMet s k 0 n = true) →
    exec (.pbarCompletion k) s = .next (pbarDone s k (s.ctx k).per.msord (s.ctx k).per.cur)) ∧
  (∀ (s : State) (k i cur : Nat) (msord : W64), recordSlot s (s.ctx k) = some i → canonicalMemory s →
    let t := pbarDone s k msord cur
    (t.ctx k).per = { slot := some i, seq := (s.ctx k).per.seq + 1 } ∧
    (∀ j, j < 64 → memGet t.nv (keyNv (Config.nvMapped + 64 * i) + j) =
        ((persistRecord (s.ctx k) ((s.ctx k).per.seq + 1) msord cur) >>> (8 * j)).setWidth 8 ∧
      memGet t.mem (keyNv (Config.nvMapped + 64 * i) + j) = memGet t.nv (keyNv (Config.nvMapped + 64 * i) + j)) ∧
    (∀ a, (∀ j, j < 64 → a ≠ keyNv (Config.nvMapped + 64 * i) + j) → memGet t.nv a = memGet s.nv a ∧ memGet t.mem a = memGet s.mem a) ∧
    (∀ j, j ≠ k → t.ctx j = s.ctx j))

/-- `cli`, `cadd`, `cget` and `cstr` (R210): a value pending on an address register of the slot, or a stride for the end of the
bundle. -/
def Obligations.AddressWordsWriteAddressRegisters : Prop :=
  ∀ (s : State) (sl : CSlot) (d a : BitVec 4),
    (∀ imm : BitVec 13, s.free (CSlot.cls sl) 0 d.toNat 1 →
      exec (.cli sl d a imm) s = .next (s.write (CSlot.cls sl) 0 d.toNat 1
        ((BitVec.ofNat 64 ((rdC s.my sl a.toNat).toNat * 2 ^ 13 + imm.toNat)).setWidth 1024)) ∧
      exec (.cadd sl d a imm) s = .next (s.write (CSlot.cls sl) 0 d.toNat 1
        ((rdC s.my sl a.toNat + imm.signExtend 64).setWidth 1024))) ∧
    (∀ (file : BitVec 3) (idx : BitVec 6) (ln : BitVec 4) (v : W64), Instr.wf (.cget sl d file idx ln) →
      s.free (CSlot.cls sl) 0 d.toNat 2 →
      (if file = 0 then rdS s.my (CSlot.cls sl) idx.toNat = .ok v
       else if file = 1 then v = ((fget 0 s.my.regs.va idx.toNat) >>> (64 * ln.toNat)).setWidth 64
       else if file = 2 then v = ((fget 0 s.my.regs.vb idx.toNat) >>> (64 * ln.toNat)).setWidth 64
       else if file = 3 then v = ((fget 0 s.my.regs.x idx.toNat) >>> (64 * ln.toNat)).setWidth 64
       else if file = 4 then v = fget 0 s.my.regs.ca idx.toNat
       else v = fget 0 s.my.regs.cb idx.toNat) →
      exec (.cget sl d file idx ln) s = .next (s.write (CSlot.cls sl) 0 d.toNat 2 (v.setWidth 1024))) ∧
    (∀ (level : BitVec 3) (sreg : BitVec 6) (v : W64), rdS s.my (CSlot.cls sl) sreg.toNat = .ok v →
      exec (.cstr sl d level sreg) s = .next (s.later (.stride (sl == .c1) d.toNat level.toNat (v.setWidth 32))))

/-! The copy slots: tiles, windows, collectives, the stash, launches -/

/-- The state after an engine command started (R28, R174): one more command with the next sequence number at the present level, its
counter one higher, nothing else of note moved. -/
def Say.commanded (s t : State) (path ctr : Nat) (op : CmdOp) (sq : FMap (List WEntry)) (tiles : Tiles) : Prop :=
  ∃ x dur, t.my.cmds = s.my.cmds ++ [x] ∧ x.op = op ∧ x.seq = s.my.ctr.seqno ∧ x.path = path ∧ x.lvl = s.my.lvl ∧ x.counted = ctr ∧
    x.pc = s.my.iss.pc ∧ x.done = 0 ∧ x.status = 0 ∧ x.needs = pathNeeds s.my path ∧
    t.my.ctr = { s.my.ctr with seqno := s.my.ctr.seqno + 1 } ∧
    t.my.q = { s.my.q with
      sq := sq, tl := s.my.q.tl + (if ctr = 0 then 1 else 0), cp := s.my.q.cp + (if ctr = 0 then 0 else 1),
      durable := s.my.q.durable ++ dur } ∧
    t.my.tiles = tiles ∧ t.my.iss.fx = s.my.iss.fx ∧ t.loads = s.loads ∧ t.writes = s.writes ∧
    Say.leavesRegisters s.my t.my ∧ Say.leavesOthers s t

/-- A tile word that starts a copy command (R189, R190): its slot, its address and pitch, gloved or not; whether a format or a glove
kind is not accepted; whether its operands stand in the states it needs; the tile table after issue; the command. -/
structure Say.TileWord where
  sl    : CSlot
  addr  : Option (W64 × Option W64)
  glove : Bool
  bad   : Bool
  ready : Bool
  after : Tiles
  op    : CmdOp

/-- Pitch of a tile word. -/
def Say.pitch (s : State) (sl : CSlot) (a : BitVec 4) (pitched : BitVec 1) : Option W64 :=
  if pitched = 1 then some (rdC s.my sl a.toNat) else none

/-- The tile words of R191 to R196 by the table of R190; `tgath` and `tfree` apart. -/
def Say.tileRow (s : State) : Instr → Option Say.TileWord
  | .tloadSlot sl b a n p =>
    let gl := nameGl s.my (0, n.toNat)
    some ⟨sl, some (rdC s.my sl b.toNat, Say.pitch s sl a p), gl, p == 1 && gl, slotSt s.my.tiles n.toNat == .empty,
      setSlot s.my.tiles n.toNat .filling, .tload (rdC s.my sl b.toNat) (Say.pitch s sl a p) false n.toNat 0⟩
  | .tloadRing sl b a m p =>
    let gl := nameGl s.my (1, m.toNat)
    let e := ringTail s.my.tiles m.toNat
    some ⟨sl, some (rdC s.my sl b.toNat, Say.pitch s sl a p), gl, p == 1 && gl, ringSt s.my.tiles m.toNat e == .empty,
      { setRing s.my.tiles m.toNat e .filling with tail := fset s.my.tiles.tail m.toNat (ringNext s.my m.toNat e) },
      .tload (rdC s.my sl b.toNat) (Say.pitch s sl a p) true m.toNat e⟩
  | .rpush sl n m =>
    let e := ringTail s.my.tiles m.toNat
    some ⟨sl, none, false,
      nameFmt s.my (0, n.toNat) != nameFmt s.my (1, m.toNat) || nameGl s.my (0, n.toNat) != nameGl s.my (1, m.toNat),
      slotSt s.my.tiles n.toNat == .ready && ringSt s.my.tiles m.toNat e == .empty,
      setSlot { setRing s.my.tiles m.toNat e .filling with tail := fset s.my.tiles.tail m.toNat (ringNext s.my m.toNat e) }
        n.toNat (.draining 1), .rpush n.toNat m.toNat e⟩
  | .tstore sl b a n p =>
    let gl := nameGl s.my (0, n.toNat)
    some ⟨sl, some (rdC s.my sl b.toNat, Say.pitch s sl a p), gl, p == 1 && gl, slotSt s.my.tiles n.toNat == .ready,
      setSlot s.my.tiles n.toNat (.draining 1), .tstore (rdC s.my sl b.toNat) (Say.pitch s sl a p) n.toNat false⟩
  | .tstoreDur sl b a n p =>
    let gl := nameGl s.my (0, n.toNat)
    some ⟨sl, some (rdC s.my sl b.toNat, Say.pitch s sl a p), gl, p == 1 && gl, slotSt s.my.tiles n.toNat == .ready,
      setSlot s.my.tiles n.toNat (.draining 1), .tstore (rdC s.my sl b.toNat) (Say.pitch s sl a p) n.toNat true⟩
  | .ttrn sl b n =>
    let m := (rdC s.my sl b.toNat).toNat
    some ⟨sl, none, false,
      nameFmt s.my (0, m) != nameFmt s.my (0, n.toNat) || nameGl s.my (0, m) != nameGl s.my (0, n.toNat) || tfScaled (nameFmt s.my (0, m)),
      slotSt s.my.tiles m == .ready && slotSt s.my.tiles n.toNat == .empty,
      setSlot (setSlot s.my.tiles n.toNat .filling) m (.draining 1), .ttrn m n.toNat⟩
  | .tcvt sl b n rnd =>
    let m := (rdC s.my sl b.toNat).toNat
    some ⟨sl, none, false,
      !(cvtFmt (nameFmt s.my (0, m)) && cvtFmt (nameFmt s.my (0, n.toNat)) && nameFmt s.my (0, m) != nameFmt s.my (0, n.toNat)),
      slotSt s.my.tiles m == .ready && slotSt s.my.tiles n.toNat == .empty,
      setSlot (setSlot s.my.tiles n.toNat .filling) m (.draining 1),
      .tcvt m n.toNat rnd.toNat (if rnd = 2 then s.my.ctr.srstate + BitVec.ofNat 64 s.my.iss.sruses else 0)⟩
  | .tzero sl n =>
    some ⟨sl, none, false, false, slotSt s.my.tiles n.toNat == .empty || slotSt s.my.tiles n.toNat == .ready,
      setSlot s.my.tiles n.toNat .filling, .tzero n.toNat⟩
  | _ => none

/-- An address and a pitch that a tile word takes (R172, R173): global, 64-aligned or 256-aligned when gloved, the pitch 64-aligned. -/
def Say.tileFits (glove : Bool) (va : W64) (pitch : Option W64) : Prop :=
  va.toNat < 2 ^ 57 ∧ va.toNat % (if glove then 256 else 64) = 0 ∧ (∀ p, pitch = some p → p.toNat % 64 = 0)

/-- Tile words (R172, R173, R188 to R197): with accepted operands in the states of R190 and room in their counter they start their
command and move the table; with an operand not ready they hold; an operand check that fails traps ILLEGAL_OP with its reason and its
number, a misaligned address or pitch ALIGN and an address of another form TRANSLATION, both with the base address (log entry 39).
`tfree` empties its slot at the end of the bundle; `tgath` takes four index entries. -/
def Say.TileWordsMoveTheirTiles : Prop :=
  ∀ (s : State),
    (∀ (i : Instr) (r : Say.TileWord), Say.tileRow s i = some r → s.my.q.tl < 255 →
      (tileFault s.my i r.bad = none → r.ready = true → (∀ va p, r.addr = some (va, p) → Say.tileFits r.glove va p) →
        ∃ t, exec i s = .next t ∧ Say.commanded s t 1 0 r.op s.my.q.sq r.after) ∧
      (r.ready = false → tileFault s.my i r.bad = none ∨ (∃ n, tileFault s.my i r.bad = some (2, n)) →
        exec i s = .next (Say.holds s .tile 5)) ∧
      (tileFault s.my i r.bad = none → r.ready = true → ∀ va p, r.addr = some (va, p) →
        ((∃ q, p = some q ∧ q.toNat % 64 ≠ 0) ∨ va.toNat % (if r.glove then 256 else 64) ≠ 0 →
          exec i s = .next (takeTrap s { rank := 8, cls := CSlot.cls r.sl, code := 0x0A, tval := va })) ∧
        ((∀ q, p = some q → q.toNat % 64 = 0) → va.toNat % (if r.glove then 256 else 64) = 0 → 2 ^ 57 ≤ va.toNat →
          exec i s = .next (takeTrap s { rank := 9, cls := CSlot.cls r.sl, code := 0x07, tval := va }))) ∧
      (∀ reason n, tileFault s.my i r.bad = some (reason, n) → reason ≠ 2 ∨ r.ready = true →
        exec i s = .next (takeTrap s
          { rank := 7, cls := CSlot.cls r.sl, code := 0x02, tval := BitVec.ofNat 64 (2 ^ 20 + reason * 2 ^ 17 + opcodeOf i % 128 * 2 ^ 8 + n % 256) }))) ∧
    (∀ (sl : CSlot) (n : BitVec 8), tileFault s.my (.tfree sl n) false = none →
      (slotSt s.my.tiles n.toNat = .empty ∨ slotSt s.my.tiles n.toNat = .ready) →
      exec (.tfree sl n) s = .next (s.later (.tfree n.toNat))) ∧
    (∀ (sl : CSlot) (b a : BitVec 4) (n : BitVec 8) (w : BitVec 2) (es rest : List WEntry), s.my.q.tl < 255 →
      tileFault s.my (.tgath sl b a n w) (tfScaled (nameFmt s.my (0, n.toNat))) = none → slotSt s.my.tiles n.toNat = .empty →
      Say.tileFits (nameGl s.my (0, n.toNat)) (rdC s.my sl b.toNat) (some (rdC s.my sl a.toNat)) →
      es.length = 4 → fget [] s.my.q.sq w.toNat = es ++ rest →
      ∃ t idx, exec (.tgath sl b a n w) s = .next t ∧ idx.length = 128 ∧
        (∀ e j, e < 4 → j < 32 → idx[32 * e + j]? =
          some (match es[e]? with
            | some x => if 4 * j + 4 ≤ x.count ∧ lane 32 x.data j ≠ 0xFFFFFFFF then some (lane 32 x.data j) else none
            | none => none)) ∧
        Say.commanded s t 1 0 (.tgath (rdC s.my sl b.toNat) (rdC s.my sl a.toNat) n.toNat idx)
          (fset s.my.q.sq w.toNat rest) (setSlot s.my.tiles n.toNat .filling))

/-- The operand checks of tile words in their order (R188): 4 a number beyond 255, 1 an operand not declared, 2 the word's own, 3 a tile
named twice by the bundle. -/
def Say.TileOperandsAreCheckedInOrder : Prop :=
  ∀ (c : Ctx) (i : Instr) (bad : Bool),
    (∀ n ∈ tileNames c i, 256 ≤ n.2 → ∃ m, m ∈ tileNames c i ∧ 256 ≤ m.2 ∧ tileFault c i bad = some (4, m.2)) ∧
    ((∀ n ∈ tileNames c i, n.2 < 256) →
      (∀ n ∈ tileNames c i, declOf c n = none → ∃ m, m ∈ tileNames c i ∧ declOf c m = none ∧ tileFault c i bad = some (1, m.2)) ∧
      ((∀ n ∈ tileNames c i, declOf c n ≠ none) →
        (bad = true → ∃ m, tileFault c i bad = some (2, m)) ∧
        (bad = false →
          (∀ n ∈ tileNames c i, n ∈ otherNames c i → ∃ m, tileFault c i bad = some (3, m)) ∧
          (¬(tileNames c i).Nodup → ∃ m, tileFault c i bad = some (3, m)) ∧
          ((tileNames c i).Nodup → (∀ n ∈ tileNames c i, n ∉ otherNames c i) → tileFault c i bad = none))))

/-- A window word: its slot, its local and window addresses, its length, and whether it reads (R199). -/
def Say.windowRow (s : State) : Instr → Option (CSlot × W64 × W64 × Nat × Bool × CmdOp)
  | .wget sl b a n => some (sl, rdC s.my sl b.toNat, rdC s.my sl a.toNat, (n.toNat + 1) * 256, true,
      .wget (rdC s.my sl b.toNat) (rdC s.my sl a.toNat) ((n.toNat + 1) * 256))
  | .wput sl b a n => some (sl, rdC s.my sl b.toNat, rdC s.my sl a.toNat, (n.toNat + 1) * 256, false,
      .wput (rdC s.my sl b.toNat) (rdC s.my sl a.toNat) ((n.toNat + 1) * 256))
  | .wadd sl b a n i => some (sl, rdC s.my sl b.toNat, rdC s.my sl a.toNat, (n.toNat + 1) * 256, false,
      .wadd (rdC s.my sl b.toNat) (rdC s.my sl a.toNat) ((n.toNat + 1) * 256) (i == 1))
  | _ => none

/-- Window words (R198, R199) are judged in the order of R199 against the import entry that bits 63:48 of the window address name, and,
when it accepts them, start a window command that cp counts and that keeps the entry as it stood. -/
def Obligations.WindowWordsAreJudgedByTheirEntry : Prop :=
  ∀ (s : State) (i : Instr) (sl : CSlot) (loc win : W64) (len : Nat) (get : Bool) (op : CmdOp),
    Say.windowRow s i = some (sl, loc, win, len, get, op) → s.my.q.cp < 255 →
    let e := fget 0 s.dev.imports (win.toNat / 2 ^ 48)
    let gen := win.toNat / 2 ^ 40 % 2 ^ 8
    let off := win.toNat % 2 ^ 40
    let traps := fun (rank : Nat) (code : TrapCode) (v : W64) =>
      exec i s = .next (takeTrap s { rank := rank, cls := CSlot.cls sl, code := code, tval := v })
    (e.getLsbD 0 = false → traps 9 0x07 win) ∧
    (e.getLsbD 0 = true →
      (gen ≠ (e.extractLsb' 151 8).toNat → traps 10 0x14 win) ∧
      (gen = (e.extractLsb' 151 8).toNat →
        ((e.extractLsb' 111 40).toNat < off + len ∨ (get = false ∧ e.getLsbD 1 = true) → traps 9 0x08 win) ∧
        (off + len ≤ (e.extractLsb' 111 40).toNat → (get = true ∨ e.getLsbD 1 = false) →
          (off % 256 ≠ 0 → traps 8 0x0A win) ∧
          (off % 256 = 0 → loc.toNat % 256 ≠ 0 → traps 8 0x0A loc) ∧
          (off % 256 = 0 → loc.toNat % 256 = 0 → 2 ^ 57 ≤ loc.toNat → traps 9 0x07 loc) ∧
          (off % 256 = 0 → loc.toNat % 256 = 0 → loc.toNat < 2 ^ 57 → (∀ x ∈ s.my.cmds, x.seq ≠ s.my.ctr.seqno) →
            ∃ t, exec i s = .next t ∧ Say.commanded s t 4 1 op s.my.q.sq s.my.tiles ∧
              (∀ x ∈ t.my.cmds, x.seq = s.my.ctr.seqno → x.peer = e)))))

/-- `coll`, `swb`, `smap`, `sinv` (R202 to R205): a collective or a write-back of blocks starts, counted by cp; blocks are bound to
stash entries, or unbound, at the end of the bundle, once the orders on the spill-and-stash path are met (R186, R275; log entry 91); a
range beyond the stash window traps under reason 5 of R188, a misaligned offset ALIGN (log entry 39). -/
def Obligations.CollectiveAndStashWordsStart : Prop :=
  ∀ (s : State) (sl : CSlot) (b : BitVec 4),
    let va := rdC s.my sl b.toNat
    (∀ (op : BitVec 3), s.my.q.cp < 255 → va.toNat % 64 = 0 → va.toNat < 2 ^ 57 →
      ∃ t, exec (.coll sl b op) s = .next t ∧ Say.commanded s t 3 1 (.coll va op.toNat) s.my.q.sq s.my.tiles) ∧
    (∀ (n : BitVec 8), s.my.q.cp < 255 → va.toNat % 4096 = 0 → va.toNat < 2 ^ 57 →
      ∃ t, exec (.swb sl b n) s = .next t ∧ Say.commanded s t 5 1 (.swb va (n.toNat + 1)) s.my.q.sq s.my.tiles) ∧
    (∀ (n : BitVec 8) (x : BitVec 1), va.toNat % 4096 = 0 → va.toNat < 2 ^ 57 →
      (needsMet s s.me 3 (pathNeeds s.my 5) = true → exec (.sinv sl b n x) s = .next (s.later (.sinv va (n.toNat + 1) (x == 1)))) ∧
      (needsMet s s.me 3 (pathNeeds s.my 5) = false → exec (.sinv sl b n x) s = .next (Say.holds s .other 7))) ∧
    (∀ (a : BitVec 4) (n : BitVec 8),
      let off := (rdC s.my sl a.toNat).toNat
      (s.my.tiles.share.stashLen < off + 4096 * (n.toNat + 1) →
        exec (.smap sl b a n) s = .next (takeTrap s
          { rank := 7, cls := CSlot.cls sl, code := 0x02, tval := BitVec.ofNat 64 (2 ^ 20 + 5 * 2 ^ 17 + opcodeOf (.smap sl b a n) % 128 * 2 ^ 8) })) ∧
      (off + 4096 * (n.toNat + 1) ≤ s.my.tiles.share.stashLen → off % 4096 = 0 → va.toNat % 4096 = 0 → va.toNat < 2 ^ 57 →
        (∀ j, j ≤ n.toNat → ∃ x, xlate s s.my.run.lcore s.my.run.space (va + BitVec.ofNat 64 (4096 * j))
          { r := true, w := true, lvl := s.my.lvl } = .ok x ∧ pteDur x.leaf = false) →
        (needsMet s s.me 3 (pathNeeds s.my 5) = true → exec (.smap sl b a n) s = .next (s.later (.smap (off / 4096) (n.toNat + 1) va))) ∧
        (needsMet s s.me 3 (pathNeeds s.my 5) = false → exec (.smap sl b a n) s = .next (Say.holds s .other 7))) ∧
      (off + 4096 * (n.toNat + 1) ≤ s.my.tiles.share.stashLen → off % 4096 ≠ 0 → va.toNat % 4096 = 0 →
        exec (.smap sl b a n) s = .next (takeTrap s { rank := 8, cls := CSlot.cls sl, code := 0x0A, tval := rdC s.my sl a.toNat })))

/-- `enq` and `cnt` (R207, R209) reserve an entry that no counter counts, for the dispatcher's answer, behind every earlier access of
the seat, or for a completion counter; `cancel` (R208, R311) cancels the item it names and nothing when no live item has that name. -/
def Obligations.LaunchWordsAskTheDispatcher : Prop :=
  ∀ (s : State) (sl : CSlot) (b : BitVec 4),
    let va := rdC s.my sl b.toNat
    (∀ (q : BitVec 3) (lq : BitVec 6) (ps : List Part), va.toNat % 256 = 0 → va.toNat < 2 ^ 57 →
      checkUnits s (CSlot.cls sl) 256 { r := true } [(va, 256)] = .ok ps →
      ∃ t l, exec (.enq sl b q lq) s = .next t ∧ t.loads = s.loads ++ [l] ∧ l.id = s.nextId ∧ l.ctx = s.me ∧ l.q = q.toNat ∧
        l.counted = false ∧ l.kind = .enq va lq.toNat ∧ t.my.q = s.my.q ∧ t.writes = s.writes ∧
        (∀ m ∈ s.loads, m.ctx = s.me → ∃ n ∈ l.needs, n.id = m.id ∧ n.k = 0) ∧
        (∀ w ∈ s.writes, w.agent = agentOf s.me 0 → ∃ n ∈ l.needs, n.id = w.id ∧ n.k = 2 ∧ n.scope = 3) ∧
        t.my.iss.fx = s.my.iss.fx ++ [.reserve q.toNat { acc := s.nextId }] ∧ t.my.ctr = s.my.ctr ∧
        Say.leavesRegisters s.my t.my ∧ Say.leavesOthers s t) ∧
    (∀ (q lv : BitVec 3) (kd : BitVec 1),
      ∃ t l, exec (.cnt sl b q lv kd) s = .next t ∧ t.loads = s.loads ++ [l] ∧ l.id = s.nextId ∧ l.ctx = s.me ∧ l.q = q.toNat ∧
        l.counted = false ∧ l.kind = .cnt va lv.toNat (kd == 1) ∧ t.my.q = s.my.q ∧ t.writes = s.writes ∧
        t.my.iss.fx = s.my.iss.fx ++ [.reserve q.toNat { acc := s.nextId }] ∧
        Say.leavesRegisters s.my t.my ∧ Say.leavesOthers s t) ∧
    (∀ (lv : BitVec 3), ∃ t, exec (.cancel sl b lv) s = .next t ∧ t.my.regs = s.my.regs ∧ t.my.q = s.my.q ∧ t.loads = s.loads ∧
      (∀ l x, fget? s.dev.launches l = some x → (∀ f, x.st ≠ .ended f) →
        (if lv = 0 then l = va.toNat else va.toNat ≠ 0 ∧ (if lv = 1 then x.rec_.graph else if lv = 2 then x.rec_.phase else x.rec_.job) = va.toNat) →
        (t.launch l).cancelled = true) ∧
      (namedLaunches s lv.toNat va.toNat = [] → t = s))

/-! The X slot -/

/-- `s` with an x register write pending (class 7, kind 0). -/
def Say.writeX (s : State) (d lat : Nat) (v : Wide) : State := s.write 7 0 d lat v
/-- `s` with a scale register write pending (class 7, kind 2). -/
def Say.writeE (s : State) (d lat : Nat) (v : BitVec 256) : State := s.write 7 2 d lat (v.setWidth 1024)

/-- `xget`, `xmov`, `xrot` (R156 to R158): heads, registers and scale registers copied at latency 2, a scalar into one 64-bit lane of
the register as it stood. -/
def Say.ExchangeMovesCopyRegisters : Prop :=
  ∀ (s : State) (d : BitVec 4),
    (∀ (file : BitVec 3) (idx : BitVec 6) (ln : BitVec 4) (v : Wide), Instr.wf (.xget d file idx ln) → s.free 7 0 d.toNat 2 →
      (if file = 0 then headOf s.my 7 idx.toNat = .ok v
       else if file = 1 then v = fget 0 s.my.regs.va idx.toNat
       else if file = 2 then v = fget 0 s.my.regs.vb idx.toNat
       else ∀ j, j < 16 → lane 64 v j = (if j = ln.toNat then (if idx = 0 then 0 else (fget 0 s.my.regs.s idx.toNat).toNat)
         else lane 64 (fget 0 s.my.regs.x d.toNat) j)) →
      exec (.xget d file idx ln) s = .next (Say.writeX s d.toNat 2 v)) ∧
    (∀ (a : BitVec 4), s.free 7 0 d.toNat 2 →
      exec (.xmov 14 d a 0) s = .next (Say.writeX s d.toNat 2 (fget 0 s.my.regs.x a.toNat)) ∧
      exec (.xmov 13 d a 1) s = .next (Say.writeX s d.toNat 2 ((fget 0 s.my.regs.e a.toNat).setWidth 1024)) ∧
      (∀ n : BitVec 4, exec (.xrot 14 d a n) s = .next (Say.writeX s d.toNat 2 ((fget 0 s.my.regs.x a.toNat).rotateRight (64 * n.toNat))))) ∧
    (∀ (a : BitVec 4), s.free 7 2 d.toNat 2 →
      exec (.xmov 13 d a 0) s = .next (Say.writeE s d.toNat 2 ((fget 0 s.my.regs.x a.toNat).setWidth 256)) ∧
      exec (.xrot 13 d a 0) s = .next (Say.writeE s d.toNat 2
        ((fget 0 s.my.regs.e a.toNat).extractLsb' 0 128 ++ (fget 0 s.my.regs.e a.toNat).extractLsb' 128 128)))

/-- `xshuf`, `xzip`, `xuzp` (R147, R158): elements of a permuted by the indices in b, 0 beyond the register; low halves interleaved;
even elements side by side. -/
def Say.ExchangePermutesElements : Prop :=
  ∀ (s : State) (fmt d a b : BitVec 4), Instr.wf (.xshuf fmt d a b) → s.free 7 0 d.toNat 2 →
    let w := fmtW fmt.toNat
    let n := 1024 / w
    let x := fget 0 s.my.regs.x a.toNat
    let y := fget 0 s.my.regs.x b.toNat
    (∃ v, exec (.xshuf fmt d a b) s = .next (Say.writeX s d.toNat 2 v) ∧
      ∀ i, i < n → lane w v i = if lane w y i < n then lane w x (lane w y i) else 0) ∧
    (∃ v, exec (.xzip fmt d a b) s = .next (Say.writeX s d.toNat 2 v) ∧
      ∀ i, i < n / 2 → lane w v (2 * i) = lane w x i ∧ lane w v (2 * i + 1) = lane w y i) ∧
    (∃ v, exec (.xuzp fmt d a b) s = .next (Say.writeX s d.toNat 2 v) ∧
      ∀ i, i < n / 2 → lane w v i = lane w x (2 * i) ∧ lane w v (n / 2 + i) = lane w y (2 * i))

/-- The value of R87 that a stochastic word of the X slot draws from, and the state once its use is counted. -/
def Say.draws (s : State) (rnd : BitVec 2) : State :=
  if rnd = 2 then s.setMy { s.my with iss := { s.my.iss with sruses := s.my.iss.sruses + 1 } } else s

/-- The rounding of lane i in a mode, with its random number (R81, R87). -/
def Say.rounding (s : State) (rnd : BitVec 2) (i : Nat) : Rnd :=
  rndOf rnd.toNat (srRandom (if rnd = 2 then s.my.ctr.srstate + BitVec.ofNat 64 s.my.iss.sruses else 0) i)

/-- `xpack`, `xmxs`, `xunpk`, `xscal` (R159 to R162): the block and the scale that R84 forms go to their places and all other bits stay;
a block is expanded to 32 values; 32 values are multiplied by the scale or divided by it. -/
def Obligations.ScaledBlocksArePackedAndUnpacked : Prop :=
  ∀ (s : State) (fmt d a j e : BitVec 4) (rnd : BitVec 2),
    let x := fget 0 s.my.regs.x a.toNat
    let sc := fget 0 s.my.regs.e e.toNat
    let w := if fmt = 11 then 4 else 8
    let p := j.toNat % (32 / w)
    let S := (sc >>> (8 * j.toNat)).toNat % 256
    let wide := (List.range 32).map (fun i => decF ff32 (lane 32 x i))
    (Instr.wf (.xpack fmt d a j e rnd) → s.free 7 0 d.toNat 3 → s.free 7 2 e.toNat 3 →
      let blk := mxBlock fmt.toNat (Say.rounding s rnd) wide
      ∃ v t, exec (.xpack fmt d a j e rnd) s = .next (Say.writeE (Say.writeX (Say.draws s rnd) d.toNat 3 v) e.toNat 3 t) ∧
        (∀ i, i < 1024 / w → lane w v i = if i / 32 = p then blk.2.getD (i % 32) 0 % 2 ^ w else lane w (fget 0 s.my.regs.x d.toNat) i) ∧
        (∀ i, i < 32 → (t >>> (8 * i)).toNat % 256 = if i = j.toNat then blk.1 % 256 else (sc >>> (8 * i)).toNat % 256)) ∧
    (Instr.wf (.xmxs fmt a j e) → s.free 7 2 e.toNat 3 →
      ∃ t, exec (.xmxs fmt a j e) s = .next (Say.writeE s e.toNat 3 t) ∧
        (∀ i, i < 32 → (t >>> (8 * i)).toNat % 256 = if i = j.toNat then mxScale fmt.toNat wide % 256 else (sc >>> (8 * i)).toNat % 256)) ∧
    (Instr.wf (.xunpk fmt d a j e) → s.free 7 0 d.toNat 3 →
      ∃ v, exec (.xunpk fmt d a j e) s = .next (Say.writeX s d.toNat 3 v) ∧
        ∀ i, i < 32 → lane 32 v i = encF ff32 .rne false (mxValue fmt.toNat S (lane w x (32 * p + i))) % 2 ^ 32) ∧
    (Instr.wf (.xscal fmt d a j e rnd) → s.free 7 0 d.toNat 2 →
      ∃ v, exec (.xscal fmt d a j e rnd) s = .next (Say.writeX (Say.draws s rnd) d.toNat 2 v) ∧
        ∀ i, i < 32 → lane 32 v i = encF ff32 (Say.rounding s rnd i) false
          (if S = 255 then .nan else scaleV (decF ff32 (lane 32 x i)) (if fmt = 8 then (S : Int) - 127 else 127 - (S : Int))) % 2 ^ 32)

/-- `xlsc` and `xssc` (R163, R246): 32 bytes of core store come to a scale register at latency 6 as the seat sees them; 32 bytes of core
store are written, and no byte elsewhere but those of writes already on their way to a core store; a local address outside the seat's
tiles reads 0 and is not written. While an order on the access, or an earlier access of the seat to its bytes, is not done, they hold
(R182, R268, R275; log entry 91). A misaligned address traps ALIGN, one without the local form TRANSLATION. -/
def Obligations.ScaleAccessesReachTheCoreStore : Prop :=
  ∀ (s : State) (e x : BitVec 4) (imm : BitVec 14),
    let va : W64 := (fget 0 s.my.regs.x x.toNat).setWidth 64 + BitVec.ofNat 64 (32 * imm.toNat)
    let o := va.toNat % 2 ^ 22
    let key := keyCore s.my.run.lcore o
    let quiet := ∀ rd wr, watchCheck s.my 7 rd wr [(va, 32)] = .ok ()
    let now := forceCore s s.me
    (va.toNat % 32 ≠ 0 →
      exec (.xlsc e x imm) s = .next (takeTrap s { rank := 8, cls := 7, code := 0x0A, tval := va }) ∧
      exec (.xssc e x imm) s = .next (takeTrap s { rank := 8, cls := 7, code := 0x0A, tval := va })) ∧
    (va.toNat % 32 = 0 → va.toNat / 2 ^ 22 ≠ 2 ^ 41 →
      exec (.xlsc e x imm) s = .next (takeTrap s { rank := 9, cls := 7, code := 0x07, tval := va }) ∧
      exec (.xssc e x imm) s = .next (takeTrap s { rank := 9, cls := 7, code := 0x07, tval := va })) ∧
    (va.toNat % 32 = 0 → va.toNat / 2 ^ 22 = 2 ^ 41 → quiet →
      (inRange s.my.tiles.share o = true →
        (s.free 7 2 e.toNat 6 → scaleOrder now key false = .ok () → ∃ v, exec (.xlsc e x imm) s = .next (Say.writeE now e.toNat 6 v) ∧
          ∀ i, i < 32 → (v >>> (8 * i)).setWidth 8 = viewByte now (viewerOf now s.me 0) s.nextId (key + i)) ∧
        (scaleOrder now key false ≠ .ok () → exec (.xlsc e x imm) s = .next (Say.holds s .other 7)) ∧
        (scaleOrder now key true ≠ .ok () → exec (.xssc e x imm) s = .next (Say.holds s .other 7)) ∧
        (canonicalMemory s → scaleOrder now key true = .ok () → ∃ t, exec (.xssc e x imm) s = .next t ∧
          (∀ i, i < 32 → memGet t.mem (key + i) = ((fget 0 s.my.regs.e e.toNat) >>> (8 * i)).setWidth 8) ∧
          (∀ a, (∀ i, i < 32 → a ≠ key + i) → (∀ w ∈ s.writes, ∀ c ∈ w.cells, c.1 ≠ a) → memGet t.mem a = memGet s.mem a) ∧
          t.my = s.my ∧ t.loads = s.loads ∧ t.nv = s.nv)) ∧
      (inRange s.my.tiles.share o = false →
        (s.free 7 2 e.toNat 6 → exec (.xlsc e x imm) s = .next (Say.writeE (s.later (.oob va)) e.toNat 6 0)) ∧
        exec (.xssc e x imm) s = .next (s.later (.oob va))))

/-- The barrier words (R164 to R168), with no barrier fault stored: `bar.init` and `bar.arr` send a message to the home core of the scope,
`bar.arr` behind every earlier access of the seat and with a pending record; `bar.wait` holds until its record's phase has moved on and
clears the record, and what the seat reads and releases later comes after what the arrivals ordered (R272, R273); with no record, or
another barrier's, it traps; `bar.tst` reserves an entry. A stored fault is raised instead. -/
def Obligations.BarrierWordsSendAndWait : Prop :=
  ∀ (s : State) (id : BitVec 11) (scope : BitVec 3), scope.toNat ≤ 2 →
    let core := s.my.run.lcore
    let home := if scope = 0 then core else if scope = 1 then (if core < 2048 then core / 4 else core) * 4 else dieOf core * 64
    let fault := fun (reason : Nat) =>
      takeTrap s { rank := 16, cls := 7, code := 0x16, tval := BitVec.ofNat 64 (id.toNat + scope.toNat * 2048 + reason * 65536) }
    (s.my.barFault = none →
      (∀ a : BitVec 4, exec (.barInit id scope a) s = .next { s with
        bmsgs := s.bmsgs ++ [.init s.nextId home id.toNat scope.toNat ((fget 0 s.my.regs.x a.toNat).setWidth 32).toNat s.me]
        nextId := s.nextId + 1 }) ∧
      (∃ t ns, exec (.barArr id scope) s = .next t ∧
        t.my = { s.my with bar := some { home := home, bar := id.toNat, scope := scope.toNat, pending := true, phase := 0, arr := s.nextId } } ∧
        t.bmsgs = s.bmsgs ++ [.arrive s.nextId home id.toNat scope.toNat s.me ns] ∧
        (∀ l ∈ s.loads, l.ctx = s.me → ∃ n ∈ ns, n.id = l.id ∧ n.k = 0) ∧
        (∀ w ∈ s.writes, w.agent = agentOf s.me 0 → ∃ n ∈ ns, n.id = w.id ∧ n.k = 2 ∧ n.scope = scope.toNat) ∧
        t.mem = s.mem ∧ t.writes = s.writes ∧ t.loads = s.loads ∧ (∀ k, k ≠ s.me → t.ctx k = s.ctx k)) ∧
      (s.my.bar = none → exec (.barWait id scope) s = .next (fault 4)) ∧
      (∀ r, s.my.bar = some r →
        (r.bar ≠ id.toNat ∨ r.scope ≠ scope.toNat → exec (.barWait id scope) s = .next (fault 5)) ∧
        (r.bar = id.toNat → r.scope = scope.toNat →
          (r.pending = false → s.my.barPhase ≠ r.phase → ∃ fl obs,
            exec (.barWait id scope) s =
              .next (s.setMy { s.my with bar := none, q := { s.my.q with floor := fl, observed := obs } }) ∧
            fget 0 fl 0 = s.ticks ∧ (∀ i ∈ r.obs, (∃ w ∈ s.writes, w.id = i) → i ∈ obs)) ∧
          (r.pending = true ∨ s.my.barPhase = r.phase → exec (.barWait id scope) s = .next (Say.holds s .barrier 6)))) ∧
      (∀ q : BitVec 3, ∃ t l, exec (.barTst id scope q) s = .next t ∧ t.loads = s.loads ++ [l] ∧ l.id = s.nextId ∧ l.ctx = s.me ∧
        l.q = q.toNat ∧ l.counted = false ∧ l.kind = .barTst home id.toNat scope.toNat ∧
        t.my = { s.my with iss := { s.my.iss with fx := s.my.iss.fx ++ [.reserve q.toNat { acc := s.nextId }] } })) ∧
    (∀ v, s.my.barFault = some v →
      (∀ i ∈ [Instr.barInit id scope 0, .barArr id scope, .barWait id scope, .barTst id scope 0],
        exec i s = .next (takeTrap s { rank := 16, cls := 7, code := 0x16, tval := v })) ∧
      (takeTrap s { rank := 16, cls := 7, code := 0x16, tval := v }).my.barFault = none)

/-- `spawn` (R16, R40, R41, R169, R273) to an idle seat of the quad, or to one whose context only waits for a claim or a steal: the target's context starts at program level at the entry, in the
spawner's launch, with the sixteen words of x a in s40 to s55, the spawner's MSORD, empty queues and loops, no sooner than four cycles
on, its accesses behind the spawner's at quad scope; to a busy seat, or while its launch stops (log entry 86), it traps SPAWN_BUSY, with
a misaligned entry ALIGN, and from a determinism-flagged context to its own core ILLEGAL_OP. -/
def Say.SpawnStartsAContext : Prop :=
  ∀ (s : State) (t : BitVec 3) (a b : BitVec 4),
    let c := s.my
    let core := (if c.run.lcore < 2048 then c.run.lcore / 4 else c.run.lcore) * 4 + t.toNat / 2
    let seat := t.toNat % 2
    let entry : W64 := (fget 0 c.regs.x b.toNat).setWidth 64
    (¬(c.run.det = true ∧ core = c.run.lcore) → entry.toNat % 4 = 0 → spawnBusy s core seat = false →
      (c.run.det = true → coreDet s core = false) → (s.launch c.run.launch).stopping = none →
      ∃ s', exec (.spawn t a b) s = .next s' ∧
        let k := s.bankOf core seat
        let n := s'.ctx k
        n.lvl = 0 ∧ n.flow = { npc0 := entry, start := 4 } ∧ n.ctr.msord = c.ctr.msord ∧ n.ctr.frame = 0 ∧
        n.run = { busy := true, live := true, launch := c.run.launch, domain := c.run.domain, space := c.run.space, det := c.run.det,
                  stmp := c.run.stmp, pre := c.run.pre, spawned := true, lcore := core, bank := seat, firstCore := core,
                  firstSeat := seat } ∧
        (∀ i, i < 16 → fget 0 n.regs.s (40 + i) = ((fget 0 c.regs.x a.toNat) >>> (64 * i)).setWidth 64) ∧
        (∀ i, i < 40 ∨ 56 ≤ i → fget 0 n.regs.s i = if bankDomain s core seat = c.run.domain then fget 0 (s.ctx k).regs.s i else 0) ∧
        n.q.lq = [] ∧ n.q.sq = [] ∧ n.q.defer = [] ∧
        (∀ l ∈ s.loads, l.ctx = s.me → (∃ m ∈ readNeeds n, m.id = l.id ∧ m.k = 0) ∧ (∃ m ∈ writeNeeds n, m.id = l.id ∧ m.k = 0)) ∧
        (∀ w ∈ s.writes, w.agent = agentOf s.me 0 →
          (∃ m ∈ readNeeds n, m.id = w.id ∧ m.k = 2 ∧ m.scope = 1) ∧ (∃ m ∈ writeNeeds n, m.id = w.id ∧ m.k = 1 ∧ m.scope = 1)) ∧
        (∀ j, j ≠ k → (s'.ctx j).regs = (s.ctx j).regs ∧ (s'.ctx j).run = (s.ctx j).run ∧ (s'.ctx j).flow = (s.ctx j).flow)) ∧
    (c.run.det = true → core = c.run.lcore →
      exec (.spawn t a b) s = .next (takeTrap s { rank := 7, cls := 7, code := 0x02, tval := opTval 4 7 t.toNat })) ∧
    (¬(c.run.det = true ∧ core = c.run.lcore) → entry.toNat % 4 ≠ 0 →
      exec (.spawn t a b) s = .next (takeTrap s { rank := 8, cls := 7, code := 0x0A, tval := entry })) ∧
    (¬(c.run.det = true ∧ core = c.run.lcore) → entry.toNat % 4 = 0 →
      spawnBusy s core seat = true ∨ (c.run.det = true ∧ coreDet s core = true) ∨ (s.launch c.run.launch).stopping ≠ none →
      exec (.spawn t a b) s = .next (takeTrap s { rank := 15, cls := 7, code := 0x0E, tval := BitVec.ofNat 64 (core % 2048 + seat * 2048) }))

/-- `yield` (R10, R170) asks for an exchange at the end of its bundle when STATUS.PRE is set, STATUS.DET clear and the standby bank holds a
ready context; otherwise it does nothing. At the end of the bundle the core has an exchange of the seat wanted. -/
def Say.YieldAsksForAnExchange : Prop :=
  ∀ (s : State),
    (s.my.sys.status.getLsbD 5 = true → s.my.sys.status.getLsbD 3 = false → standbyReady s s.my.run.lcore = true →
      exec .yield s = .next (s.later .yield)) ∧
    (s.my.sys.status.getLsbD 5 = false ∨ s.my.sys.status.getLsbD 3 = true ∨ standbyReady s s.my.run.lcore = false →
      exec .yield s = .next s) ∧
    ((endFx s .yield).core s.my.run.lcore).want = some s.my.run.bank

/-! The M slot and the microwords -/

/-- `mset`, `mget`, `mseth` (R216): shadow parameter registers from an immediate at latency 1, a scalar at latency 2, the active set at
latency 1. -/
def Say.ParameterWordsWriteShadowRegisters : Prop :=
  ∀ (s : State),
    (∀ (p : BitVec 3) (imm : BitVec 19), s.free 4 0 p.toNat 1 →
      exec (.mset p imm) s = .next (s.write 4 0 p.toNat 1 ((imm.signExtend 64).setWidth 1024))) ∧
    (∀ (p : BitVec 3) (a : BitVec 6) (v : W64), rdS s.my 4 a.toNat = .ok v → s.free 4 0 p.toNat 2 →
      exec (.mget p a) s = .next (s.write 4 0 p.toNat 2 (v.setWidth 1024))) ∧
    ((∀ p, p < 8 → s.free 4 0 p 1) →
      exec .mseth s = .next (s.setMy (s.my.setPend (s.my.pend ++ (List.range 8).map (fun p =>
        ({ cls := 4, kind := 0, reg := p, delay := 1, value := (fget 0 s.my.regs.p p).setWidth 1024 } : Pend))))))

/-- `mcall` (R217) takes a sequence number, one count of tl and one use of SRSTATE, captures the shadow registers, its flags, the profile
its header names and SRSTATE, and queues the call behind all issued before it; while the seat's queued call has not started, and while
tl is full, it holds (R44, R53, R315). `mabort` (R221) ends both calls of its seat without a report and no call of another. -/
def Say.MatrixCallsQueueAndAbort : Prop :=
  ∀ (s : State),
    (∀ (n : BitVec 10) (nc lc e5 : BitVec 1) (ce st : BitVec 2), s.my.call = none → s.my.q.tl < 255 →
      ∃ t a x, exec (.mcall n nc lc e5 ce st) s = .next t ∧ t.my.call = some a ∧
        a.routine = n.toNat ∧ a.nocorr = (nc == 1) ∧ a.limc = (lc == 1) ∧ a.e5 = (e5 == 1) ∧ a.ceil = ce.toNat ∧ a.start = st.toNat ∧
        a.seq = s.my.ctr.seqno ∧ a.pc = s.my.iss.pc ∧ a.lvl = s.my.lvl ∧ a.p = s.my.regs.psh ∧
        a.sr = s.my.ctr.srstate + BitVec.ofNat 64 s.my.iss.sruses ∧ t.my.iss.sruses = s.my.iss.sruses + 1 ∧
        t.my.ctr = { s.my.ctr with seqno := s.my.ctr.seqno + 1 } ∧ t.my.q.tl = s.my.q.tl + 1 ∧
        t.my.cmds = s.my.cmds ++ [x] ∧ x.op = .matrix ∧ x.seq = s.my.ctr.seqno ∧ x.path = 2 ∧
        (t.core s.my.run.lcore).calls = (s.core s.my.run.lcore).calls ++ [s.me] ∧ s.nextId ≤ a.ord ∧ a.ord < t.nextId ∧
        t.my.regs = s.my.regs ∧ t.my.flow = s.my.flow ∧ t.mem = s.mem ∧ (∀ k, k ≠ s.me → t.ctx k = s.ctx k)) ∧
    (∀ (n : BitVec 10) (nc lc e5 : BitVec 1) (ce st : BitVec 2) (a : Call), s.my.call = some a →
      exec (.mcall n nc lc e5 ce st) s = .next (Say.holds s .callQueue 4)) ∧
    (∀ (n : BitVec 10) (nc lc e5 : BitVec 1) (ce st : BitVec 2), s.my.call = none → 255 ≤ s.my.q.tl →
      exec (.mcall n nc lc e5 ce st) s = .next (Say.holds s .counterFull 3)) ∧
    ((∀ x ∈ s.my.cmds, x.path = 2 → x.status = 0) → ∃ t, exec .mabort s = .next t ∧ t.my.call = none ∧ t.my.savedCall = none ∧ (∀ x ∈ t.my.cmds, x.path ≠ 2) ∧
      s.me ∉ (t.core s.my.run.lcore).calls ∧ t.my.reports = s.my.reports ∧
      (∀ r, (s.core s.my.run.lcore).run = some r →
        (r.ctx = s.me → (t.core s.my.run.lcore).run = none) ∧ (r.ctx ≠ s.me → (t.core s.my.run.lcore).run = some r)) ∧
      (∀ k, k ≠ s.me → t.ctx k = s.ctx k ∧ (k ∈ (s.core s.my.run.lcore).calls ↔ k ∈ (t.core s.my.run.lcore).calls)))

/-- The core whose turn it is has a call that takes microwords: the model's form of a running sequencer (log entry 4). -/
def Say.sequencing (s : State) (core : Nat) (r : ArrayRun) : Prop :=
  s.turn = .micro core ∧ (s.core core).run = some r ∧ r.stop = none ∧ r.returned = false ∧ r.park = false ∧ r.reload = false

/-- The next microword of the store is legal, so that the sequencer goes on to it (R62, R223). -/
def Say.legalAt (s : State) (core i : Nat) : Prop := i < 16384 ∧ decodeMicro (storeAt (s.core core) i) ≠ none

/-- The state after a microword whose call state becomes r, the next index entered. -/
def Say.sequenced (s t : State) (core : Nat) (r : ArrayRun) : Prop :=
  (t.core core).run = some { r with idx := r.idx + 1 } ∧ t.mem = s.mem ∧ t.nv = s.nv ∧ t.writes = s.writes ∧ t.loads = s.loads ∧
  (t.core core).acc = (s.core core).acc ∧ (t.core core).ustore = (s.core core).ustore ∧
  (∀ k, (t.ctx k).regs = (s.ctx k).regs ∧ (t.ctx k).flow = (s.ctx k).flow ∧ (t.ctx k).sys = (s.ctx k).sys) ∧
  (∀ k, k ≠ r.ctx → t.ctx k = s.ctx k)

/-- The microwords that set the call's state (R231): `mnop`, `mbud`, `mchk`, `mlad`, and, when the earlier work of the call is finished,
`mwt` and `mret`; illegal field values stop the call with reason 0x16. -/
def Say.MicrowordsSetTheCallState : Prop :=
  ∀ (s : State) (core : Nat) (r : ArrayRun), Say.sequencing s core r → Say.legalAt s core (r.idx + 1) →
    let stops := fun (i : Instr) => exec i s = .next (s.setCore core { s.core core with run := some { r with stop := some (0x16, r.idx, 0, 0, 0, 0) } })
    (∃ t, exec .microwordMnop s = .next t ∧ Say.sequenced s t core r) ∧
    (∀ pb : BitVec 3,
      let v := fget 0 (s.ctx r.ctx).regs.p pb.toNat
      (v.toNat < 2 ^ 54 → ∃ t, exec (.mbud pb) s = .next t ∧ Say.sequenced s t core { r with
        bud := [v.toNat % 2 ^ 16, v.toNat / 2 ^ 16 % 2 ^ 16, v.toNat / 2 ^ 32 % 2 ^ 16, v.toNat / 2 ^ 48 % 2 ^ 6] }) ∧
      (2 ^ 54 ≤ v.toNat → stops (.mbud pb))) ∧
    (∀ nc : BitVec 1, ∃ t, exec (.mchk nc) s = .next t ∧ Say.sequenced s t core { r with
      corr := nc == 0 && !r.call.nocorr && !(s.ctx r.ctx).run.det }) ∧
    (∀ (st cl : BitVec 2) (e5 lc : BitVec 1),
      (st.toNat ≤ cl.toNat → cl ≠ 3 → ∃ t, exec (.mlad st cl e5 lc) s = .next t ∧ Say.sequenced s t core { r with
        start := st.toNat, ceil := cl.toNat, e5 := e5 == 1, limc := lc == 1 }) ∧
      (cl = 3 ∨ cl.toNat < st.toNat → stops (.mlad st cl e5 lc))) ∧
    (r.steps = [] → r.drains = [] → r.loading = false →
      (∃ t, exec .mwt s = .next t ∧ Say.sequenced s t core r) ∧
      exec .mret s = .next (s.setCore core { s.core core with run := some { r with returned := true } })) ∧
    (r.steps ≠ [] ∨ r.drains ≠ [] ∨ r.loading = true → exec .mwt s = .next s ∧ exec .mret s = .next s)

/-- Microloops (R231): `mloop` opens one with its count, from the field or from an active parameter register, and skips one of count 0;
`mend` closes the innermost, or goes back with one pass less; a fifth level, or an `mend` without a loop, stops the call. -/
def Say.MicroloopsRepeatTheirCount : Prop :=
  ∀ (s : State) (core : Nat) (r : ArrayRun), Say.sequencing s core r →
    let stops := fun (i : Instr) => exec i s = .next (s.setCore core { s.core core with run := some { r with stop := some (0x16, r.idx, 0, 0, 0, 0) } })
    (∀ (pc : BitVec 3) (im : BitVec 1) (cnt : BitVec 16),
      let n := if im = 1 then cnt.toNat else (fget 0 (s.ctx r.ctx).regs.p pc.toNat).toNat % 2 ^ 32
      ((im = 1 ∧ pc ≠ 0) ∨ 4 ≤ r.loops.length → stops (.mloop pc im cnt)) ∧
      (¬((im = 1 ∧ pc ≠ 0) ∨ 4 ≤ r.loops.length) →
        (n ≠ 0 → Say.legalAt s core (r.idx + 1) → ∃ t, exec (.mloop pc im cnt) s = .next t ∧
          Say.sequenced s t core { r with loops := (r.idx + 1, n) :: r.loops }) ∧
        (n = 0 → ∀ i, Say.legalAt s core i → skipLoop (s.core core) (16384 - (r.idx + 1)) 0 (r.idx + 1) = i →
          exec (.mloop pc im cnt) s = .next (s.setCore core { s.core core with run := some { r with idx := i } })))) ∧
    (r.loops = [] → stops .mend) ∧
    (∀ a n rest, r.loops = (a, n) :: rest →
      (n = 1 → Say.legalAt s core (r.idx + 1) → ∃ t, exec .mend s = .next t ∧ Say.sequenced s t core { r with loops := rest }) ∧
      (n ≠ 1 → Say.legalAt s core a →
        exec .mend s = .next (s.setCore core { s.core core with run := some { r with loops := (a, n - 1) :: rest, idx := a } })))

/-- Loads, streams and drains start (R226 to R230) once what they name is admitted and free: `mldw` fills the shadow plane, which `mswp`
makes active when every step has committed; `mstrm` and `mmv` add a step with the call's ladder and budgets, `mmv` with its vectors
resident from its start; `mdrn` adds a drain and its destination fills. -/
def Say.MatrixWorkStarts : Prop :=
  ∀ (s : State) (core : Nat) (r : ArrayRun), Say.sequencing s core r → Say.legalAt s core (r.idx + 1) →
    let c := s.ctx r.ctx
    let st := fun (srcs : List TileRef) (blk n : Nat) (pop : Bool) =>
      ({ mmv := none, srcs := srcs, blk := blk, tiles := n, pop := pop, index := r.idx, start := r.start, ceil := r.ceil, e5 := r.e5,
         limc := r.limc, corr := r.corr, bud := r.bud } : StepRec)
    (∀ (src : BitVec 9) (t : TileRef) (p : Plane), oneRef c src = .ok t → admitB r.call.prof (refDecl c t).fmt = true → r.shadow = none →
      r.loading = false → accepts c r t = true → loadPlane s r.ctx t false 0 r.start r.e5 = .ok p →
      ∃ t', exec (.mldw src 0 0) s = .next t' ∧ Say.sequenced s t' core { r with shadow := some p, loading := true }) ∧
    (∀ (src : BitVec 9) (m : BitVec 8) (t : TileRef) (d : TileDecl) (p : Plane), oneRef c src = .ok t →
      fget? c.tiles.share.slots m.toNat = some d → d.fmt = 6 → d.gloved = false → admitB r.call.prof (refDecl c t).fmt = true →
      r.shadow = none → r.loading = false → accepts c r t = true → accepts c r { ring := false, num := m.toNat, ent := 0 } = true →
      loadPlane s r.ctx t true m.toNat r.start r.e5 = .ok p →
      ∃ t', exec (.mldw src 1 m) s = .next t' ∧ Say.sequenced s t' core { r with shadow := some p, loading := true }) ∧
    (∀ p, r.shadow = some p → r.steps = [] → r.loading = false →
      ∃ t', exec .mswp s = .next t' ∧ Say.sequenced s t' core { r with active := some p, shadow := none }) ∧
    (∀ (src : BitVec 9) (tiles : BitVec 3) (blk : BitVec 4) (pop : BitVec 1) (p : Plane) (ts : List TileRef),
      (pop = 1 → src.getLsbD 8 = true ∧ src.toNat / 8 % 8 = 0) → r.active = some p →
      tileRefs c src ((tiles.toNat + 1) * (if p.sp then 2 else 1)) = .ok ts →
      (∀ x ∈ ts, admitA r.call.prof (refDecl c x).fmt = true ∧ accepts c r x = true) → blk.toNat + tiles.toNat + 1 ≤ c.tiles.share.accCnt →
      r.steps.length < 2 → (∀ x ∈ r.steps, x.mmv = none) →
      ∃ t', exec (.mstrm src tiles blk pop) s = .next t' ∧
        Say.sequenced s t' core { r with steps := r.steps ++ [st ts blk.toNat (tiles.toNat + 1) (pop == 1)] }) ∧
    (∀ (vec : BitVec 8) (nv pa : BitVec 3) (cnt : BitVec 8) (blk wf : BitVec 4) (gl : BitVec 1) (d : TileDecl) (fmt : Nat),
      fget? c.tiles.share.slots vec.toNat = some d → weightFmt r.call.prof wf.toNat (gl == 1) = .ok fmt →
      admitA r.call.prof d.fmt = true → 128 * blk.toNat + 8 * cnt.toNat + (nv.toNat + 1) ≤ 128 * c.tiles.share.accCnt →
      accepts c r { ring := false, num := vec.toNat, ent := 0 } = true → r.steps = [] →
      ∃ t', exec (.mmv vec nv pa cnt blk wf gl) s = .next t' ∧ Say.sequenced s t' core { r with
        steps := [{ st [{ ring := false, num := vec.toNat, ent := 0 }] blk.toNat 1 false with
          mmv := some (0, cnt.toNat + 1, fget 0 c.regs.p pa.toNat, fmt, gl == 1), pa := pa.toNat, vec := vec.toNat, nv := nv.toNat + 1,
          rows := some (loadRows s r.ctx vec.toNat (nv.toNat + 1) r.start r.e5) }] }) ∧
    (∀ (blk : BitVec 4) (dst : BitVec 9) (rnd : BitVec 2) (clr : BitVec 1) (t : TileRef), rnd ≠ 3 → drainRef c dst = .ok t →
      admitOut r.call.prof (refDecl c t).fmt = true → blk.toNat < c.tiles.share.accCnt → (∀ x ∈ r.steps, stepTouches blk.toNat x = false) →
      r.drains = [] → refSt c t = .empty →
      ∃ t', exec (.mdrn blk dst rnd clr) s = .next t' ∧ refSt (t'.ctx r.ctx) t = .filling ∧
        Say.sequenced s t' core { r with
          drains := [{ blk := blk.toNat, dst := t, rnd := rnd.toNat, clr := clr == 1, draw := r.draw, index := r.idx, corr := r.corr }],
          draw := if rnd = 2 then r.draw + 1 else r.draw })

/-- `mclr` and `mpop` (R190, R231, R255): accumulator blocks of the seat's range read +0 with their checks and sums 0 and no other block
changes; ring entries at the head are empty and the head moves on, or a slot is empty; an entry that failed to fill is never consumed, so
`mpop` waits at it. A block outside the range stops the call with reason 0x15. -/
def Say.BlocksClearAndTilesArePopped : Prop :=
  ∀ (s : State) (core : Nat) (r : ArrayRun), Say.sequencing s core r → Say.legalAt s core (r.idx + 1) →
    let c := s.ctx r.ctx
    (∀ (blk nb : BitVec 4),
      let h := c.tiles.share
      (h.accCnt < blk.toNat + nb.toNat + 1 →
        exec (.mclr blk nb) s = .next (s.setCore core { s.core core with run := some { r with stop := some (0x15, r.idx, 0, 0, 0, 0) } })) ∧
      (blk.toNat + nb.toNat + 1 ≤ h.accCnt → r.steps = [] → r.drains = [] →
        ∃ t, exec (.mclr blk nb) s = .next t ∧ (t.core core).run = some { r with idx := r.idx + 1 } ∧
          (∀ k, h.accFirst + blk.toNat ≤ k / 32768 → k / 32768 ≤ h.accFirst + blk.toNat + nb.toNat → fget 0 (t.core core).acc k = 0) ∧
          (∀ k, h.accFirst + blk.toNat ≤ k / 768 → k / 768 ≤ h.accFirst + blk.toNat + nb.toNat → fget 0 (t.core core).chk k = 0) ∧
          (∀ p, p ∈ (t.core core).acc ↔ p ∈ (s.core core).acc ∧
            ¬(h.accFirst + blk.toNat ≤ p.1 / 32768 ∧ p.1 / 32768 ≤ h.accFirst + blk.toNat + nb.toNat)) ∧
          t.mem = s.mem ∧ t.ctxs = s.ctxs)) ∧
    (∀ (src : BitVec 9) (n : BitVec 4) (d : TileDecl), src.getLsbD 8 = true → src.toNat / 8 % 32 = 0 →
      fget? c.tiles.share.rings (src.toNat % 8) = some d → n.toNat + 1 ≤ ringFilled c (src.toNat % 8) → d.depth ≤ 64 → r.steps = [] →
      let m := src.toNat % 8
      let hd := fget 0 c.tiles.head m
      ((∀ i, i ≤ n.toNat → ringSt c.tiles m ((hd + i) % d.depth) ≠ .empty) →
        ∃ t, exec (.mpop src n) s = .next t ∧ (∃ r', (t.core core).run = some r' ∧ r'.idx = r.idx + 1 ∧ r'.loops = r.loops) ∧
          (∀ i, i ≤ n.toNat → ringSt (t.ctx r.ctx).tiles m ((hd + i) % d.depth) = .empty) ∧
          fget 0 (t.ctx r.ctx).tiles.head m = (hd + n.toNat + 1) % d.depth ∧ (t.ctx r.ctx).regs = c.regs ∧
          (∀ j, slotSt (t.ctx r.ctx).tiles j = slotSt c.tiles j) ∧ t.mem = s.mem) ∧
      ((∃ i, i ≤ n.toNat ∧ ringSt c.tiles m ((hd + i) % d.depth) = .empty) → exec (.mpop src n) s = .next s)) ∧
    (∀ (src : BitVec 9) (d : TileDecl), src.getLsbD 8 = false → fget? c.tiles.share.slots (src.toNat % 256) = some d → r.steps = [] →
      ∃ t, exec (.mpop src 0) s = .next t ∧ slotSt (t.ctx r.ctx).tiles (src.toNat % 256) = .empty ∧
        (∀ j, j ≠ src.toNat % 256 → slotSt (t.ctx r.ctx).tiles j = slotSt c.tiles j) ∧ (t.ctx r.ctx).regs = c.regs ∧ t.mem = s.mem)

/-! The memory events -/

/-- The entry that an access reserved has its state and data, ld has fallen when the access was counted, and the access is over; every
other queue, every register, level and chain, and the persist domain stand. -/
def Say.arrived (s t : State) (l : LoadRec) (st : QState) (data : Wide) (faddr : W64) : Prop :=
  fget [] (t.ctx l.ctx).q.lq l.q = (fget [] (s.ctx l.ctx).q.lq l.q).map (fun e =>
    if e.acc = l.id ∧ e.st = .reserved then { e with st := st, data := data, faddr := faddr } else e) ∧
  (∀ q, q ≠ l.q → fget [] (t.ctx l.ctx).q.lq q = fget [] (s.ctx l.ctx).q.lq q) ∧
  (t.ctx l.ctx).q.ld = (if l.counted then (s.ctx l.ctx).q.ld - 1 else (s.ctx l.ctx).q.ld) ∧
  (∀ x ∈ t.loads, x.id ≠ l.id) ∧ t.nv = s.nv ∧
  (∀ k, (t.ctx k).regs = (s.ctx k).regs ∧ (t.ctx k).sys = (s.ctx k).sys ∧ (t.ctx k).run = (s.ctx k).run ∧
    (t.ctx k).pend = (s.ctx k).pend ∧ (t.ctx k).flow.npc0 = (s.ctx k).flow.npc0)

/-- The byte a path reads (R264, R266, R267): what its agent sees now, or, where no order ties the read to the present, what it saw at
a place in time no earlier than its orders and its last read of the granule allow, for writes of this device and of others each (log entry
92). -/
def Say.ReadsStayWithinTheirOrders : Prop :=
  ∀ (s : State) (v : Viewer) (k p before unit key : Nat),
    readByte s v k p before unit false key = viewByte s v before key ∧
    (isCoreKey key = true → readByte s v k p before unit true key = viewByte s v before key) ∧
    (isCoreKey key = false → ∃ t ts, readByte s v k p before unit true key = viewAt s v before t ts key ∧
      (readFloor s k p key ≤ s.ticks → readFloor s k p key ≤ t ∧ t ≤ s.ticks) ∧
      (readFloor s k (p + 8) key ≤ s.ticks → readFloor s k (p + 8) key ≤ ts ∧ ts ≤ s.ticks))

/-- ACCESS.LOAD_QUEUE_ARRIVAL (R22, R26, R167, R176, R183, R350, R351): an access that may be performed (log entry 4) gives its entry the
bytes its agent reads, 0 where the unit has none, or faults it at the first byte whose error cannot be corrected, and at its address while
the link of a host-bias page is down; an atomic first sends the dirty lines it meets or releases out of the stashes, then leaves the new
value in place of the old, which its entry receives, or nothing where it writes nothing. -/
def Obligations.LoadsAndAtomicsArrive : Prop :=
  Say.ReadsStayWithinTheirOrders ∧
  ∀ (s : State) (l : LoadRec), s.loads.find? (fun x => decide (x.id = l.id)) = some l → mayRead s l = true →
    (l.host = true ∧ linkReady s = false → ∃ t, exec (.loadQueueArrival l.id) s = .next t ∧ Say.arrived s t l .faulted 0 l.va ∧
      errorRecord (dieOf l.core) 7 (loadKey l) l.va 0 l.core ∈ (t.die (dieOf l.core)).errlog) ∧
    ((l.host = true → linkReady s = true) →
      (∀ cells sext, l.kind = .read cells sext →
        ((∀ c ∈ cells, ∀ k a, c = some (k, a) → poisoned s k = false) →
          ∃ (t : State) (n : Nat), exec (.loadQueueArrival l.id) s = .next t ∧ t.mem = s.mem ∧ n < 256 ^ cells.length ∧
            (∀ (i : Nat) c, cells[i]? = some c →
              n / 256 ^ i % 256 = match c with
                | some (k, _) => (readByte s l.viewer l.ctx 0 l.id (if cells.length ≤ 8 then 0 else i / 4) (l.needs.isEmpty && !l.host) k).toNat
                | none => 0) ∧
            Say.arrived s t l .arrived
              (if sext = 0 then BitVec.ofNat 1024 n else ((BitVec.ofNat sext n).signExtend 64).setWidth 1024) 0) ∧
        (∀ (i k : Nat) a, cells[i]? = some (some (k, a)) → poisoned s k = true →
          (∀ (j : Nat) c, j < i → cells[j]? = some c → ∀ k a, c = some (k, a) → poisoned s k = false) →
          ∃ t, exec (.loadQueueArrival l.id) s = .next t ∧ t.mem = s.mem ∧ Say.arrived s t l .faulted 0 a)) ∧
      (∀ op leaf v e, l.kind = .atomic op none leaf v e →
        ∃ t, exec (.loadQueueArrival l.id) s = .next t ∧ t.mem = s.mem ∧ t.writes = s.writes ∧ Say.arrived s t l .arrived 0 0) ∧
      (∀ op key leaf v e, l.kind = .atomic op (some key) leaf v e → s.writes.any (atomicFlush l) = true →
        exec (.loadQueueArrival l.id) s = .next (settle (writeBack s (atomicFlush l)))) ∧
      (∀ op key leaf v e, l.kind = .atomic op (some key) leaf v e → s.writes.any (atomicFlush l) = false → mayAtomic s l key leaf = true →
        ((∃ i, i < 8 ∧ poisoned s (key + i) = true) →
          ∃ t, exec (.loadQueueArrival l.id) s = .next t ∧ t.mem = s.mem ∧ t.writes = s.writes ∧ Say.arrived s t l .faulted 0 l.va) ∧
        ((∀ i, i < 8 → poisoned s (key + i) = false) → isCoreKey key = true → canonicalMemory s →
          ∃ t o, exec (.loadQueueArrival l.id) s = .next t ∧ Say.arrived s t l .arrived ((o : W64).setWidth 1024) 0 ∧
            (∀ i, i < 8 → memGet s.mem (key + i) = (o >>> (8 * i)).setWidth 8) ∧
            (∀ i, i < 8 → memGet t.mem (key + i) = (((atomicNew op o v e).getD o) >>> (8 * i)).setWidth 8) ∧
            (∀ a, (∀ i, i < 8 → a ≠ key + i) → memGet t.mem a = memGet s.mem a)) ∧
        ((∀ i, i < 8 → poisoned s (key + i) = false) → isCoreKey key = false → l.host = false →
          (∀ w ∈ s.writes, w.id ≠ l.id) →
          ∃ t o, exec (.loadQueueArrival l.id) s = .next t ∧ Say.arrived s t l .arrived ((o : W64).setWidth 1024) 0 ∧
            (∀ i, i < 8 → cohByte s (key + i) = (o >>> (8 * i)).setWidth 8) ∧
            (∀ x, atomicNew op o v e = some x → (∀ i, i < 8 → isCoreKey (key + i) = false) →
              ∃ w ∈ t.writes, w.id = l.id ∧ w.stage = 3 ∧ w.stash = none ∧ w.coh.isSome = true ∧
                w.applied.getLsbD (pteHome leaf) = true ∧
                w.cells = (List.range 8).map (fun i => (key + i, (x >>> (8 * i)).setWidth 8))))) ∧
      (∀ v, l.kind = .answer v →
        ∃ t, exec (.loadQueueArrival l.id) s = .next t ∧ t.mem = s.mem ∧ Say.arrived s t l .arrived (v.setWidth 1024) 0) ∧
      (∀ off n sext, l.kind = .ctl off n sext →
        ∃ t, exec (.loadQueueArrival l.id) s = .next t ∧ t.mem = s.mem ∧
          Say.arrived s t l .arrived ((ctlValue s l.die off n sext).setWidth 1024) 0) ∧
      (∀ core bar scope, l.kind = .barTst core bar scope →
        ∃ t v, exec (.loadQueueArrival l.id) s = .next t ∧ t.mem = s.mem ∧ Say.arrived s t l .arrived ((v : W64).setWidth 1024) 0 ∧
          let b := fget {} (s.core core).bars bar
          v.toNat % 2 ^ 16 = b.phase % 2 ^ 16 ∧ v.toNat / 2 ^ 16 % 2 ^ 11 = b.count % 2 ^ 11 ∧ v.toNat / 2 ^ 27 % 2 ^ 11 = b.n % 2 ^ 11 ∧
          v.getLsbD 62 = b.init))

/-- No other write in flight has the name of `w`. -/
def Say.alone (s : State) (w : WriteRec) : Prop := w ∈ s.writes ∧ ∀ x ∈ s.writes, x.id = w.id → x = w

/-- No other write in flight stores to a byte of `w`, and `w` stores to each byte once. -/
def Say.apart (s : State) (w : WriteRec) : Prop :=
  (w.cells.map (·.1)).Nodup ∧ ∀ x ∈ s.writes, x.id ≠ w.id → ∀ c ∈ x.cells, ∀ d ∈ w.cells, c.1 ≠ d.1

/-- The write of the same name one stage on: visible at the next place in time, with its bytes and its writer. -/
def Say.passed (s t : State) (w : WriteRec) (stage : Nat) : Prop :=
  ∃ x ∈ t.writes, x.id = w.id ∧ x.stage = stage ∧ x.vis = s.ticks ∧ x.cells = w.cells ∧ x.ctx = w.ctx ∧ x.agent = w.agent

/-- A write that stays dirty in a stash at its die stage: one of the seat's access path, into a bound block, that no release at device
scope or wider has come after (R258, R259). -/
def Say.stashed (s : State) (w : WriteRec) (i : Nat) : Prop :=
  w.agent = agentOf w.ctx 0 ∧ w.noStash = false ∧ stashAt (s.ctx w.ctx) w.space w.va = some i

/-- MEMORY.WRITE_STAGE_PASS and MEMORY.CROSS_DIE_APPLY (R258, R259, R264 to R266, R270, R278, R351): a write that may pass goes on to its
core, then its quad; a core-store write then stands in memory; at die stage it enters its die's order, and the coherence order if that die
is its home, or stays dirty in the stash entry bound to its line. A write to a host-bias page counts as applied on every die there, and is
lost, with an error record, while the link is down. A die applies a write once everything before it is applied there, its home before any
other, which gives it its place; applied on every die, it stands in memory. -/
def Say.WritesPassTheirStages : Prop :=
  ∀ (s : State) (w : WriteRec), Say.alone s w →
    (mayPass s w = true →
      (w.stage < 2 → (∀ c ∈ w.cells, isCoreKey c.1 = false) →
        ∃ t, exec (.writeStagePass w.id) s = .next t ∧ Say.passed s t w (w.stage + 1) ∧ t.ctxs = s.ctxs ∧ t.loads = s.loads ∧ t.nv = s.nv) ∧
      (w.stage = 0 → w.cells ≠ [] → (∀ c ∈ w.cells, isCoreKey c.1 = true) → Say.apart s w → canonicalMemory s →
        ∃ t, exec (.writeStagePass w.id) s = .next t ∧ (∀ c ∈ w.cells, memGet t.mem c.1 = c.2) ∧ t.ctxs = s.ctxs ∧ t.nv = s.nv) ∧
      (w.stage = 2 → w.host = false → (∀ c ∈ w.cells, isCoreKey c.1 = false ∧ poisoned s c.1 = false) → (∀ x ∈ s.writes, x.stash = none) →
        (∀ i, Say.stashed s w i →
          ∃ t x, exec (.writeStagePass w.id) s = .next t ∧ x ∈ t.writes ∧ x.id = w.id ∧ x.stage = 3 ∧ x.stash = some (w.ctx, i) ∧
            x.cells = w.cells) ∧
        ((∀ i, ¬ Say.stashed s w i) →
          ∃ t x, exec (.writeStagePass w.id) s = .next t ∧ x ∈ t.writes ∧ x.id = w.id ∧ x.stage = 3 ∧ x.stash = none ∧
            x.coh = (if w.home = w.die then some s.ticks else none) ∧ x.cells = w.cells ∧ x.applied = BitVec.ofNat 32 (2 ^ w.die) ∧
            fget 0 (t.die w.die).clock w.die = fget 0 (s.die w.die).clock w.die + 1)) ∧
      (w.stage = 2 → w.host = true → (linkReady s = true ∨ w.bad.isSome = true) → (∀ i, ¬ Say.stashed s w i) → (∀ x ∈ s.writes, x.stash = none) →
        ∃ t, exec (.writeStagePass w.id) s = .next t ∧
          ∀ d, d < 32 → fget 0 (s.die w.die).clock w.die + 1 ≤ fget 0 (t.die d).clock w.die) ∧
      (w.stage = 2 → w.host = true → linkReady s = false → w.bad = none → w.id < s.nextId →
        ∃ t, exec (.writeStagePass w.id) s = .next t ∧ (∀ x ∈ t.writes, x.id = w.id → x.cells = [] ∧ x.bad = some w.va) ∧
          errorRecord (dieOf w.core) 7 (w.keys.headD 0) w.va w.seq w.core ∈ (t.die (dieOf w.core)).errlog)) ∧
    (∀ d, mayApply s w d = true → (∀ c ∈ w.cells, isCoreKey c.1 = false) →
      let app := w.applied ||| BitVec.ofNat 32 (2 ^ d)
      (app ≠ BitVec.allOnes 32 →
        ∃ t x, exec (.crossDieApply w.id d) s = .next t ∧ x ∈ t.writes ∧ x.id = w.id ∧ x.stage = 3 ∧ x.applied = app ∧ x.cells = w.cells ∧
          x.coh = (if w.coh = none ∧ d = w.home then some s.ticks else w.coh) ∧
          fget 0 w.clock w.die ≤ fget 0 (t.die d).clock w.die ∧ t.ctxs = s.ctxs ∧ t.nv = s.nv) ∧
      (app = BitVec.allOnes 32 → w.store = false → w.durable = false → (∀ i ∈ w.preds, ∀ x ∈ s.writes, x.id ≠ i) → Say.apart s w → canonicalMemory s →
        ∃ t, exec (.crossDieApply w.id d) s = .next t ∧ (∀ c ∈ w.cells, memGet t.mem c.1 = c.2) ∧ (∀ x ∈ t.writes, x.id ≠ w.id) ∧
          t.ctxs = s.ctxs ∧ t.nv = s.nv))

/-- Every context has its registers, system registers, chain, queues, walker and pending writes as before. -/
def Say.standing (s t : State) : Prop :=
  ∀ j, (t.ctx j).regs = (s.ctx j).regs ∧ (t.ctx j).sys = (s.ctx j).sys ∧ (t.ctx j).flow = (s.ctx j).flow ∧ (t.ctx j).q = (s.ctx j).q ∧
    (t.ctx j).run = (s.ctx j).run ∧ (t.ctx j).pend = (s.ctx j).pend

/-- So has every context but one. -/
def Say.standingBut (s t : State) (k : Nat) : Prop :=
  ∀ j, j ≠ k → (t.ctx j).regs = (s.ctx j).regs ∧ (t.ctx j).sys = (s.ctx j).sys ∧ (t.ctx j).flow = (s.ctx j).flow ∧ (t.ctx j).q = (s.ctx j).q ∧
    (t.ctx j).run = (s.ctx j).run ∧ (t.ctx j).pend = (s.ctx j).pend

/-- ACCESS.STORE_COMPLETION, PERSIST.PERSIST_ARRIVAL and STASH.STASH_WRITEBACK (R28, R174, R179, R259, R260, R279, R280): a store whose
every write is performed at its home, in place there or dirty in the stash of that die (log entries 24 and 90), lowers st by one and, when
it met an uncorrectable error, gives one report; a durable write that may persist puts its bytes into the persist domain and no other; the
dirty lines of a stash entry leave it for the coherence order. -/
def Say.WritesCompleteAndPersist : Prop :=
  ∀ (s : State) (w : WriteRec), s.writes.find? (fun x => decide (x.id = w.id)) = some w →
    (w.store = true → (∀ x ∈ s.writes, x.store = true → x.ctx = w.ctx → x.seq = w.seq →
        4 ≤ x.stage ∨ x.stage = 3 ∧ (if x.stash.isSome then x.home = x.die else x.applied.toNat.testBit x.home = true)) →
      ∃ t, exec (.storeCompletion w.id) s = .next t ∧ (t.ctx w.ctx).q.st = (s.ctx w.ctx).q.st - 1 ∧
        (∀ x ∈ t.writes, x.ctx = w.ctx → x.seq = w.seq → x.store = false) ∧
        (∀ k, (t.ctx k).regs = (s.ctx k).regs ∧ (t.ctx k).sys = (s.ctx k).sys ∧ (t.ctx k).flow.npc0 = (s.ctx k).flow.npc0) ∧
        (∀ k, k ≠ w.ctx → t.ctx k = s.ctx k) ∧ t.nv = s.nv ∧
        ((∀ x ∈ s.writes, x.bad = none) → (t.ctx w.ctx).reports = (s.ctx w.ctx).reports) ∧
        (∀ a, (s.ctx w.ctx).run.halted = false → (∀ x ∈ s.writes, x.bad = some a) →
          (t.ctx w.ctx).reports = (s.ctx w.ctx).reports ++
            [{ cause := 0x17, status := 2, kind := 7, lvl := w.lvl, seq := w.seq, pc := w.pc, detail := a, bytes := 0 }])) ∧
    (mayPersist s w = true → (w.cells.map (·.1)).Nodup → canonicalMemory s →
      ∃ t, exec (.persistArrival w.id) s = .next t ∧ (∀ c ∈ w.cells, memGet t.nv c.1 = c.2) ∧
        (∀ a, (∀ c ∈ w.cells, c.1 ≠ a) → memGet t.nv a = memGet s.nv a) ∧ t.ctxs = s.ctxs ∧
        (∀ x ∈ t.writes, x.id = w.id → x.persisted = true)) ∧
    (∀ k i, ∃ t, exec (.stashWriteback k i) s = .next t ∧ (∀ x ∈ t.writes, x.stash ≠ some (k, i)) ∧ t.nv = s.nv ∧ Say.standing s t ∧
      (w.stash = some (k, i) → w.host = false → Say.alone s w → (∀ c ∈ w.cells, isCoreKey c.1 = false ∧ poisoned s c.1 = false) →
        ∃ x ∈ t.writes, x.id = w.id ∧ x.stage = 3 ∧ x.stash = none ∧ (w.home = w.die → x.coh.isSome = true) ∧ x.cells = w.cells))

/-- Where the lines a step dirtied go (R260, R318): the consumer of index i of a launch is index i of a launch that names it in AFTER0 or
AFTER1 and has its N, on the die where the first range with that index was placed; once that is known and the step has exited, its dirty
lines are written back, to this die's die store if the consumer runs here and to the home die otherwise; until then they stay. -/
def Say.ConsumersGetTheLines : Prop :=
  ∀ (s : State),
    let named := fun (l i : Nat) (e : Nat × Nat × Nat × Nat) => ∃ p ∈ s.dev.launches, (p.2.rec_.after0 = l ∨ p.2.rec_.after1 = l) ∧
      p.2.rec_.n = (s.launch l).rec_.n ∧ e ∈ p.2.placed ∧ e.2.1 ≤ i ∧ i < e.2.2.1
    (∀ l i, (consumerDie s l i = none ↔ ∀ e, ¬ named l i e) ∧
      (∀ d, consumerDie s l i = some d → ∃ e, named l i e ∧ e.2.2.2 = d ∧ ∀ e', named l i e' → e.1 ≤ e'.1)) ∧
    (∀ (w : WriteRec) (st : Nat), Say.alone s w → w.stash.isSome = true → w.stage = 3 → w.host = false →
      (∀ c ∈ w.cells, isCoreKey c.1 = false ∧ poisoned s c.1 = false) → w.step = some st →
      (consumerDie s w.launch st = none → ∃ x ∈ (placeSteps s).writes, x = w) ∧
      (∀ d, consumerDie s w.launch st = some d → w.stepOver s = true →
        ∃ x ∈ (placeSteps s).writes, x.id = w.id ∧ x.stash = none ∧ x.cells = w.cells ∧ x.sits = (if d = w.die then w.die else w.home))) ∧
    (∀ l lo hi die, ((notePlaced s l lo hi die).launch l).placed = (s.launch l).placed ++ [(s.nextId, lo, hi, die)] ∧
      s.nextId < (notePlaced s l lo hi die).nextId)

/-! The events of a matrix call -/

/-- What an event of a call leaves alone: the persist domain, writes and loads in flight, levels and chains, and all but its context. -/
def Say.callOnly (s t : State) (k : Nat) : Prop :=
  t.nv = s.nv ∧ t.writes = s.writes ∧ t.loads = s.loads ∧
  (∀ j, (t.ctx j).sys = (s.ctx j).sys ∧ (t.ctx j).flow.npc0 = (s.ctx j).flow.npc0 ∧ (t.ctx j).pend = (s.ctx j).pend ∧
    (t.ctx j).regs.s = (s.ctx j).regs.s) ∧
  (∀ j, j ≠ k → t.ctx j = s.ctx j)

/-- CALL_START, PLANE_LOAD_COMPLETE and CALL_END (R214, R217 to R220, R226, R227, R231, R240, R242): a free array starts the queued call
whose turn it is, a determinism-flagged seat's first and then the earlier-issued, which takes its captured parameters and enters at the
index of its routine, or stops with reason 0x11 at an invalid one; one that goes on after an exchange reloads its planes first; none
starts while the map changes. A plane load ends; a call that has returned leaves the array and tl with no report, and one that has stopped gives one. -/
def Say.CallsStartAndEnd : Prop :=
  ∀ (s : State) (core : Nat),
    let first := fun (k : Nat) => (s.core core).run = none ∧ k ∈ (s.core core).calls ∧ ∀ j ∈ (s.core core).calls, j ≠ k →
      (s.ctx j).run.det = false ∧ ((s.ctx k).run.det = true ∨ callOrd (s.ctx k) < callOrd (s.ctx j))
    (∀ k, first k → (s.ctx k).savedCall.isSome = true ∨ (s.ctx k).call.isSome = true → (s.core core).busyMap ≠ 0 →
      exec (.callStart core) s = .next s) ∧
    (∀ k r, first k → (s.ctx k).savedCall = some r → (s.core core).busyMap = 0 →
      ∃ t, exec (.callStart core) s = .next t ∧ t.mem = s.mem ∧ Say.callOnly s t k ∧ (t.core core).calls = (s.core core).calls.erase k ∧
        (t.ctx k).savedCall = none ∧ (t.core core).run = some { r with reload := true, park := false }) ∧
    (∀ k a, first k → (s.ctx k).savedCall = none → (s.ctx k).call = some a → needsMet s k 2 a.needs = true → (s.core core).busyMap = 0 →
      let e := routineAt (s.core core) a.routine
      let r : ArrayRun := { ctx := k, call := a, idx := e.toNat % 2 ^ 14, start := a.start, ceil := a.ceil, e5 := a.e5, limc := a.limc,
                            corr := !a.nocorr && !(s.ctx k).run.det }
      ∃ t, exec (.callStart core) s = .next t ∧ t.mem = s.mem ∧ Say.callOnly s t k ∧ (t.core core).calls = (s.core core).calls.erase k ∧ (t.ctx k).call = none ∧
        (t.ctx k).regs.p = a.p ∧ (t.core core).acc = (s.core core).acc ∧
        (e.getLsbD 31 = true → Say.legalAt s core (e.toNat % 2 ^ 14) → (t.core core).run = some r) ∧
        (e.getLsbD 31 = false → (t.core core).run = some { r with idx := 0, stop := some (0x11, 0, 0, 0, 0, 0) })) ∧
    (∀ r, (s.core core).run = some r →
      exec (.planeLoadComplete core) s = .next (s.setCore core { s.core core with run := some { r with loading := false } })) ∧
    (∀ r x, (s.core core).run = some r → r.drains = [] → (s.ctx r.ctx).cmds = [x] → x.seq = r.call.seq → x.path = 2 → x.status = 0 →
      x.counted = 0 →
      (r.stop = none → r.returned = true →
        ∃ t, exec (.callEnd core) s = .next t ∧ t.mem = s.mem ∧ (t.core core).run = none ∧ (t.ctx r.ctx).cmds = [] ∧
          (t.ctx r.ctx).q.tl = (s.ctx r.ctx).q.tl - 1 ∧ (t.ctx r.ctx).reports = (s.ctx r.ctx).reports ∧ Say.callOnly s t r.ctx) ∧
      (∀ reason idx rung row col status, r.stop = some (reason, idx, rung, row, col, status) → (s.ctx r.ctx).run.halted = false →
        idx < 2 ^ 14 → row < 2 ^ 11 → col < 2 ^ 7 → rung < 4 → reason < 2 ^ 8 →
        ∃ t, exec (.callEnd core) s = .next t ∧ t.mem = s.mem ∧ (t.core core).run = none ∧ (t.ctx r.ctx).cmds = [] ∧
          (t.ctx r.ctx).q.tl = (s.ctx r.ctx).q.tl - 1 ∧ Say.callOnly s t r.ctx ∧
          (t.ctx r.ctx).reports = (s.ctx r.ctx).reports ++
            [{ cause := if reason ≤ 2 then 0x11 else if reason = 3 then 0x12 else 0x17, status := status, kind := 3, lvl := r.call.lvl,
               seq := r.call.seq, pc := r.call.pc, bytes := 0,
               detail := BitVec.ofNat 64 (reason + 2 ^ 8 * idx + 2 ^ 22 * row + 2 ^ 33 * col + 2 ^ 40 * rung) }]))

/-- STREAM_STEP_DECISION and DRAIN_COMPLETE (R91, R96 to R98, R228, R230, R232 to R234): a dense step within its budgets whose check lines
agree adds its sums to the accumulator and leaves; over a budget, with no rung to climb and LIMC clear, it stops the call with reason 3.
A drain whose lines agree writes its tile, which is then ready, clears its block when asked, and leaves. -/
def Say.StepsCommitAndDrainsWrite : Prop :=
  ∀ (s : State) (core : Nat) (r : ArrayRun), (s.core core).run = some r → r.stop = none →
    let c := s.ctx r.ctx
    let prof := r.call.prof
    let first := c.tiles.share.accFirst
    (∀ st rest p, r.steps = st :: rest → st.mmv = none → st.pop = false → r.active = some p → p.climbs = false → p.sp = false →
      (s.core core).ckinj.getLsbD 63 = false → (∀ t ∈ st.srcs, tfWide (refDecl c t).fmt = false) →
      let os := st.srcs.map (fun t => rowsOf (refDecl c t) (refBytes s r.ctx t) 128)
      let x := streamStep prof (st.bud.getD 3 63) (aRows false os) p.cols 128 (tops os) (tops [p.op]) (128 * st.blk)
        ((os.map (·.sat)).sum + p.sat)
      let beyond := st.bud.getD 0 65535 < x.sat ∨ st.bud.getD 1 65535 < x.und ∨ st.bud.getD 2 65535 < x.can
      (¬ beyond → stepRows prof (decide (p.fmt = 0x14)) x = [] → stepCols prof (decide (p.fmt = 0x14)) x = [] →
        ∃ t r', exec (.streamStepDecision core) s = .next t ∧ (t.core core).run = some r' ∧ r'.steps = rest ∧ r'.stop = none ∧
          r'.idx = r.idx ∧ (t.core core).acc = commitRows prof (s.core core).acc (128 * first + 128 * st.blk) x ∧ t.mem = s.mem ∧
          Say.callOnly s t r.ctx) ∧
      (beyond → st.limc = false →
        ∃ t r', exec (.streamStepDecision core) s = .next t ∧ (t.core core).run = some r' ∧
          r'.stop = some (3, st.index, st.rung.getD st.start, 0, 0, 0) ∧ (t.core core).acc = (s.core core).acc ∧
          Say.standing s t)) ∧
    (∀ d rest, r.drains = d :: rest → c.img = none →
      let b := first + d.blk
      let ps := pairsOf (dense 0 (s.core core).acc (32768 * b) 32768)
      let v := judgeDrain prof (s.core core) b ps
      let decl := refDecl c d.dst
      let o := drainOut prof decl.fmt d.rnd (r.call.sr + BitVec.ofNat 64 d.draw) ps
      let bytes := footOf decl r.call.seq (packElems decl.fmt o.1) (o.2.map (BitVec.ofNat 8))
      v.rows = [] → v.cols = [] → canonicalMemory s →
        ∃ t r', exec (.drainComplete core) s = .next t ∧ (t.core core).run = some r' ∧ r'.drains = rest ∧ r'.stop = none ∧
          refSt (t.ctx r.ctx) d.dst = .ready ∧ Say.callOnly s t r.ctx ∧
          (∀ i, (hi : i < bytes.length) → memGet t.mem (keyCore c.run.lcore (decl.entry d.dst.ent) + i) = bytes[i]) ∧
          (∀ a, (∀ i, i < bytes.length → a ≠ keyCore c.run.lcore (decl.entry d.dst.ent) + i) → memGet t.mem a = memGet s.mem a) ∧
          (d.clr = false → (t.core core).acc = (s.core core).acc) ∧
          (d.clr = true → (∀ p, p ∈ (t.core core).acc ↔ p ∈ (s.core core).acc ∧ p.1 / 32768 ≠ b)))

/-- RETIRE_WRITE, RETIRE_MAP_CHANGE and MICROPROGRAM_IMAGE_LOAD (R214, R222, R300, R375, R376): RETIRE takes a value whose valid fields
name neither a spare nor a line twice, and ignores any other; at an idle point a map that differs from the one in effect takes effect,
the array busy for 64 cycles; a running launch's image, as it stood when the launch was accepted (log entry 97), is written into the store and
table of a core that may take it (log entry 43). -/
def Say.RetirementAndImagesTakeEffectAtIdlePoints : Prop :=
  (∀ (s : State) (die pcore : Nat) (v : W64),
    let field := fun (i : Nat) => v.toNat / 2 ^ (9 * i) % 2 ^ 8
    let on := fun (i : Nat) => v.getLsbD (9 * i + 8)
    let good := (∀ i, i < 4 → on i = true → field i < 130) ∧ ¬(on 0 = true ∧ on 1 = true ∧ field 0 = field 1) ∧
      ¬(on 2 = true ∧ on 3 = true ∧ field 2 = field 3)
    (good → ∃ t, exec (.retireWrite die pcore v) s = .next t ∧ (physAt t die pcore).retire = v &&& 0xFFFFFFFFF ∧
      (physAt t die pcore).mapped = (physAt s die pcore).mapped ∧ t.ctxs = s.ctxs ∧ t.cores = s.cores ∧ t.mem = s.mem) ∧
    (¬ good → exec (.retireWrite die pcore v) s = .next s)) ∧
  (∀ (s : State) (core : Nat), core < 2048 → (s.core core).run = none → (s.core core).calls = [] → (s.core core).busyMap = 0 →
    (∀ row, ∀ j ∈ markedLines (relOf s core) row, 130 ≤ j) → (relOf s core).retire ≠ (relOf s core).mapped →
    ∃ t, exec (.retireMapChange core) s = .next t ∧ (relOf t core).mapped = (relOf s core).retire ∧ (t.core core).busyMap = 64 ∧
      (t.core core).ustore = (s.core core).ustore ∧ t.ctxs = s.ctxs ∧ t.mem = s.mem) ∧
  (∀ (s : State) (core launch : Nat) (m : MicroImage), mayLoad s core launch = true → (s.launch launch).image = some m →
    ∃ t, exec (.microprogramImageLoad core launch) s = .next t ∧ (t.core core).image = some m ∧
      (∀ i, (h : i < m.words.length) → storeAt (t.core core) (m.first + i) = m.words[i]) ∧
      (∀ i, (∀ j, j < m.words.length → i ≠ m.first + j) →
        storeAt (t.core core) i = if i < 20 then vendorWords.getD i 0 else storeAt (s.core core) i) ∧ t.mem = s.mem ∧ t.nv = s.nv ∧
      (t.core core).acc = (s.core core).acc)

/-! The engine events -/

/-- Registers, levels, chains, queues but for their counters, and every context but `k` stand. -/
def Say.engineOnly (s t : State) (k : Nat) : Prop :=
  (t.ctx k).regs = (s.ctx k).regs ∧ (t.ctx k).sys = (s.ctx k).sys ∧ (t.ctx k).flow.npc0 = (s.ctx k).flow.npc0 ∧
  (t.ctx k).pend = (s.ctx k).pend ∧ (t.ctx k).q.lq = (s.ctx k).q.lq ∧ (t.ctx k).q.sq = (s.ctx k).q.sq ∧
  (∀ j, j ≠ k → t.ctx j = s.ctx j) ∧ t.loads = s.loads ∧ t.nv = s.nv

/-- The command has ended: it is gone, its counter one lower, and a failure has left one report (R174). -/
def Say.ended (s t : State) (k : Nat) (x : Cmd) (status : Nat) (detail : W64) (bytes : Nat) : Prop :=
  (∀ y ∈ (t.ctx k).cmds, y.seq ≠ x.seq) ∧
  (t.ctx k).q.tl = (s.ctx k).q.tl - (if x.counted = 0 then 1 else 0) ∧ (t.ctx k).q.cp = (s.ctx k).q.cp - (if x.counted = 0 then 0 else 1) ∧
  ((s.ctx k).run.halted = false → (t.ctx k).reports = (s.ctx k).reports ++ (if status = 0 then [] else
    [{ cause := if status = 3 then 0x14 else 0x17, status := status, lvl := x.lvl, seq := x.seq, pc := x.pc, detail := detail,
       kind := if x.path = 1 then x.slot + 1 else if x.path = 2 then 3 else if x.path = 3 then 4 else if x.path = 4 then 5 else 6,
       bytes := bytes }]))

/-- The chunks of a run of bytes (R175): each lies in one page of 4 KiB and reaches to the end of its page, but for the last. -/
def Say.ChunksAreWholePages : Prop :=
  ∀ (va : W64) (n off : Nat), 0 < n →
    let ps := runPieces va n off
    (ps.map (·.len)).sum = n ∧
    (∀ (i : Nat) p, ps[i]? = some p → 0 < p.len ∧ p.va.toNat % 4096 + p.len ≤ 4096 ∧ p.more = [] ∧
      p.off = off + ((ps.take i).map (·.len)).sum ∧ p.va = va + BitVec.ofNat 64 (p.off - off) ∧
      (i + 1 < ps.length → p.va.toNat % 4096 + p.len = 4096))

/-- What an engine reads (R174, R266, R344, R350): the bytes that its agent reads at the translated place; status 5 for PERMISSION, 2 for
an error that cannot be corrected, at its first byte, and 4 for any other failure of the translation. -/
def Say.EnginesReadWhatTheirAgentSees : Prop :=
  ∀ (s : State) (k path core lvl n : Nat) (free : Bool) (va : W64),
    let v : Viewer := { agent := 8 * k + path + 1, core := core, die := dieOf core }
    (∀ e, xlate s core (s.ctx k).run.space va { r := true, lvl := lvl } = .error e →
      readChunk s k path core lvl free va n = .error (if e = .code 0x08 then 5 else if e = .code 0x13 then 2 else 4, va)) ∧
    (∀ x, xlate s core (s.ctx k).run.space va { r := true, lvl := lvl } = .ok x →
      ((∀ i, i < n → poisoned s (x.key + i) = false) → readChunk s k path core lvl free va n =
        .ok ((List.range n).map (fun i => readByte s v k path s.nextId ((x.key + i) / 64) free (x.key + i)))) ∧
      (∀ i, i < n → poisoned s (x.key + i) = true → (∀ j, j < i → poisoned s (x.key + j) = false) →
        readChunk s k path core lvl free va n = .error (2, va + BitVec.ofNat 64 i)))

/-- TILE.CHUNK_TRANSFER, TILE_COMMAND_COMPLETION and SWB_COMPLETION (R174, R175, R190, R191, R193, R196, R205): the next chunk of a `tload`
goes from memory into its tile, or its fault ends the command; a glove that does not verify is read once more, then the command fails with
status 1; a tile command whose chunks have moved, glove verified and writes
performed completes and moves its tiles; a failed one leaves its destination empty; `swb` fails at a block its page does not let it write, and otherwise sends the dirty lines of its blocks home and
completes when they are performed at device scope. -/
def Say.TileCommandsMoveAndComplete : Prop :=
  ∀ (s : State) (k : Nat) (x : Cmd), cmdOf s k x.seq = some x →
    let c := s.ctx k
    (∀ va pitch ring n e p, x.op = .tload va pitch ring n e → cmdMoves s k x = true → c.img = none → (cmdPieces c x)[x.done]? = some p →
      (∀ rs, readPiece s k x p = .ok rs → canonicalMemory s →
        let key := keyCore c.run.lcore ((cmdDecl c ring n).entry e)
        ∃ t, exec (.chunkTransfer k x.seq) s = .next t ∧ Say.engineOnly s t k ∧
          cmdOf t k x.seq = some { x with buf := patchRuns x.buf rs, done := x.done + 1 } ∧
          ((∀ r ∈ rs, ∀ q ∈ rs, r ≠ q → r.1 + r.2.length ≤ q.1 ∨ q.1 + q.2.length ≤ r.1) →
            ∀ r ∈ rs, ∀ i, (h : i < r.2.length) → memGet t.mem (key + r.1 + i) = r.2[i]) ∧
          (∀ a, (∀ r ∈ rs, ∀ i, i < r.2.length → a ≠ key + r.1 + i) → memGet t.mem a = memGet s.mem a)) ∧
      (∀ st a, readPiece s k x p = .error (st, a) →
        ∃ t, exec (.chunkTransfer k x.seq) s = .next t ∧ Say.engineOnly s t k ∧ t.mem = s.mem ∧
          cmdOf t k x.seq = some { x with status := st, detail := a })) ∧
    (∀ p : Piece, p.more = [] → readPiece s k x p =
      (readChunk s k x.path (x.coreOf c) x.lvl x.needs.isEmpty p.va p.len).map (fun bs => [(p.off, bs)])) ∧
    (x.path = 1 → (∀ w ∈ cmdWrites s k x.seq.toNat, w.performedAt 3 = true) →
      (x.status = 0 → tileMoved c x = true → x.watch = 0 → loadVerifies c x = false →
        (x.tries = 0 → exec (.tileCommandCompletion k x.seq) s = .next (putCmd s k { x with tries := 1, done := 0, buf := [] })) ∧
        (x.tries ≠ 0 → ∀ va pitch n e, x.op = .tload va pitch false n e →
          ∃ t, exec (.tileCommandCompletion k x.seq) s = .next t ∧ Say.engineOnly s t k ∧ t.mem = s.mem ∧
            Say.ended s t k x 1 va x.prefixBytes ∧ slotSt (t.ctx k).tiles n = .empty)) ∧
      (x.status ≠ 0 →
        ∃ t, exec (.tileCommandCompletion k x.seq) s = .next t ∧ Say.engineOnly s t k ∧ t.mem = s.mem ∧
          Say.ended s t k x x.status x.detail x.prefixBytes ∧
          (∀ va pitch n e, x.op = .tload va pitch false n e → slotSt (t.ctx k).tiles n = .empty) ∧
          (∀ va pitch n dur, x.op = .tstore va pitch n dur → slotSt c.tiles n = .draining 1 → slotSt (t.ctx k).tiles n = .ready)) ∧
      (x.status = 0 → tileMoved c x = true → x.watch = 0 → loadVerifies c x = true → c.img = none → canonicalMemory s →
        ∃ t, exec (.tileCommandCompletion k x.seq) s = .next t ∧ Say.engineOnly s t k ∧ Say.ended s t k x 0 x.detail x.prefixBytes ∧
          (∀ va pitch n e, x.op = .tload va pitch false n e → slotSt (t.ctx k).tiles n = .ready) ∧
          (∀ va pitch n dur, x.op = .tstore va pitch n dur → t.mem = s.mem ∧
            (slotSt c.tiles n = .draining 1 → slotSt (t.ctx k).tiles n = .ready)) ∧
          (∀ n, x.op = .tzero n → (cmdDecl c false n).gloved = false → (cmdDecl c false n).fmt ≠ 0x14 →
            slotSt (t.ctx k).tiles n = .ready ∧
            (∀ i, i < tfData (cmdDecl c false n).fmt → memGet t.mem (keyCore c.run.lcore ((cmdDecl c false n).entry 0) + i) = 0)))) ∧
    (∀ va n, x.op = .swb va n →
      (∀ st a, x.done = 0 → needsMet s k 0 x.needs = true → swbFault s k x (stashHits c va n) = some (st, a) →
        ∃ t, exec (.swbCompletion k x.seq) s = .next t ∧ Say.engineOnly s t k ∧ t.mem = s.mem ∧ Say.ended s t k x st a x.prefixBytes) ∧
      (x.done = 0 → needsMet s k 0 x.needs = true →
        (∀ i ∈ stashHits c va n, ∀ e, fget? c.tiles.stash i = some e → ∃ xl, xlate s c.run.lcore c.run.space e.va { w := true, lvl := x.lvl } = .ok xl) →
        ∃ t y, exec (.swbCompletion k x.seq) s = .next t ∧ cmdOf t k x.seq = some y ∧ y.done = 1 ∧ t.nv = s.nv ∧
          (∀ w ∈ t.writes, ∀ i ∈ stashHits c va n, w.stash ≠ some (k, i)) ∧
          (∀ w ∈ s.writes, ∀ i ∈ stashHits c va n, w.stash = some (k, i) → w.id ∈ y.writes)) ∧
      (x.done ≠ 0 → (∀ i ∈ x.writes, ∀ w ∈ s.writes, w.id = i → w.performedAt 3 = true) →
        ∃ t, exec (.swbCompletion k x.seq) s = .next t ∧ Say.engineOnly s t k ∧ t.mem = s.mem ∧
          Say.ended s t k x x.status x.detail x.prefixBytes))

/-- The window command's events at the requester (R175, R200, R201, R354, R357, R359): its next chunk leaves by a working port as a
request frame; a reply settles the chunk it answers, and a refusal updates the import entry; a chunk without reply for LINKTMO cycles,
and no sooner, runs into its limit (log entry 107); with every chunk settled the command completes, its report naming the first chunk that failed, be it in its local write (R350). -/
def Say.WindowCommandsSendAndSettle : Prop :=
  ∀ (s : State) (k : Nat) (x : Cmd), cmdOf s k x.seq = some x →
    let c := s.ctx k
    (∀ va win len i p port, x.op = .wget va win len → cmdMoves s k x = true → localFailed x = false →
      firstChunk x (· == .unsent) = some i → (winPieces x)[i]? = some p → flipBlocks s c.run.space p.va = false →
      portFor s (impDev x.peer).toNat = some port →
      ∃ t f, exec (.chunkTransfer k x.seq) s = .next t ∧ Say.engineOnly s t k ∧ t.mem = s.mem ∧
        cmdOf t k x.seq = some { setChunk { x with total := (winPieces x).length } i .sent with sentAt := fset x.sentAt i (nowAt s x.core) } ∧ t.out = s.out ++ [.frameOut port f] ∧ f.data = [] ∧ frType f = 1 ∧
        frDst f = impDev x.peer ∧ frSrc f = Config.deviceNumber ∧ frOwner f = s.dev.owner % 2 ^ 16 ∧ frIndex f = impRidx x.peer ∧
        frGen f = win.toNat / 2 ^ 40 % 2 ^ 8 ∧ frOffset f = (win.toNat % 2 ^ 40 + p.off) % 2 ^ 40 ∧
        frSeq f = (fget 0 s.dev.sent (65536 * port + s.dev.owner % 2 ^ 16) + 1) % 2 ^ 64) ∧
    (∀ i, (∃ q, winOp x.op = some q) →
      (chunkSt x i = .sent → linkTmo s ≤ (nowAt s x.core - fget 0 x.sentAt i).toNat →
        exec (.chunkTimeLimit k x.seq i) s = .next (putCmd s k (setChunk x i .timeout))) ∧
      (chunkSt x i ≠ .sent ∨ (nowAt s x.core - fget 0 x.sentAt i).toNat < linkTmo s → exec (.chunkTimeLimit k x.seq i) s = .next s)) ∧
    (∀ va win len f i p, x.op = .wput va win len → f ∈ s.dev.inbox → taggedCmd s (frTag f) = some (k, x, i) →
      (winPieces x)[i]? = some p → chunkSt x i = .sent → (∀ j, j < i → chunkSt x j ≠ .sent) →
      (frType f = 9 →
        ∃ t, exec (.chunkReply f) s = .next t ∧ Say.engineOnly s t k ∧ t.mem = s.mem ∧ t.dev.inbox = s.dev.inbox.erase f ∧
          cmdOf t k x.seq = some (setChunk x i .done)) ∧
      (frType f = 0x0A →
        let e := fget 0 s.dev.imports (win.toNat / 2 ^ 48)
        let e' := fun (t : State) => fget 0 t.dev.imports (win.toNat / 2 ^ 48)
        ∃ t, exec (.chunkReply f) s = .next t ∧ Say.engineOnly s t k ∧ t.mem = s.mem ∧ t.dev.inbox = s.dev.inbox.erase f ∧
          cmdOf t k x.seq = some (setChunk x i (.refused (frStatus f) (frGen f))) ∧
          (impDev e = impDev x.peer → impRidx e = impRidx x.peer →
            (frStatus f = 1 → (e' t).extractLsb' 151 8 = BitVec.ofNat 8 (frGen f) ∧ (e' t).getLsbD 0 = e.getLsbD 0) ∧
            (frStatus f = 2 → (e' t).getLsbD 0 = false)) ∧
          (frStatus f ≠ 1 → frStatus f ≠ 2 → t.dev.imports = s.dev.imports))) ∧
    (∀ q i p, winOp x.op = some q → x.watch = 0 → x.status = 2 → (∀ j, j < (winPieces x).length → chunkSt x j ≠ .sent) →
      (winPieces x)[i]? = some p → p.va.toNat ≤ x.detail.toNat → x.detail.toNat < p.va.toNat + p.len →
      (∀ j y, j < i → (winPieces x)[j]? = some y → chunkSt x j = .done ∧ (x.detail.toNat < y.va.toNat ∨ y.va.toNat + y.len ≤ x.detail.toNat)) →
      (∀ w ∈ cmdWrites s k x.seq.toNat, w.performedAt 2 = true) →
      ∃ t, exec (.windowCommandCompletion k x.seq) s = .next t ∧ Say.engineOnly s t k ∧ t.mem = s.mem ∧
        Say.ended s t k x 2 x.detail (((winPieces x).take i).map (·.len)).sum) ∧
    (∀ q, winOp x.op = some q → x.watch = 0 → x.status = 0 → (∀ i, i < (winPieces x).length → chunkSt x i ≠ .sent) →
      (localFailed x = true ∨ ∀ i, i < (winPieces x).length → chunkSt x i ≠ .unsent) →
      (∀ w ∈ cmdWrites s k x.seq.toNat, w.performedAt 2 = true) →
      ∃ t, exec (.windowCommandCompletion k x.seq) s = .next t ∧ Say.engineOnly s t k ∧ t.mem = s.mem ∧
        ((∀ i, i < (winPieces x).length → chunkSt x i = .done) → Say.ended s t k x 0 0 0) ∧
        (∀ i, i < (winPieces x).length → (∀ j, j < i → chunkSt x j = .done) →
          let n := (((winPieces x).take i).map (·.len)).sum
          (∀ g, chunkSt x i = .refused 1 g ∨ chunkSt x i = .refused 2 g → Say.ended s t k x 3 (BitVec.ofNat 64 n) n) ∧
          (∀ st a, chunkSt x i = .localFault st a → Say.ended s t k x st a n) ∧
          (chunkSt x i = .timeout → Say.ended s t k x 9 (BitVec.ofNat 64 n) n)))

/-- WINDOW_CHUNK_REQUEST and the table events (R200, R201, R355, R357, R359, R360): the requests of one sender to an entry are judged in their
order; one that its export entry refuses is answered with the reason and the entry's generation and touches no memory, one that its table
does not let in, or that meets memory it cannot use, with reason 3 (log entry 44); a read is answered with the bytes at its home die; an accepted write is acknowledged once it is performed;
an answer whose LIFE has run out is not sent (log entry 45); table entries are written as given, their reserved bits dropped; a revoke raises the
generation or invalidates the entry at once, a second one again, and completes when no accepted chunk is outstanding, with the last
acknowledgement if that is later. -/
def Say.ExportEntriesJudgeRequests : Prop :=
  (∀ (s : State) (f : Frame) (port : Nat), f ∈ s.dev.inbox → (∀ p ∈ s.dev.served, p.1 ≠ f) → (frType f = 1 ∨ frType f = 2 ∨ frType f = 3 ∨ frType f = 4) →
    firstRequest s f = true → portFor s (frSrc f).toNat = some port →
    let e := fget 0 s.dev.exports (frIndex f)
    let len := if frType f = 1 then 256 * frBeats f else f.data.length
    let gen := (e.extractLsb' 128 8).toNat
    let answers := fun (type why : Nat) (bs : List Byte) => ∃ t, exec (.windowChunkRequest f) s = .next t ∧ t.mem = s.mem ∧ t.nv = s.nv ∧
      t.ctxs = s.ctxs ∧ t.writes = s.writes ∧ t.dev.inbox = s.dev.inbox.erase f ∧ (lifeLeft s f = 0 → t.out = s.out) ∧
      (lifeLeft s f ≠ 0 → ∃ g, t.out = s.out ++ [.frameOut port g] ∧ frType g = type ∧ frStatus g = why % 8 ∧ frGen g = gen ∧
        frTag g = frTag f ∧ frDst g = frSrc f ∧ g.data = bs ∧ frLife g = lifeLeft s f % 2 ^ 16)
    let refuses := fun (why : Nat) => answers 0x0A why []
    let lets := e.getLsbD 0 = true ∧ (e.extractLsb' 176 16).toNat = frOwner f ∧ gen = frGen f ∧
      frOffset f + len ≤ (e.extractLsb' 136 40).toNat ∧ (frType f = 1 ∨ e.getLsbD 1 = false)
    let va : W64 := (e.extractLsb' 64 57).setWidth 64 + BitVec.ofNat 64 (frOffset f)
    let xl := xlate s (2048 + frIndex f % 32) (e.extractLsb' 58 6).toNat va { r := frType f ≠ 2, w := frType f ≠ 1 }
    (∀ er, lets → xl = .error er → refuses 3) ∧
    (∀ x, lets → xl = .ok x → frType f = 1 → flipBlocks s (e.extractLsb' 58 6).toNat va = false → (∀ i, i < len → poisoned s (x.key + i) = false) →
      answers 8 0 (viewBytes s (dieViewer (pteHome x.leaf)) s.nextId x.key len)) ∧
    (∀ x, lets → xl = .ok x → frType f ≠ 2 ∨ isDead x.key = true → flipBlocks s (e.extractLsb' 58 6).toNat va = false →
      (∃ i, i < len ∧ poisoned s (x.key + i) = true) → refuses 3) ∧
    (∀ x, lets → xl = .ok x → frType f = 2 → flipBlocks s (e.extractLsb' 58 6).toNat va = false → isDead x.key = false →
      ∃ t ids, exec (.windowChunkRequest f) s = .next t ∧ t.dev.served = s.dev.served ++ [(f, ids)] ∧ t.dev.inbox = s.dev.inbox.erase f ∧
        t.out = s.out) ∧
    (e.getLsbD 0 = false → refuses 2) ∧
    (e.getLsbD 0 = true → (e.extractLsb' 176 16).toNat ≠ frOwner f → refuses 3) ∧
    (e.getLsbD 0 = true → (e.extractLsb' 176 16).toNat = frOwner f → gen ≠ frGen f → refuses 1) ∧
    (e.getLsbD 0 = true → (e.extractLsb' 176 16).toNat = frOwner f → gen = frGen f →
      (e.extractLsb' 136 40).toNat < frOffset f + len ∨ (frType f ≠ 1 ∧ e.getLsbD 1 = true) → refuses 3)) ∧
  (∀ (s : State) (f : Frame) (ids : List Nat) (port : Nat), s.dev.served.find? (fun p => p.1 == f) = some (f, ids) →
    ((∃ w ∈ s.writes, w.id ∈ ids ∧ (w.stage < 4 ∨ w.durable = true ∧ w.persisted = false)) → exec (.windowChunkRequest f) s = .next s) ∧
    ((∀ w ∈ s.writes, w.id ∈ ids → 4 ≤ w.stage ∧ (w.durable = true → w.persisted = true)) → portFor s (frSrc f).toNat = some port →
      lifeLeft s f ≠ 0 → ∃ t g, exec (.windowChunkRequest f) s = .next t ∧ frType g = 9 ∧
        frTag g = frTag f ∧ (∀ p ∈ t.dev.served, p.1 ≠ f) ∧ t.mem = s.mem ∧ t.writes = s.writes ∧
        (fget? s.dev.revokes (frIndex f) = none → t.out = s.out ++ [.frameOut port g]) ∧
        (∀ rs, fget? s.dev.revokes (frIndex f) = some rs → servedDone s rs = true →
          t.out = s.out ++ [.frameOut port g, .revoked (frIndex f)] ∧ fget? t.dev.revokes (frIndex f) = none))) ∧
  (∀ (s : State) (index : Nat) (v : BitVec 192), index < 65536 →
    (∃ t e, exec (.exportEntryWrite index v) s = .next t ∧ fget 0 t.dev.exports index = e ∧ t.dev.imports = s.dev.imports ∧
      t.ctxs = s.ctxs ∧ t.mem = s.mem ∧ e.getLsbD 0 = v.getLsbD 0 ∧ e.getLsbD 1 = v.getLsbD 1 ∧ e.extractLsb' 2 56 = 0 ∧
      e.extractLsb' 58 63 = v.extractLsb' 58 63 ∧ e.extractLsb' 121 7 = 0 ∧ e.extractLsb' 128 64 = v.extractLsb' 128 64) ∧
    (∃ t e, exec (.importEntryWrite index v) s = .next t ∧ fget 0 t.dev.imports index = e ∧ t.dev.exports = s.dev.exports ∧
      t.ctxs = s.ctxs ∧ t.mem = s.mem ∧ e.getLsbD 0 = v.getLsbD 0 ∧ e.getLsbD 1 = v.getLsbD 1 ∧ e.extractLsb' 2 109 = 0 ∧
      e.extractLsb' 111 81 = v.extractLsb' 111 81)) ∧
  (∀ (s : State) (index : Nat) (inv : Bool), index < 65536 →
    let e := fget 0 s.dev.exports index
    let gen := (e.extractLsb' 128 8).toNat
    ∃ t, exec (.revoke index inv) s = .next t ∧ t.mem = s.mem ∧ t.ctxs = s.ctxs ∧
      ((inv = true ∨ gen = 255) → (fget 0 t.dev.exports index).getLsbD 0 = false) ∧
      (inv = false → gen ≠ 255 → (fget 0 t.dev.exports index).getLsbD 0 = e.getLsbD 0 ∧
        ((fget 0 t.dev.exports index).extractLsb' 128 8).toNat = gen + 1) ∧
      ((∀ p ∈ s.dev.served, frIndex p.1 ≠ index) → t.out = s.out ++ [.revoked index]) ∧
      (∀ p w, p ∈ s.dev.served → frIndex p.1 = index → w ∈ s.writes → w.id ∈ p.2 → w.stage < 4 → t.out = s.out))

/-- COLLECTIVE_COMPLETION and a collective's first chunk (R175, R202, R203, R281, R316): a descriptor that breaks the table ends its command
with status 8; one for a group the driver has not named, with status 7; one of a member whose round has failed, with that failure (log entry
31). When the contributions of all of a group's members are there and agree, each member receives the result of all in rank order. A member
whose result is written and performed, and persisted in durable pages, completes, and a member that has failed gives its report. -/
def Say.CollectivesReadTheirDescriptorAndComplete : Prop :=
  ∀ (s : State) (k : Nat) (x : Cmd) (va : W64) (op : Nat), cmdOf s k x.seq = some x → x.op = .coll va op →
    (∀ bs, cmdMoves s k x = true → x.phase = 0 → flipBlocks s (s.ctx k).run.space va = false →
      readChunk s k x.path (x.coreOf (s.ctx k)) x.lvl x.needs.isEmpty va 64 = .ok bs →
      let w : BitVec 512 := BitVec.ofNat 512 (ofBytes bs)
      let read := noteRead s k x.path (x.coreOf (s.ctx k)) x.lvl x.seq.toNat x.needs.isEmpty va 64
      (descOk op w = false →
        exec (.chunkTransfer k x.seq) s = .next (putCmd read k { x with status := 8, detail := va })) ∧
      (descOk op w = true → fget? s.dev.groups (descOf w).group = none →
        exec (.chunkTransfer k x.seq) s = .next (putCmd read k { x with status := 7, detail := BitVec.ofNat 64 (descOf w).group })) ∧
      (∀ g st a, descOk op w = true → fget? s.dev.groups (descOf w).group = some g → fget? g.late (descOf w).rank = some (st, a) → st ≠ 0 →
        ∃ t, exec (.chunkTransfer k x.seq) s = .next t ∧ Say.engineOnly s t k ∧ t.mem = s.mem ∧
          cmdOf t k x.seq = some { x with status := st, detail := a }) ∧
      (∀ g, descOk op w = true → fget? s.dev.groups (descOf w).group = some g → fget? g.late (descOf w).rank = none →
        ∃ t, exec (.chunkTransfer k x.seq) s = .next t ∧ Say.engineOnly s t k ∧ t.mem = s.mem ∧
          cmdOf t k x.seq = some { x with phase := 1, done := 0, buf := bs, dur := destDurable s k x op g.size (descOf w),
                                          total := (collPieces op g.size (descOf w) [] false).length })) ∧
    (∀ w : BitVec 512, descOk op w = true →
      (w.extractLsb' 229 3 = 0 ∧ w.extractLsb' 248 264 = 0) ∧ 1 ≤ (w.extractLsb' 192 32).toNat ∧ (w.extractLsb' 192 32).toNat ≤ 2 ^ 28 ∧
      (op ≠ 3 → w.extractLsb' 232 16 = 0) ∧ (op ≤ 3 → 4 ≤ (w.extractLsb' 224 4).toNat ∧ (w.extractLsb' 224 4).toNat ≤ 8) ∧
      (w.extractLsb' 0 64).toNat < 2 ^ 57 ∧ (w.extractLsb' 64 64).toNat < 2 ^ 57) ∧
    (∀ gid g parts, fget? s.dev.groups gid = some g → g.devs = [] → mismatched g (waiting s gid) = false →
      groupParts g (waiting s gid) = some parts → (s.ctxs.map (·.1)).Nodup → (k, x) ∈ waiting s gid →
      ∃ y, cmdOf (combineGroup s gid) k x.seq = some y ∧ y.phase = 3 ∧ y.done = 0 ∧ y.status = x.status ∧
        y.buf = x.buf.take 64 ++
          collResult op (cmdDesc x) x.seq ((waiting s gid).all (fun m => (s.ctx m.1).run.det)) s.nextId parts) ∧
    (∀ gid, (∀ g, fget? s.dev.groups gid = some g → g.devs = []) →
      s.ctxs.flatMap (fun p => (p.2.cmds.filter (fun y => match y.op with | .coll _ _ => true | _ => false)).map (fun y => (p.1, y))) = [(k, x)] →
      (x.phase = 0 ∨ (cmdDesc x).group = gid) → (x.status ≠ 0 ∨ x.phase = 3 ∧ x.total ≤ x.done ∧ x.watch = 0) →
      (∀ w ∈ cmdWrites s k x.seq.toNat, w.performedAt 3 = true ∧ (w.durable = true → w.persisted = true)) →
      ∃ t, exec (.collectiveCompletion gid) s = .next t ∧ Say.engineOnly s t k ∧ t.mem = s.mem ∧
        Say.ended s t k x x.status x.detail x.prefixBytes)

/-! The messages of named barriers -/

/-- BARRIER.INIT_MESSAGE and ARRIVAL_MESSAGE (R164 to R166, R168): at the home an initialisation sets the count while nobody has arrived;
an arrival, once its writes are performed, is counted, and the last starts the next phase and tells every seat that arrived, with the
writes that the phase has ordered (R273); a fault goes back to the seat that sent the message. -/
def Say.BarrierHomesCountArrivals : Prop :=
  ∀ (s : State) (id home bar scope k : Nat),
    let b := fget {} (s.core home).bars bar
    let rest := s.bmsgs.filter (fun m => decide (m.id ≠ id))
    let ordered := fun (needs : List Need) => inFlight s (b.obs ++ needs.map (·.id)).eraseDups
    let faults := fun (i : Instr) (reason : Nat) => ∃ t, exec i s = .next t ∧ t.cores = s.cores ∧ t.ctxs = s.ctxs ∧ t.mem = s.mem ∧
      t.bmsgs = rest ++ [.reply s.nextId k home bar scope id
        (some (BitVec.ofNat 64 (bar % 2048 + scope % 8 * 2048 + reason * 65536))) 0 0 []]
    let sets := fun (t : State) (x : Barrier) => fget {} (t.core home).bars bar = x ∧
      (∀ i, i ≠ bar → fget {} (t.core home).bars i = fget {} (s.core home).bars i) ∧ (∀ j, j ≠ home → t.core j = s.core j) ∧ t.mem = s.mem
    (∀ n, barMsg s id = some (.init id home bar scope n k) → barFirst s (.init id home bar scope n k) = true →
      (n = 0 ∨ 2047 < n → faults (.barrierInitMessage id) 3) ∧
      (1 ≤ n → n ≤ 2047 → b.count ≠ 0 → faults (.barrierInitMessage id) 2) ∧
      (1 ≤ n → n ≤ 2047 → b.count = 0 →
        ∃ t, exec (.barrierInitMessage id) s = .next t ∧ sets t { init := true, n := n } ∧ t.ctxs = s.ctxs ∧ t.bmsgs = rest)) ∧
    (∀ needs, barMsg s id = some (.arrive id home bar scope k needs) → barFirst s (.arrive id home bar scope k needs) = true →
      needsMet s k 3 needs = true →
      (b.init = false → faults (.barrierArrivalMessage id) 1) ∧
      (b.init = true → b.count + 1 ≠ b.n →
        ∃ t, exec (.barrierArrivalMessage id) s = .next t ∧ t.ctxs = s.ctxs ∧
          sets t { b with count := b.count + 1, arrived := (b.arrived ++ [k]).eraseDups, obs := ordered needs } ∧
          t.bmsgs = rest ++ [.reply s.nextId k home bar scope id none b.phase b.phase []]) ∧
      (b.init = true → b.count + 1 = b.n →
        ∃ t done, exec (.barrierArrivalMessage id) s = .next t ∧
          sets t { b with count := 0, phase := (b.phase + 1) % 2 ^ 16, arrived := [], obs := [] } ∧
          t.bmsgs = rest ++ [.reply s.nextId k home bar scope id none b.phase ((b.phase + 1) % 2 ^ 16) (ordered needs)] ++ done ∧
          (∀ j ∈ b.arrived, j ≠ k → ∃ i, .complete i j home bar ((b.phase + 1) % 2 ^ 16) (ordered needs) ∈ done) ∧
          (∀ m ∈ done, ∃ i j, j ∈ b.arrived ∧ j ≠ k ∧ m = .complete i j home bar ((b.phase + 1) % 2 ^ 16) (ordered needs)) ∧
          (∀ j, (t.ctx j).regs = (s.ctx j).regs ∧ (t.ctx j).bar = (s.ctx j).bar))) ∧
    (∀ m, barMsg s id = some m → barFirst s m = false →
      (m.isInit = true → exec (.barrierInitMessage id) s = .next s))

/-- BARRIER.REPLY and COMPLETION_MESSAGE (R166 to R168): the answer to the arrival that a record waits for gives it its phase, the
phase the seat knows, and the writes that the phase has ordered (R273); a fault is stored for the seat's next barrier word, the first one only, and its record is cleared; a completion moves
the phase of a seat whose record names the barrier, and of no other. -/
def Say.BarrierAnswersReachTheSeat : Prop :=
  ∀ (s : State) (id home bar k : Nat),
    let c := s.ctx k
    let only := fun (t : State) => t.mem = s.mem ∧ t.cores = s.cores ∧ t.writes = s.writes ∧ (∀ j, j ≠ k → t.ctx j = s.ctx j) ∧
      (t.ctx k).regs = c.regs ∧ (t.ctx k).sys = c.sys ∧ (t.ctx k).q = c.q ∧ (t.ctx k).flow.npc0 = c.flow.npc0 ∧
      t.bmsgs = s.bmsgs.filter (fun m => decide (m.id ≠ id))
    (∀ scope arr p q obs r, barMsg s id = some (.reply id k home bar scope arr none p q obs) →
      barFirst s (.reply id k home bar scope arr none p q obs) = true → c.bar = some r → r.arr = arr → r.home = home → r.bar = bar →
      ∃ t, exec (.barrierReply id) s = .next t ∧ only t ∧
        (t.ctx k).bar = some { r with phase := p, pending := false, obs := (r.obs ++ obs).eraseDups } ∧
        (t.ctx k).barPhase = q ∧ (t.ctx k).barFault = c.barFault) ∧
    (∀ scope arr v p q obs r, barMsg s id = some (.reply id k home bar scope arr (some v) p q obs) →
      barFirst s (.reply id k home bar scope arr (some v) p q obs) = true → c.bar = some r →
      ∃ t, exec (.barrierReply id) s = .next t ∧ only t ∧ (t.ctx k).bar = (if r.arr = arr then none else some r) ∧
        (c.barFault = none → (t.ctx k).barFault = some v) ∧ (∀ u, c.barFault = some u → (t.ctx k).barFault = some u)) ∧
    (∀ phase obs r, barMsg s id = some (.complete id k home bar phase obs) → barFirst s (.complete id k home bar phase obs) = true →
      c.bar = some r →
      ∃ t, exec (.barrierCompletionMessage id) s = .next t ∧ only t ∧
        (t.ctx k).bar = some (if r.home = home ∧ r.bar = bar then { r with obs := (r.obs ++ obs).eraseDups } else r) ∧
        (t.ctx k).barPhase = if r.home = home ∧ r.bar = bar then phase else c.barPhase)

/-! Launches and walkers -/

/-- The record was accepted: a new launch stands at the end of its queue under the identifier that the answer names, its static ranges
placed (R207, R312, R318), its image as it stood then (log entry 97). -/
def Say.accepted (s t : State) (q : Nat) (r : LaunchRec) (ps : List Pool) (image : Option MicroImage) (answer : W64) : Prop :=
  ∃ i pl, i ≠ 0 ∧ answer = BitVec.ofNat 64 (i * 2 ^ 32) ∧ t.launch i = { rec_ := r, pools := ps, image := image, placed := pl } ∧
    pl.map (·.2) = (ps.flatMap (·.static)).map (fun e => (e.2.1, e.2.2, dieOf e.1)) ∧
    fget [] t.dev.queues q = fget [] s.dev.queues q ++ [i] ∧ (∀ j, j ≠ i → t.launch j = s.launch j) ∧ t.dev.nextLaunch = i + 1

/-- LAUNCH.DOORBELL and ACCEPT (R207, R298, R312, R352): LQST reads 1 in bit 31 until the dispatcher has answered the doorbell. A record
offered to a queue is answered in LQST, or in the entry of the `enq` that offered it: 1 when the queue is full, 2 when the record is
misaligned or refused, 3 when a place that it needs is not ready, else its identifier. -/
def Say.RecordsAreJudgedAndQueued : Prop :=
  (∀ (s : State) (q : Nat) (va : W64),
    (linkReady s = true → q < 64 → ∃ t, exec (.launchDoorbell q va) s = .next t ∧ fget 0 t.dev.lqst q = 0x80000000 ∧
      t.dev.bells = s.dev.bells ++ [(s.nextId, q, va)] ∧ t.dev.launches = s.dev.launches ∧ t.dev.queues = s.dev.queues ∧
      t.ctxs = s.ctxs ∧ t.mem = s.mem) ∧
    (linkReady s = false ∨ 64 ≤ q → exec (.launchDoorbell q va) s = .next s)) ∧
  (∀ (s : State) (id q : Nat) (va : W64), (∀ l ∈ s.loads, l.id ≠ id) → s.dev.bells.find? (fun b => decide (b.1 = id)) = some (id, q, va) →
    (∀ b ∈ s.dev.bells, b.2.1 = q → b.1 = id) → flipIn s (queueSpace s q) = false →
    let done := fun (t : State) (a : W64) => exec (.launchAccept id) s = .next t ∧ fget 0 t.dev.lqst q = a ∧ (∀ b ∈ t.dev.bells, b.1 ≠ id) ∧
      Say.standing s t
    (256 ≤ (fget [] s.dev.queues q).length → ∃ t, done t 1 ∧ t.dev.launches = s.dev.launches ∧ t.dev.queues = s.dev.queues) ∧
    ((fget [] s.dev.queues q).length < 256 →
      (va.toNat % 256 ≠ 0 → ∃ t, done t 2 ∧ t.dev.launches = s.dev.launches ∧ t.dev.queues = s.dev.queues) ∧
      (∀ bs, va.toNat % 256 = 0 → dispRead s 0 (queueSpace s q) va 256 { r := true, lvl := 2 } = some bs →
        (recordShape (ofBytes bs) = false → ∃ t, done t 2 ∧ t.dev.launches = s.dev.launches ∧ t.dev.queues = s.dev.queues) ∧
        (recordShape (ofBytes bs) = true →
          (ofBytes bs % 256 = 2 →
            ∃ t a, done t a ∧ Say.accepted s t q (recordBase (ofBytes bs) (queueSpace s q) q) [] none a) ∧
          (ofBytes bs % 256 ≠ 2 → judgeKernel s 0 (queueSpace s q) q (ofBytes bs) = none →
            ∃ t, done t 2 ∧ t.dev.launches = s.dev.launches ∧ t.dev.queues = s.dev.queues) ∧
          (∀ r ps im, ofBytes bs % 256 ≠ 2 → judgeKernel s 0 (queueSpace s q) q (ofBytes bs) = some (r, ps, im) →
            (placesReady s r.det ps = true → ∃ t a, done t a ∧ Say.accepted s t q r ps im a) ∧
            (placesReady s r.det ps = false → ∃ t, done t 3 ∧ t.dev.launches = s.dev.launches ∧ t.dev.queues = s.dev.queues)))))) ∧
  (∀ (s : State) (l : LoadRec) (lq : Nat) (va : W64), s.loads.find? (fun x => decide (x.id = l.id)) = some l → l.kind = .enq va lq →
    needsMet s l.ctx 3 l.needs = true → flipIn s l.space = false →
    (queueSpace s lq = l.space →
      ∃ t, exec (.launchAccept l.id) s = .next t ∧ t.dev = (offerRecord s (dieOf l.core) lq va).2.dev ∧ Say.standing s t ∧
        { l with kind := .answer (offerRecord s (dieOf l.core) lq va).1 } ∈ t.loads) ∧
    (queueSpace s lq ≠ l.space →
      ∃ t, exec (.launchAccept l.id) s = .next t ∧ t.dev = s.dev ∧ t.ctxs = s.ctxs ∧ t.mem = s.mem ∧ { l with kind := .answer 2 } ∈ t.loads))

/-- LAUNCH.START, HOST_CANCEL and QUEUE_RESET (R310 to R312, R339, R362): the queued launch whose turn it is runs and leaves its queue,
an event-only launch with its unit done; one whose predecessor failed is not run, its units counted failed; a cancel over a ready
link reaches every live launch it names; a reset queue is empty and its live launches are cancelled. -/
def Say.LaunchesStartAndAreCancelled : Prop :=
  ∀ (s : State),
    (∀ l, (s.launch l).st = .queued →
      let x := s.launch l
      let failedPred := predFailed s x.rec_.after0 = true ∨ predFailed s x.rec_.after1 = true
      (x.cancelled = false → failedPred →
        ∃ t, exec (.launchStart l) s = .next t ∧ (t.launch l).cancelled = true ∧ (t.launch l).failed = BitVec.ofNat 64 x.rec_.n ∧
          (t.launch l).st = .queued ∧ (t.launch l).pools = [] ∧ (∀ q, l ∉ fget [] t.dev.queues q) ∧ t.ctxs = s.ctxs ∧
          (∀ j, j ≠ l → t.launch j = s.launch j)) ∧
      (nextLaunchOf s = some l → ¬ failedPred →
        ∃ t, exec (.launchStart l) s = .next t ∧ (t.launch l).st = .running ∧ (t.launch l).rec_ = x.rec_ ∧ (t.launch l).pools = x.pools ∧
          (t.launch l).done = (if x.rec_.kind = 2 then 1 else 0) ∧ (∀ q, l ∉ fget [] t.dev.queues q) ∧ Say.standing s t ∧
          (∀ j, j ≠ l → t.launch j = s.launch j))) ∧
    (∀ level ident,
      (linkReady s = false → exec (.hostCancel level ident) s = .next s) ∧
      (linkReady s = true → ∃ t, exec (.hostCancel level ident) s = .next t ∧ (∀ l ∈ namedLaunches s level ident, (t.launch l).cancelled = true) ∧
        (∀ k, (t.ctx k).regs = (s.ctx k).regs) ∧ t.mem = s.mem)) ∧
    (∀ q, ∃ t, exec (.queueReset q) s = .next t ∧ fget [] t.dev.queues q = [] ∧
      (∀ l x, fget? s.dev.launches l = some x → (∀ f, x.st ≠ .ended f) → x.rec_.queue = q → (t.launch l).cancelled = true) ∧
      (∀ k, (t.ctx k).regs = (s.ctx k).regs ∧ (t.ctx k).sys = (s.ctx k).sys))

/-- CLAIM and TILE_STEP_ENTRY (R302 to R306, R318): a seat that may claim takes the offered range from the pool, a resting walker's or a new
context's at level 0 in the launch's space, and the range is placed on its die unless it was when the launch was accepted; a walker enters a step with its coordinates in s40 to s45, its index in s46, ARGS in s47, its
own random stream, FRAME 0, and fetch at the entry point. -/
def Say.WalkersClaimAndEnterSteps : Prop :=
  (∀ (s : State) (core seat l entry a b : Nat) (p : Pool), mayClaim s core seat l entry = some (a, b) → (s.launch l).pools[entry]? = some p →
    let k := s.bankOf core seat
    let r := (s.launch l).rec_
    let placed := fun (t : State) => if r.det then (t.launch l).placed = (s.launch l).placed
      else ∃ n, (t.launch l).placed = (s.launch l).placed ++ [(n, a, b, dieOf core)]
    (restsOn s core seat l = true →
      ∃ t, exec (.claim core seat l entry) s = .next t ∧ (t.ctx k).run = { (s.ctx k).run with wst := .enter, lo := a, cur := a, hi := b } ∧
        (t.ctx k).regs = (s.ctx k).regs ∧ (t.launch l).pools[entry]? = some (p.taken r.det core seat b) ∧ placed t ∧
        Say.standingBut s t k) ∧
    (restsOn s core seat l = false →
      ∃ t, exec (.claim core seat l entry) s = .next t ∧ (t.ctx k).lvl = 0 ∧ (t.ctx k).sys.tvec = r.handler ∧
        (t.ctx k).flow.npc0 = r.entry ∧ (t.ctx k).tiles.share = (if seat = 0 then r.share0 else r.share1) ∧
        (t.ctx k).run.launch = l ∧ (t.ctx k).run.space = r.space ∧ (t.ctx k).run.live = true ∧ (t.ctx k).run.wst = .enter ∧
        (t.ctx k).run.cur = a ∧ (t.ctx k).run.hi = b ∧ (t.ctx k).q.lq = [] ∧ (t.ctx k).cmds = [] ∧
        (t.launch l).pools[entry]? = some (p.taken r.det core seat b) ∧ placed t ∧ Say.standingBut s t k)) ∧
  (∀ (s : State) (k : Nat), atBoundary s k = true → (s.ctx k).run.wst = .enter → (s.ctx k).lvl = 0 → stepEligible s k = true →
    reportDue (s.ctx k) = none →
    let c := s.ctx k
    let r := (s.launch c.run.launch).rec_
    let i := c.run.cur
    ∃ t, exec (.tileStepEntry k) s = .next t ∧
      (∀ d, d < 6 → fget 0 (t.ctx k).regs.s (40 + d) = BitVec.ofNat 64 ((coords r i).getD d 0)) ∧
      fget 0 (t.ctx k).regs.s 46 = BitVec.ofNat 64 i ∧ fget 0 (t.ctx k).regs.s 47 = r.args ∧
      (∀ j, j < 40 ∨ 48 ≤ j → fget 0 (t.ctx k).regs.s j = fget 0 c.regs.s j) ∧
      (t.ctx k).ctr.srstate = r.seed + BitVec.ofNat 64 (i * 2 ^ 32) ∧ (t.ctx k).ctr.frame = 0 ∧ (t.ctx k).flow.npc0 = r.entry ∧
      (t.ctx k).flow.loops = [] ∧ (t.ctx k).run = { c.run with wst := .run } ∧ (t.ctx k).q = c.q ∧ (t.ctx k).tiles = c.tiles ∧
      (t.ctx k).sys = c.sys ∧ t.mem = s.mem ∧ (∀ j, j ≠ k → t.ctx j = s.ctx j))

/-- CONTEXT_END and LAUNCH_END (R305, R310, R326): a context without work, counters and reports ends and its seat is idle; a launch all of
whose units are counted and whose writes are performed ends, failed when any unit failed. -/
def Say.ContextsAndLaunchesEnd : Prop :=
  ∀ (s : State),
    (∀ k, let c := s.ctx k
      c.run.live = true → c.run.halted = false → c.run.saved = false → c.lvl = 0 → c.quiet = true → c.per.armed = false →
      workDone s k = true → exchanging s c.run.lcore c.run.bank = false → c.run.bank < 2 →
      ∃ t, exec (.contextEnd k) s = .next t ∧ (t.ctx k).run = { c.run with live := false, busy := false } ∧ (t.ctx k).regs = c.regs ∧
        (t.ctx k).dbg.st = 0 ∧ (∀ w ∈ s.writes, w.agent ≠ 0 → w.ctx = k → w.id ∈ (t.launch c.run.launch).writes) ∧ t.mem = s.mem ∧
        (∀ j, j ≠ k → t.ctx j = s.ctx j)) ∧
    (∀ l, launchOver s l = true → flipIn s (s.launch l).rec_.space = false → (∀ w ∈ launchWrites s l, w.stash = none ∧ w.performedAt 3 = true) →
      ∃ t, exec (.launchEnd l) s = .next t ∧ (t.launch l).st = .ended (decide ((s.launch l).failed ≠ 0)) ∧
        (t.launch l).done = (s.launch l).done ∧ (t.launch l).failed = (s.launch l).failed ∧ (t.launch l).writes = [] ∧
        (∀ q, l ∉ fget [] t.dev.queues q) ∧ (∀ k, (t.ctx k).regs = (s.ctx k).regs ∧ (t.ctx k).run = (s.ctx k).run) ∧
        (∀ p ∈ t.dev.records, p.2 ≠ l)) ∧
    (∀ l, launchOver s l = true → (s.launch l).done.toNat + (s.launch l).failed.toNat = (s.launch l).rec_.n ∧
      (∀ p ∈ s.ctxs, p.2.run.launch = l → (s.ctx p.1).run.live = false ∨ (s.ctx p.1).run.halted = true))

/-- STEAL_REQUEST, STEAL_SPLIT and STEAL_GRANT (R41, R305, R307 to R309): a resting walker without a pool asks a victim, or ends without one;
so does an idle seat, which stays idle; the victim keeps the lower half of what is left, rounded up, and gives the rest; the thief's walker
takes it, or a new context that starts with it; a seat that can take none gives it back; under a cancelled launch its units are counted
failed. -/
def Say.StealsSplitWhatIsLeft : Prop :=
  ∀ (s : State),
    (∀ core seat, let k := s.bankOf core seat
      let l := (s.ctx k).run.launch
      restsOn s core seat l = true → (s.launch l).rec_.det = false → (s.launch l).working = true →
      (∀ m ∈ launchIds s, hasWork s core seat m = false ∨ seatFor s core seat m = false) → seatFor s core seat l = true →
      (∃ p ∈ (s.launch l).pools, p.names core = true) → imageLoaded s core l = true → resumeDue s core seat l = false → (∀ t ∈ s.dev.steals, t.core ≠ core ∨ t.seat ≠ seat) →
      (victimOf s l (dieOf core) [] = none →
        ∃ t, exec (.stealRequest core seat) s = .next t ∧ (t.ctx k).run = { (s.ctx k).run with ending := true } ∧ t.dev = s.dev ∧
          (∀ j, j ≠ k → t.ctx j = s.ctx j)) ∧
      (∀ v, victimOf s l (dieOf core) [] = some v →
        ∃ t, exec (.stealRequest core seat) s = .next t ∧ t.ctxs = s.ctxs ∧
          t.dev.steals = s.dev.steals ++ [{ id := s.nextId, core := core, seat := seat, victim := v, launch := l }])) ∧
    (∀ core seat l v, restsOn s core seat (s.ctx (s.bankOf core seat)).run.launch = false → launchIds s = [l] →
      (s.launch l).rec_.det = false → (s.launch l).working = true → hasWork s core seat l = false → seatFor s core seat l = true →
      (∃ p ∈ (s.launch l).pools, p.names core = true) → imageLoaded s core l = true → resumeDue s core seat l = false →
      (∀ t ∈ s.dev.steals, t.core ≠ core ∨ t.seat ≠ seat) → victimOf s l (dieOf core) [] = some v →
      ∃ t, exec (.stealRequest core seat) s = .next t ∧ t.ctxs = s.ctxs ∧
        t.dev.steals = s.dev.steals ++ [{ id := s.nextId, core := core, seat := seat, victim := v, launch := l }]) ∧
    (∀ x : Steal, s.dev.steals.find? (fun t => decide (t.id = x.id)) = some x →
      (x.range = none → (s.launch x.launch).working = true → mayLose s x.launch x.victim = true →
        let c := s.ctx x.victim
        let h := c.run.cur + (c.run.hi - c.run.cur + 1) / 2
        ∃ t, exec (.stealSplit x.id) s = .next t ∧ (t.ctx x.victim).run = { c.run with hi := h } ∧ (t.ctx x.victim).regs = c.regs ∧
          { x with range := some (h, c.run.hi) } ∈ t.dev.steals ∧ (∀ j, j ≠ x.victim → t.ctx j = s.ctx j)) ∧
      (∀ a b, x.range = some (a, b) →
        let k := s.bankOf x.core x.seat
        ((s.launch x.launch).cancelled = false → restsOn s x.core x.seat x.launch = true →
          ∃ t, exec (.stealGrant x.id) s = .next t ∧ (t.ctx k).run = { (s.ctx k).run with wst := .enter, lo := a, cur := a, hi := b } ∧
            (∀ y ∈ t.dev.steals, y.id ≠ x.id) ∧ Say.standingBut s t k) ∧
        ((s.launch x.launch).cancelled = false → restsOn s x.core x.seat x.launch = false →
          (seatFor (dropSteal s x.id) x.core x.seat x.launch = true →
            ∃ t, exec (.stealGrant x.id) s = .next t ∧ (t.ctx k).run.launch = x.launch ∧ (t.ctx k).run.live = true ∧ (t.ctx k).lvl = 0 ∧
              (t.ctx k).run.wst = .enter ∧ (t.ctx k).run.cur = a ∧ (t.ctx k).run.hi = b ∧
              (t.ctx k).flow.npc0 = (s.launch x.launch).rec_.entry ∧ (∀ y ∈ t.dev.steals, y.id ≠ x.id) ∧ Say.standingBut s t k) ∧
          (seatFor (dropSteal s x.id) x.core x.seat x.launch = false →
            exec (.stealGrant x.id) s = .next (giveBack (dropSteal s x.id) x.launch x.core a b))) ∧
        ((s.launch x.launch).cancelled = true →
          ∃ t, exec (.stealGrant x.id) s = .next t ∧ (∀ y ∈ t.dev.steals, y.id ≠ x.id) ∧ t.ctxs = s.ctxs ∧
            (t.launch x.launch).failed = (s.launch x.launch).failed + BitVec.ofNat 64 (b - a))))

/-! Exchanges, saving, stopping -/

/-- EXCHANGE_START and EXCHANGE_END (R10, R327, R329, R332): a wanted exchange of a seat that may exchange takes 16 cycles; at their end
the standby context takes the seat and the seat's context the standby bank, saved, registers and all. -/
def Say.ExchangesSwapTheBanks : Prop :=
  ∀ (s : State) (core seat : Nat),
    ((s.core core).want = some seat → mayExchange s core seat = true →
      ∃ t, exec (.exchangeStart core) s = .next t ∧ (t.core core).want = none ∧ (t.core core).exch = some { seat := seat, left := 16 } ∧
        t.ctxs = s.ctxs ∧ t.mem = s.mem) ∧
    ((s.core core).exch = some { seat := seat, left := 0 } → seat < 2 →
      let out := s.bankOf core seat
      let inn := s.bankOf core 2
      out ≠ inn →
      ∃ t, exec (.exchangeEnd core) s = .next t ∧ t.bankOf core seat = inn ∧ t.bankOf core 2 = out ∧ (t.core core).exch = none ∧
        (t.ctx inn).regs = (s.ctx inn).regs ∧ (t.ctx out).regs = (s.ctx out).regs ∧ (t.ctx inn).sys = (s.ctx inn).sys ∧
        (t.ctx out).sys = (s.ctx out).sys ∧ (t.ctx inn).pend = (s.ctx inn).pend ∧ (t.ctx out).pend = (s.ctx out).pend ∧
        (t.ctx inn).run = { (s.ctx inn).run with saved := false, busy := true, lcore := core, bank := seat,
                                                 slotted := (t.ctx inn).run.slotted } ∧
        (t.ctx out).run = { (s.ctx out).run with saved := true, savedAt := s.nextId, slotted := false } ∧
        out ∈ (t.die (dieOf core)).savedq ∧ (∀ d, inn ∉ (t.die d).savedq) ∧
        (∀ j, j ≠ inn → j ≠ out → (t.ctx j).regs = (s.ctx j).regs ∧ (t.ctx j).run = (s.ctx j).run))

/-- What the spill engine reads back (R328, R330): the registers, the system registers and the chain stand at the offsets of the layout. -/
def Say.ImagesAreReadBack : Prop :=
  ∀ (s : State) (k d i : Nat) (rest : List (Nat × Nat)) (bs : List Byte), slotsOf s k = (d, i) :: rest →
    slotRead s d i (s.ctx k).run.space 0x100 0x5F00 = some bs →
    let c := (readSlot s k).ctx k
    let num := fun (off n : Nat) => ofBytes ((bs.drop (off - 0x100)).take n)
    (∀ j, j < 56 → fget 0 c.regs.s j = BitVec.ofNat 64 (num (0x100 + 8 * j) 8)) ∧
    (∀ j, j < 24 → fget 0 c.regs.va j = BitVec.ofNat 1024 (num (0x300 + 128 * j) 128) ∧
      fget 0 c.regs.vb j = BitVec.ofNat 1024 (num (0xF00 + 128 * j) 128)) ∧
    (∀ j, j < 16 → fget 0 c.regs.ca j = BitVec.ofNat 64 (num (0x2680 + 8 * j) 8) ∧ fget 0 c.regs.cb j = BitVec.ofNat 64 (num (0x2700 + 8 * j) 8)) ∧
    c.sys.status = BitVec.ofNat 64 (num 0x2A80 8) ∧ c.flow.npc0 = BitVec.ofNat 64 (num 0x2B00 8) ∧ c.run = (s.ctx k).run ∧
    (∀ j, j ≠ k → (readSlot s k).ctx j = s.ctx j)

/-- CONTEXT_IMAGE_WRITE, STANDBY_PREFILL, PREEMPT and CONTEXT_RESUME (R42, R240, R303, R313, R328, R332): a saved context goes into a free
image slot, its image is written there, and its bank is free, an image that the context has outgrown first; an image comes into a free
standby bank once the values parked there have gone to their owners' spill areas; a launch of higher priority puts a new context at its
entry point there and asks for the exchange; a saved context whose seat is idle takes it, from its bank or from its image. -/
def Say.ContextsAreSavedAndResumed : Prop :=
  ∀ (s : State),
    (∀ core, let k := s.bankOf core 2
      let d := dieOf core
      let i := firstFree (s.die d).pool 0
      (∀ e ∈ (s.die d).pool, (s.ctx e.2).stale = false ∨ (s.ctx e.2).run.saved = false) →
      unwritten s core k = true → parkedQuiet s core k = true → i < imageSlots s d → (s.core core).exch = none → k ≠ 2 ^ 20 + s.nextId →
      ∃ t, exec (.contextImageWrite core) s = .next t ∧ fget 0 (t.die d).pool i = k ∧ (t.ctx k).regs = (s.ctx k).regs ∧
        (t.ctx k).run = (s.ctx k).run ∧ t.bankOf core 2 ≠ k ∧ (t.ctx (t.bankOf core 2)).run.live = false ∧
        t.mem = (putImage (saveCall s core k) d i k).mem) ∧
    (∀ core e, (s.die (dieOf core)).pool.find? (fun e => (s.ctx e.2).stale && (s.ctx e.2).run.saved) = some e →
      exec (.contextImageWrite core) s = .next (putImage s (dieOf core) e.1 e.2)) ∧
    (∀ core k, (s.ctx (s.bankOf core 2)).run.live = false → (s.core core).exch = none → slotsOf s k ≠ [] → (s.ctx k).stale = false →
      mayResume s k = true → coreOpen s core = true → (∃ p ∈ (s.launch (s.ctx k).run.launch).pools, p.names core = true) →
      (standbyKept (emptyStandby s core) core = true → exec (.standbyPrefill core k) s = .next (emptyStandby s core)) ∧
      (standbyKept (emptyStandby s core) core = false →
        ∃ t, exec (.standbyPrefill core k) s = .next t ∧ t.bankOf core 2 = k ∧ (t.ctx k).regs = ((readSlot s k).ctx k).regs ∧
          (t.ctx k).run = (s.ctx k).run ∧ fget 0 (t.core core).domains 2 = (s.ctx k).run.domain ∧ t.mem = s.mem ∧
          (∀ j, j ≠ k → (t.ctx j).regs = (s.ctx j).regs ∧ (t.ctx j).run = (s.ctx j).run))) ∧
    (∀ die l core seat, (s.launch l).working = true → (∃ p ∈ seatsOn s die l, hasWork s p.1 p.2 l = true) →
      (∀ p ∈ seatsOn s die l, hasWork s p.1 p.2 l = true → seatFor s p.1 p.2 l = false) → victimSeat s die l = some (core, seat) →
      standbyKept (emptyStandby s core) core = false → standbyFull (emptyStandby s core) core = false →
      ∃ t, let k := t.bankOf core 2
        exec (.preempt die l) s = .next t ∧ (t.core core).want = some seat ∧ (t.ctx k).run.launch = l ∧ (t.ctx k).run.saved = true ∧
        (t.ctx k).run.live = true ∧ (t.ctx k).flow.npc0 = (s.launch l).rec_.entry ∧ (t.ctx k).lvl = 0 ∧
        (∀ j, j ≠ k → (t.ctx j).regs = (s.ctx j).regs ∧ (t.ctx j).sys = (s.ctx j).sys ∧ (t.ctx j).run = (s.ctx j).run)) ∧
    (∀ k core seat rest, resumeSeat s k = some (core, seat) → mayResume s k = true → savedList s = k :: rest →
      bestFor s core seat (s.ctx k).run.launch = true → imageLoaded s core (s.ctx k).run.launch = true →
      seatBusy s core seat = false → parkedQuiet s (s.ctx k).run.lcore k = true → k < 2 ^ 20 + s.nextId →
      ∃ t, exec (.contextResume k) s = .next t ∧ t.bankOf core seat = k ∧
        (inStandby s k = true → (t.ctx k).regs = (s.ctx k).regs ∧ (t.ctx k).sys = (s.ctx k).sys) ∧
        (inStandby s k = false → (t.ctx k).regs = ((readSlot s k).ctx k).regs ∧ (t.ctx k).sys = ((readSlot s k).ctx k).sys) ∧
        (t.ctx k).run = { (s.ctx k).run with saved := false, busy := true, lcore := core, bank := seat, slotted := (t.ctx k).run.slotted })

/-- What a part of an image holds: the number whose `n` bytes stand at an offset. -/
def Say.lies (b : List ImgByte) (o n v : Nat) : Prop := (b.drop o).take n = fixedBytes (bytesOf n v)

/-- The layout of a context image (R330, R331): header, register files, strides, system registers, chain, load and store queues
with their counts, loop stack, walker and counters, deferral queue, spill map, tile table and queued call at the offsets of the table, then
the variable sections in order, with the entries of pending writes and engine commands. Bytes that the table leaves open are free, and the
places within a row are the model's (log entry 57). -/
def Say.ImagesFollowTheLayout : Prop :=
  ∀ (s : State) (k : Nat),
    let c := s.ctx k
    let b := imageLayout s k
    0x10000 ≤ b.length ∧ Say.lies b 0 8 1 ∧ Say.lies b 8 8 b.length ∧ Say.lies b 16 4 c.run.launch ∧ Say.lies b 20 4 c.run.domain ∧
    (∀ i, i < 56 → Say.lies b (0x0100 + 8 * i) 8 (fget 0 c.regs.s i).toNat) ∧
    (∀ i, i < 24 → Say.lies b (0x0300 + 128 * i) 128 (fget 0 c.regs.va i).toNat ∧
      Say.lies b (0x0F00 + 128 * i) 128 (fget 0 c.regs.vb i).toNat) ∧
    Say.lies b 0x1B00 4 0xFFFFFFFF ∧ Say.lies b 0x1B10 4 0xFFFFFFFF ∧
    (∀ i, 1 ≤ i → i < 4 → Say.lies b (0x1B00 + 4 * i) 4 (fget 0 c.regs.ka i).toNat ∧
      Say.lies b (0x1B10 + 4 * i) 4 (fget 0 c.regs.kb i).toNat) ∧
    (∀ i, i < 16 → Say.lies b (0x1C00 + 128 * i) 128 (fget 0 c.regs.x i).toNat ∧
      Say.lies b (0x2400 + 32 * i) 32 (fget 0 c.regs.e i).toNat ∧
      Say.lies b (0x2680 + 8 * i) 8 (fget 0 c.regs.ca i).toNat ∧ Say.lies b (0x2700 + 8 * i) 8 (fget 0 c.regs.cb i).toNat) ∧
    (∀ i, i < 8 → Say.lies b (0x2600 + 8 * i) 8 (fget 0 c.regs.p i).toNat ∧
      Say.lies b (0x2640 + 8 * i) 8 (fget 0 c.regs.psh i).toNat) ∧
    (∀ i l, i < 16 → l < 6 → Say.lies b (0x2780 + 4 * (6 * i + l)) 4 (fget 0 c.regs.sa (8 * i + l)).toNat ∧
      Say.lies b (0x2900 + 4 * (6 * i + l)) 4 (fget 0 c.regs.sb (8 * i + l)).toNat) ∧
    Say.lies b 0x2A80 8 c.sys.status.toNat ∧ Say.lies b 0x2A88 8 c.sys.estatus.toNat ∧ Say.lies b 0x2A90 8 c.sys.tvec.toNat ∧
    Say.lies b 0x2AC8 8 c.sys.fstatus.toNat ∧ Say.lies b 0x2B00 8 c.flow.npc0.toNat ∧ Say.lies b 0x2B08 8 c.flow.npc1.toNat ∧
    Say.lies b 0x2B10 8 c.flow.npc2.toNat ∧ Say.lies b 0x2B20 8 c.ctr.msord.toNat ∧ Say.lies b 0x2B28 8 c.ctr.srstate.toNat ∧
    Say.lies b 0x2B30 8 c.ctr.seqno.toNat ∧ Say.lies b 0x2B70 8 c.ctr.watchm.toNat ∧
    (∀ q i e, q < 8 → i < 8 → (fget [] c.q.lq q)[i]? = some e →
      (e.st = .arrived → Say.lies b (0x2C00 + 128 * (8 * q + i)) 128 e.data.toNat) ∧
      (e.st = .faulted → Say.lies b (0x4C00 + 8 * (8 * q + i)) 8
        (3 + 4 * b2n (bit e.faddr 63) + 128 * (e.faddr.toNat % 2 ^ 57)))) ∧
    (∀ q, q < 8 → Say.lies b (0x4E00 + q) 1 (fget [] c.q.lq q).length) ∧
    (∀ q i e, q < 4 → i < 8 → (fget [] c.q.sq q)[i]? = some e → Say.lies b (0x5000 + 128 * (8 * q + i)) 128 e.data.toNat ∧
      Say.lies b (0x6000 + 8 * q + i) 1 e.count) ∧
    (∀ q, q < 4 → Say.lies b (0x6020 + q) 1 (fget [] c.q.sq q).length) ∧
    (∀ i l, i < 6 → c.flow.loops[i]? = some l → Say.lies b (0x6100 + 16 * i) 8 l.start.toNat ∧ Say.lies b (0x6108 + 16 * i) 2 l.nbody ∧
      Say.lies b (0x610A + 16 * i) 4 l.rem ∧ Say.lies b (0x610E + 16 * i) 2 (b2n l.finish)) ∧
    Say.lies b 0x6160 4 c.run.launch ∧ Say.lies b 0x6164 8 c.run.lo ∧ Say.lies b 0x616C 8 c.run.cur ∧ Say.lies b 0x6174 8 c.run.hi ∧
    Say.lies b 0x6198 1 c.q.ld ∧ Say.lies b 0x6199 1 c.q.st ∧ Say.lies b 0x619A 1 c.q.cp ∧ Say.lies b 0x619B 1 c.q.tl ∧
    Say.lies b 0x61A0 8 c.per.seq.toNat ∧ Say.lies b 0x61A8 4 (c.run.firstCore + 2048 * c.run.firstSeat) ∧ Say.lies b 0x61AC 8 c.nrep ∧
    (∀ i e, i < 64 → c.q.defer[i]? = some e → Say.lies b (0x6200 + 16 * i) 4 e.v0.toNat ∧ Say.lies b (0x6204 + 16 * i) 4 e.v1.toNat ∧
      Say.lies b (0x6208 + 16 * i) 4 e.lane ∧ Say.lies b (0x620C + 16 * i) 4 e.iter) ∧
    (∀ i e, i < 256 → fget? c.q.spill i = some e →
      Say.lies b (0x6600 + 4 * i) 4 (i + 256 * placeCode e.place + 1024 * b2n e.wide + 2048 * b2n e.burst.isSome) ∧
      (e.place ≠ .area → Say.lies b (0x6A00 + 128 * i) 128 e.value.toNat)) ∧
    (∀ i, i < 256 → Say.lies b (0xEA00 + i) 1 (tileByte (fget .empty c.tiles.slot i)).toNat) ∧
    (∀ i, i < 512 → Say.lies b (0xEB00 + i) 1 (tileByte (fget .empty c.tiles.ring i)).toNat) ∧
    (∀ m, m < 8 → Say.lies b (0xED00 + m) 1 (fget 0 c.tiles.head m) ∧ Say.lies b (0xED08 + m) 1 (fget 0 c.tiles.tail m)) ∧
    (∀ r, c.savedCall = some r → Say.lies b 0xF200 8 r.call.pc.toNat ∧ Say.lies b 0xF208 4 r.call.seq.toNat ∧
      Say.lies b 0xF20C 2 r.call.routine) ∧
    (∀ x, c.call = some x → Say.lies b 0xF400 8 x.pc.toNat ∧ Say.lies b 0xF408 4 x.seq.toNat ∧ Say.lies b 0xF40C 2 x.routine) ∧
    (imageSections s k).length = 5 ∧
    (∀ (i : Nat) (p : Nat × List ImgByte), (imageSections s k)[i]? = some p →
      let off := 0x10000 + (((imageSections s k).take i).map (fun q => q.2.length)).sum
      Say.lies b (24 + 8 * i) 4 p.1 ∧ Say.lies b (28 + 8 * i) 4 off ∧ (b.drop off).take p.2.length = p.2) ∧
    (∀ lvl i p, lvl < 3 → (if lvl = 0 then c.flow.pend0 else if lvl = 1 then c.flow.pend1 else c.flow.pend2)[i]? = some p →
      let off := 0x10000 + 144 * ((if 0 < lvl then c.flow.pend0.length else 0) + (if 1 < lvl then c.flow.pend1.length else 0) + i)
      Say.lies b off 16 (p.kind % 4 * 2 ^ 5 + p.reg % 64 * 2 ^ 7 + p.cls % 8 * 2 ^ 13 + p.delay % 256 * 2 ^ 16 + lvl * 2 ^ 24) ∧
      Say.lies b (off + 16) 128 p.value.toNat) ∧
    (∀ x : Cmd, let e := cmdBytes s k x
      e.length = 1024 ∧ Say.lies e 0 8 x.pc.toNat ∧ Say.lies e 8 4 x.seq.toNat ∧ Say.lies e 12 4 x.word.toNat ∧
      Say.lies e 16 4 (x.path * 2 ^ 8 + (if x.path ≠ 1 then 2 else if x.done = 0 then 3 else 1) * 2 ^ 16 + x.lvl * 2 ^ 24) ∧
      Say.lies e 20 4 (cmdChunks s k x).1 ∧ Say.lies e 24 4 (cmdChunks s k x).2 ∧ Say.lies e 28 4 0 ∧
      (e.drop 32).take (opData x).length = fixedBytes ((opData x).take 992)) ∧
    (imageBytes s k).length = b.length ∧
    (∀ (i : Nat) (x : ImgByte), b[i]? = some x → x.fixed = 0xFF → (imageBytes s k)[i]? = some x.val)

/-- The writing of an image (R328): where the pages of its slot map consecutive memory, the bytes of the image stand there, in
the persist domain too where the pages are durable (R279), and no other byte of memory changes. -/
def Say.ImagesStandInThePool : Prop :=
  ∀ (s : State) (d i k key : Nat), Memory.wf s.mem = true →
    let bs := imageBytes s k
    (∀ j, 4096 * j < bs.length → poolPage s d (s.ctx k).run.space
        (dieReg s d 0x4008 0 + BitVec.ofNat 64 (2 ^ 23 * i) + BitVec.ofNat 64 (4096 * j)) = some (key + 4096 * j)) →
    memRead (putImage s d i k).mem key bs.length = bs ∧
    (∀ a, a < key ∨ key + bs.length ≤ a → memGet (putImage s d i k).mem a = memGet s.mem a) ∧
    (∀ a, a < key ∨ key + bs.length ≤ a ∨ isNvKey a = false → memGet (putImage s d i k).nv a = memGet s.nv a) ∧
    ((putImage s d i k).ctx k).regs = (s.ctx k).regs ∧ ((putImage s d i k).ctx k).stale = false

/-- DOMAIN_CHANGE and OWNER_CHANGE (R16, R241, R312, R338): a bank without context that passes to another domain has its registers, its
system registers (but FTVEC, log entry 83), queues, tile table and reports clear, and the image slot that it left is cleared and free; a
change of owner, with nothing live, clears core stores, accumulators, barriers, microprograms and images and starts launch identifiers
anew. -/
def Say.DomainsAndOwnersStartClean : Prop :=
  ∀ (s : State),
    (∀ core bank domain, let k := s.bankOf core bank
      (s.ctx k).run.live = false → (s.ctx k).run.halted = false → (s.ctx k).cmds = [] → fget 0 (s.core core).domains bank ≠ domain →
      ∃ t, exec (.domainChange core bank domain) s = .next t ∧ (t.ctx k).regs = {} ∧ (t.ctx k).sys = { ftvec := (s.ctx k).sys.ftvec } ∧
        (t.ctx k).q = {} ∧ (t.ctx k).tiles = {} ∧ (t.ctx k).reports = [] ∧ (t.ctx k).ctr = {} ∧
        fget 0 (t.core core).domains bank = domain ∧ (∀ j, j ≠ k → t.ctx j = s.ctx j) ∧ slotsOf t k = [] ∧
        (slotsOf s k = [] → t.mem = s.mem) ∧
        (∀ e, slotsOf s k = [e] → ∀ a,
          (a / 4096 * 4096 ∈ slotPages s e.1 e.2 (s.ctx k).run.space → ∀ m ∈ t.mem, m.1 ≠ a) ∧
          (a / 4096 * 4096 ∉ slotPages s e.1 e.2 (s.ctx k).run.space → ∀ m, m.1 = a → (m ∈ t.mem ↔ m ∈ s.mem)))) ∧
    (∀ owner, (∀ l x, (l, x) ∈ s.dev.launches → (s.launch l).alive = false) →
      (∀ p ∈ s.ctxs, p.2.run.live = false ∧ p.2.cmds = []) →
      ∃ t, exec (.ownerChange owner) s = .next t ∧ t.dev.owner = owner ∧ t.dev.nextLaunch = 1 ∧ t.dev.launches = [] ∧
        (∀ p ∈ t.cores, p.2.acc = [] ∧ p.2.chk = [] ∧ p.2.tol = [] ∧ p.2.ustore = [] ∧ p.2.rtab = [] ∧ p.2.bars = [] ∧
          p.2.image = none ∧ p.2.domains = []) ∧
        (∀ m ∈ t.mem, isCoreKey m.1 = false) ∧ (∀ p ∈ t.dies, p.2.pool = [] ∧ p.2.savedq = []))

/-- REPORT_DELIVERY (R321, R322, R325): at a boundary at its level the oldest report of a seat is written as a 64-byte record and taken as
a trap whose detail is the record's address, without a cycle of the register schedule; a record that cannot be written halts the seat,
and the management core is told. It waits while the record's page changes its bias (R353). -/
def Say.ReportsAreDeliveredAtBoundaries : Prop :=
  ∀ (s : State) (k : Nat) (r : Report) (rest : List Report), (s.ctx k).reports = r :: rest → r.lvl = (s.ctx k).lvl →
    let c := s.ctx k
    let d := dieOf c.run.lcore
    let va := dieReg s d 0x4000 0 + BitVec.ofNat 64 (1024 * (2 * (c.run.lcore % 64) + c.run.bank) + 64 * (c.nrep % 16))
    (atBoundary s k = false ∨ flipBlocks s c.run.space va = true → exec (.reportDelivery k) s = .next s) ∧
    (atBoundary s k = true → flipBlocks s c.run.space va = false →
    (∀ s1, dieStore s d c.run.space va (reportBytes r (c.nrep + 1)) = .ok s1 → r.cause ≠ 0x0C →
      ∃ t, exec (.reportDelivery k) s = .next t ∧ (t.ctx k).nrep = c.nrep + 1 ∧ (t.ctx k).regs = c.regs ∧
        (c.lvl = 0 → (t.ctx k).reports = rest ∧ (t.ctx k).lvl = 1 ∧ (t.ctx k).sys.estatus = c.sys.status ∧
          (t.ctx k).sys.tcause = r.cause.setWidth 64 ∧ (t.ctx k).sys.tval = va ∧ (t.ctx k).sys.epc0 = c.flow.npc0 ∧
          (t.ctx k).flow.npc0 = c.sys.tvec ∧ (t.ctx k).flow.pend0 = c.flow.pend0) ∧
        (c.lvl = 1 → (t.ctx k).reports = rest ∧ (t.ctx k).lvl = 2 ∧ (t.ctx k).sys.fstatus = c.sys.status ∧
          (t.ctx k).sys.fcause = r.cause.setWidth 64 ∧ (t.ctx k).sys.fval = va ∧ (t.ctx k).flow.npc0 = c.sys.ftvec)) ∧
    (∀ e, dieStore s d c.run.space va (reportBytes r (c.nrep + 1)) = .error e →
      ∃ t, exec (.reportDelivery k) s = .next t ∧ (t.ctx k).run.halted = true ∧ (t.ctx k).reports = [] ∧ (t.ctx k).haltRec = c.reports ∧
        (t.ctx k).regs = c.regs ∧ (∃ h, t.out = s.out ++ [.reportFault k va, h]) ∧ t.mem = s.mem)) ∧
    (reportBytes r (c.nrep + 1)).length = 64

/-- The stop of a launch (R333, R334): its running seats are asked to freeze at their next boundary; once all stand still the target is
the furthest milestone, and seats short of it run on to it; the stop completes when every seat is at the cut or has been marked by STOPLIM,
with a report that gives each seat, whether it is at the cut and its cut number, and whether the cut numbers agree. A seat that has not
got there within STOPLIM is to stop at its next boundary and is marked. -/
def Say.LaunchStopsGatherAtACut : Prop :=
  ∀ (s : State) (l : Nat),
    let x := s.launch l
    let ks := stopCtxs s l
    (x.st = .running → x.cancelled = false → x.stopping = none →
      ∃ t, exec (.launchStop l) s = .next t ∧ (t.launch l).stopping = some none ∧ t.mem = s.mem ∧
        (∀ k ∈ ks, (s.ctx k).runs = true → (s.ctx k).dbg.st ≠ 3 → (t.ctx k).dbg.st = 2 ∧ (t.ctx k).dbg.ask = true) ∧
        (∀ k ∈ ks, (t.ctx k).dbg.missed = false) ∧
        (∀ k, (t.ctx k).regs = (s.ctx k).regs ∧ (t.ctx k).run = (s.ctx k).run ∧ (k ∉ ks → t.ctx k = s.ctx k))) ∧
    (x.stopping = some none → (∀ k ∈ ks, standsStill s k = true) →
      ∃ t n, exec (.stopComplete l) s = .next t ∧ (t.launch l).stopping = some (some (BitVec.ofNat 64 n)) ∧
        (∀ k ∈ ks, reached s k ≤ n) ∧ (n = 0 ∨ ∃ k ∈ ks, reached s k = n) ∧
        (∀ k ∈ ks, (s.ctx k).run.saved = false → (s.ctx k).dbg.missed = false →
          ((s.ctx k).dbg.at_ = false ∨ (s.ctx k).ctr.msord ≠ BitVec.ofNat 64 n) → (t.ctx k).dbg.st = 1 ∧ (t.ctx k).flow.wake = true) ∧
        (∀ k, (t.ctx k).regs = (s.ctx k).regs ∧ (t.ctx k).run = (s.ctx k).run)) ∧
    (∀ T, x.stopping = some (some T) → x.stopped = false →
      let cut := fun k => decide ((s.ctx k).dbg.at_ = true ∧ (s.ctx k).ctr.msord = T ∧ (s.ctx k).dbg.missed = false)
      ((∀ k ∈ ks, (s.ctx k).dbg.missed = true ∨ (((s.ctx k).dbg.st = 3 ∨ (s.ctx k).run.saved = true) ∧ cut k = true)) →
        ∃ t even, exec (.stopComplete l) s = .next t ∧ (t.launch l).stopped = true ∧
          t.out = s.out ++ [.stopReport l T (ks.map (fun k => ((s.ctx k).run.lcore, (s.ctx k).run.bank, cut k, (s.ctx k).dbg.cut.toNat))) even] ∧
          (even = true ↔ ∀ k ∈ ks, ∀ j ∈ ks, cut k = true → cut j = true → (s.ctx k).dbg.cut = (s.ctx j).dbg.cut) ∧
          t.ctxs = s.ctxs)) ∧
    (∀ k, let c := s.ctx k
      let lim := (dieReg s (dieOf c.run.lcore) 0x4018 0).toNat
      let spent := ((s.die (dieOf c.run.lcore)).cycle - c.dbg.since).toNat
      let short := (x.stopping = some none ∧ standsStill s k = false) ∨
        (∃ T, x.stopping = some (some T) ∧ x.stopped = false ∧ (c.dbg.at_ = false ∨ c.ctr.msord ≠ T))
      c.run.launch = l → c.run.live = true → c.run.halted = false → c.dbg.missed = false → short →
      (spent < lim → exec (.stopLimitExpiry k) s = .next s) ∧
      (lim ≤ spent → exec (.stopLimitExpiry k) s = .next (s.setCtx k { c with dbg := { c.dbg with
        missed := true, st := if c.dbg.st = 3 then 3 else 2, ask := decide (c.dbg.st ≠ 3) } })))

/-- The SCTL commands (R322, R335, R336): STOP asks a running seat to freeze, STEP lets a stopped one issue a bundle, RUN lets it go on and
ends its launch's stop, HALT halts one that runs, stops or steps, RELEASE frees a halted one; a command that does not fit sets ERR. -/
def Say.DebugCommandsMoveTheSeat : Prop :=
  ∀ (s : State) (core bank : Nat), (s.die (dieOf core)).scan = none →
    let k := s.bankOf core bank
    let c := s.ctx k
    let st := stOf s core bank
    let err := s.setCtx k { c with dbg := { c.dbg with err := true } }
    (st = 1 → c.runs = true → exec (.stop core bank) s = .next (s.setCtx k { c with dbg := { c.dbg with st := 2, ask := true } })) ∧
    (st = 1 → c.runs = false →
      exec (.stop core bank) s = .next (s.setCtx k { c with dbg := { c.dbg with st := 3, ask := false, at_ := c.dbg.mile } })) ∧
    (st ≠ 1 → exec (.stop core bank) s = .next err) ∧
    (st = 3 → exec (.step core bank) s = .next (s.setCtx k { c with dbg := { c.dbg with st := 4, stepTraps := 0 } })) ∧
    (st ≠ 3 → exec (.step core bank) s = .next err ∧ exec (.run core bank) s = .next err) ∧
    (st = 3 → ∃ t, exec (.run core bank) s = .next t ∧ (t.ctx k).dbg.st = 1 ∧ (t.ctx k).flow.wake = true ∧ (t.ctx k).dbg.missed = false ∧
      (t.ctx k).regs = c.regs ∧ (t.ctx k).run = c.run ∧
      (t.launch c.run.launch).stopping = none ∧ (∀ j, j ≠ k → t.ctx j = s.ctx j) ∧ t.mem = s.mem) ∧
    (1 ≤ st → st ≤ 4 → ∃ t, exec (.halt core bank) s = .next t ∧ (t.ctx k).run.halted = true ∧ (t.ctx k).regs = c.regs ∧
      (t.ctx k).sys = c.sys ∧ (t.ctx k).dbg.st = 5 ∧ (t.ctx k).reports = [] ∧ (t.ctx k).haltRec = c.reports ∧
      t.out = s.out ++ [.haltReport c.run.lcore c.run.bank 0 c.flow.npc0 c.flow.npc1 c.flow.npc2] ∧
      (∀ j, j ≠ k → t.ctx j = s.ctx j) ∧ t.mem = s.mem) ∧
    (¬(1 ≤ st ∧ st ≤ 4) → exec (.halt core bank) s = .next err) ∧
    (c.run.halted = true → ∃ t, exec (.release core bank) s = .next t ∧
      (t.ctx k).run = { c.run with halted := false, live := false, busy := false } ∧ (t.ctx k).regs = c.regs ∧ (t.ctx k).dbg.st = 0) ∧
    (c.run.halted = false → exec (.release core bank) s = .next err)

/-- A dump of a stopped launch or a halted seat (R337): memory as it is read at device scope, an image of each context with ST and the cut
marks, and its writes not performed there, granule by granule. -/
def Say.DumpsShowWhatStopped : Prop :=
  ∀ (s : State),
    (Memory.wf s.mem = true → ∀ key, isCoreKey key = false → memGet (dumpMemory s) key = dumpByte s key) ∧
    (∀ key, (∀ w ∈ s.writes, w.performedAt 3 = false) → dumpByte s key = memGet s.mem key) ∧
    (∀ k, let x := dumpCtx s k
      x.image = imageBytes s k ∧ x.atCut = (s.ctx k).dbg.at_ ∧ x.missed = (s.ctx k).dbg.missed ∧ ((s.ctx k).run.saved = true → x.st = 0) ∧
      (∀ w ∈ s.writes, w.agent ≠ 0 → w.ctx = k → w.performedAt 3 = false → ∀ c ∈ w.cells, c.1 / 64 ∈ w.granules ∧
        pendingEntry w (c.1 / 64) ∈ x.stores ∧ (pendingEntry w (c.1 / 64)).getLsbD (192 + c.1 % 64) = true ∧
        (pendingEntry w (c.1 / 64)).extractLsb' 160 32 = w.applied)) ∧
    (∀ l, ((s.launch l).stopped = true → ∃ d, dumpLaunch s l = some d ∧ d.mem = dumpMemory s ∧
        ∀ k ∈ ctxsOf s l, (s.ctx k).run.live = true → (k, dumpCtx s k) ∈ d.ctxs) ∧
      ((s.launch l).stopped = false → dumpLaunch s l = none)) ∧
    (∀ core seat, let k := s.bankOf core seat
      ((s.ctx k).run.halted = true → dumpSeat s core seat = some { mem := dumpMemory s, ctxs := [(k, dumpCtx s k)] }) ∧
      ((s.ctx k).run.halted = false → dumpSeat s core seat = none))

/-! The units of the dies and the module -/

/-- The contexts keep their registers, their system registers, their chain and their place: what a unit of a die may do to a context is to
take lines out of its stash (R259). -/
def Say.seatsStand (s t : State) : Prop :=
  ∀ k, (t.ctx k).regs = (s.ctx k).regs ∧ (t.ctx k).sys = (s.ctx k).sys ∧ (t.ctx k).flow = (s.ctx k).flow ∧ (t.ctx k).run = (s.ctx k).run

/-- The shootdowns and the bias flip (R349, R353): cached translations of the named range go on every core and die, BUSY is set, KIND and
the fields that the command uses stand in SDCTL, and BUSY waits for every write in flight in the range and in the blocks that a dropped
entry mapped; while BUSY the command only sets ERR; BUSY clears once what it waits for is performed; a flip blocks its page, and completes
with no cached translation of it left. -/
def Say.ShootdownsAndFlipsDropTranslations : Prop :=
  ∀ (s : State) (d : Nat),
    let gone := fun (t : State) (space lo hi : Nat) =>
      (∀ p ∈ t.cores, ∀ e ∈ p.2.tlb, ¬(e.space = space ∧ e.va.toNat < hi ∧ lo < e.va.toNat + 2 ^ e.bits)) ∧
      (∀ p ∈ t.dies, (∀ e ∈ p.2.tlb, ¬(e.space = space ∧ e.va.toNat < hi ∧ lo < e.va.toNat + 2 ^ e.bits)) ∧
        (∀ w ∈ p.2.walks, w.space ≠ space))
    let begun := fun (t : State) (kind : BitVec 2) => (t.die d).shoot.busy = true ∧ (dieReg t d 0x4400 0).getLsbD 63 = true ∧
      (dieReg t d 0x4400 0).extractLsb' 60 2 = kind ∧ t.ctxs = s.ctxs ∧ t.mem = s.mem ∧ t.writes = s.writes
    let waits := fun (t : State) (space lo hi : Nat) => ∀ w ∈ s.writes, w.space = space → w.va.toNat < 2 ^ 57 →
      ((lo ≤ w.va.toNat ∧ w.va.toNat < hi) ∨
        (∃ e : TlbEntry, ((∃ p ∈ s.cores, e ∈ p.2.tlb) ∨ ∃ p ∈ s.dies, e ∈ p.2.tlb) ∧ e.space = space ∧ e.va.toNat < hi ∧
          lo < e.va.toNat + 2 ^ e.bits ∧ e.va.toNat ≤ w.va.toNat ∧ w.va.toNat < e.va.toNat + 2 ^ e.bits)) →
      w.id ∈ (t.die d).shoot.ids
    ((s.die d).shoot.busy = false →
      (∀ space va count, space < 64 → count < 2 ^ 22 →
        ∃ t, exec (.shootdownPages d space va count) s = .next t ∧ begun t 1 ∧ gone t space va (va + 4096 * count) ∧
          waits t space va (va + 4096 * count) ∧ (dieReg t d 0x4400 0).extractLsb' 54 6 = BitVec.ofNat 6 space ∧
          (dieReg t d 0x4400 0).extractLsb' 32 22 = BitVec.ofNat 22 count ∧ dieReg t d 0x4408 0 = BitVec.ofNat 64 va) ∧
      (∀ space, space < 64 → ∃ t, exec (.shootdownSpace d space) s = .next t ∧ begun t 2 ∧ gone t space 0 (2 ^ 57) ∧ waits t space 0 (2 ^ 57) ∧
        (dieReg t d 0x4400 0).extractLsb' 54 6 = BitVec.ofNat 6 space ∧
        (dieReg t d 0x4400 0).extractLsb' 32 22 = (dieReg s d 0x4400 0).extractLsb' 32 22) ∧
      (∃ t, exec (.shootdownAll d) s = .next t ∧ begun t 3 ∧ (∀ space, space < 64 → gone t space 0 (2 ^ 57) ∧ waits t space 0 (2 ^ 57)) ∧
        (dieReg t d 0x4400 0).extractLsb' 32 28 = (dieReg s d 0x4400 0).extractLsb' 32 28)) ∧
    ((s.die d).shoot.busy = true →
      (∀ i, (i = .shootdownAll d ∨ (∃ space, i = .shootdownSpace d space) ∨ ∃ space va count, i = .shootdownPages d space va count) →
        ∃ t, exec i s = .next t ∧ t.cores = s.cores ∧ (dieReg t d 0x4400 0).getLsbD 62 = true ∧ (t.die d).tlb = (s.die d).tlb) ∧
      ((∀ i ∈ (s.die d).shoot.ids, (∀ l ∈ s.loads, l.id ≠ i) ∧ (∀ w ∈ s.writes, w.id = i → w.performedAt 3 = true)) →
        ∃ t, exec (.shootdownComplete d) s = .next t ∧ (t.die d).shoot.busy = false ∧ (dieReg t d 0x4400 0).getLsbD 63 = false ∧
          t.ctxs = s.ctxs ∧ t.mem = s.mem)) ∧
    (∀ v, ((s.die d).flip.isSome = true ∨ flipFor s d v = none) →
      ∃ t, exec (.biasFlip d v) s = .next t ∧ (dieReg t d 0x4410 0).getLsbD 62 = true ∧ (t.die d).flip = (s.die d).flip ∧ t.mem = s.mem) ∧
    (∀ v f, (s.die d).flip = none → flipFor s d v = some f →
      ∃ t, exec (.biasFlip d v) s = .next t ∧ (t.die d).flip = some f ∧ (dieReg t d 0x4410 0).getLsbD 63 = true ∧ t.mem = s.mem ∧
        t.ctxs = s.ctxs) ∧
    (∀ f, (s.die d).flip = some f → (∀ w ∈ s.writes, w.stash = none) → flipQuiet s f = true →
      ∃ t, exec (.biasFlipComplete d) s = .next t ∧ (t.die d).flip = none ∧ (dieReg t d 0x4410 0).getLsbD 63 = false ∧ Say.seatsStand s t ∧
        gone t f.space f.va.toNat (f.va.toNat + 2 ^ f.bits)) ∧
    (∀ f, (s.die d).flip = some f → (∀ w ∈ s.writes, w.stash = none) → flipQuiet s f = false → exec (.biasFlipComplete d) s = .next s)

/-- UNCORRECTABLE_DATA, CORRECTED_ERROR, FUNCTION_REMOVE and FUNCTION_READY (R350, R361, R396, R397): the granule is withheld, logged and
counted; the abort of an access to a function that is not ready is logged and counted, and withholds nothing (R362, log entry 74); a corrected error is counted, both counts stopping at their largest value; a removed function is not ready until the module
is serviced, and a function of an authentic die that has not been removed reports ready. A bridge bit of DRDY towards a neighbour that the
die lacks reads 0 (R8; which bit is which neighbour is DEDUCED, log entry 89). -/
def Say.ErrorsAndReadinessAreRecorded : Prop :=
  ∀ (s : State) (d source : Nat), 1 ≤ source → source ≤ 8 →
    let n := fun (t : State) (hi : Nat) => (dieReg t d (0x6900 + 8 * source) 0).toNat / 2 ^ hi % 2 ^ 32
    (∀ key va seq lcore, ∃ t, exec (.uncorrectableData d source key va seq lcore) s = .next t ∧ Say.seatsStand s t ∧
      (let a : Abort := { die := d, source := source, key := key, va := va, seq := seq, lcore := lcore }
       (∀ i, (traceOf s d i).records 8 0 = false) →
         (a ∉ s.dev.found → key / 64 ∈ t.poison ∧ ∀ g ∈ s.poison, g ∈ t.poison) ∧
         (a ∈ s.dev.found → t.poison = s.poison ∧ t.dev.found = s.dev.found.erase a) ∧ t.mem = s.mem ∧ t.ctxs = s.ctxs) ∧
      t.out = s.out ++ [.errorRecord (errorRecord d source key va seq lcore)] ∧
      errorRecord d source key va seq lcore ∈ (t.die d).errlog ∧ .interrupt 1 va ∈ (t.die d).msgs ∧
      n t 32 = min (n s 32 + 1) (2 ^ 32 - 1) ∧ n t 0 = n s 0) ∧
    (∃ t, exec (.correctedError d source) s = .next t ∧ n t 0 = min (n s 0 + 1) (2 ^ 32 - 1) ∧ n t 32 = n s 32 ∧ t.ctxs = s.ctxs ∧
      t.mem = s.mem ∧ t.poison = s.poison) ∧
    (∀ v : W64, let i := v.toNat % 256
      let reg := v.toNat / 256 % 8
      let ready := fun (t : State) => if reg = 0 then (dieReg t d 0x4500 0).getLsbD i else (devReg t (0x4500 + 8 * reg) 0).getLsbD i
      ((reg = 0 ∧ 1 ≤ i ∧ i ≤ 6) ∨ ((reg = 2 ∧ i < 16) ∨ (reg = 3 ∧ i < 64) ∨ (reg = 4 ∧ i < 8)) →
        ∃ t, exec (.functionRemove d v) s = .next t ∧ ready t = false ∧ (if reg = 0 then d else 0, reg, i) ∈ t.dev.removed ∧
          t.ctxs = s.ctxs ∧ t.mem = s.mem) ∧
      (¬((reg = 0 ∧ 1 ≤ i ∧ i ≤ 6) ∨ ((reg = 2 ∧ i < 16) ∨ (reg = 3 ∧ i < 64) ∨ (reg = 4 ∧ i < 8))) →
        exec (.functionRemove d v) s = .next s)) ∧
    (∀ i, i < 7 → d < 32 →
      let lacks := (i = 3 ∧ d % 8 = 7) ∨ (i = 4 ∧ d % 8 = 0) ∨ (i = 5 ∧ 24 ≤ d) ∨ (i = 6 ∧ d < 8)
      (lacks → exec (.functionReady d 0 i) s = .next s) ∧
      (¬ lacks → s.dev.auth.getLsbD d = true → (d, 0, i) ∉ s.dev.removed →
        ∃ t, exec (.functionReady d 0 i) s = .next t ∧ (dieReg t d 0x4500 0).getLsbD i = true ∧ t.ctxs = s.ctxs ∧ t.mem = s.mem) ∧
      (s.dev.auth.getLsbD d = false ∨ (d, 0, i) ∈ s.dev.removed → exec (.functionReady d 0 i) s = .next s))

/-- POWER_ON, INPUT_UNDERVOLTAGE, THERMAL_THROTTLE, THERMAL_SHUTDOWN, ALVEL_LINK_FAILURE, LINK_CRC_RETRY, DURABLE_RECOVERY, ATTESTATION (R284,
R351, R361, R369, R398, R399): a loss of power keeps the persist domain and nothing of the contexts; the cores of the mask issue
nothing; a failed link is not ready and faults what waits for it, with a record of SOURCE 7 for each (R350); a retried granule changes
nothing; recovery and attestation only answer, the report 384 bytes with the nonce at 16. -/
def Say.PowerAndLinkEventsKeepWhatTheyMust : Prop :=
  ∀ (s : State),
    (∀ i ∈ [Instr.inputUndervoltage, .thermalShutdown], exec i s = .next { s with dev := { s.dev with powered := false } }) ∧
    (∀ m : W32, (s.dev.powered = false →
        ∃ t, exec (.powerOn m) s = .next t ∧ t.nv = s.nv ∧ t.mem = s.nv ∧ t.ctxs = [] ∧ t.cores = [] ∧ t.writes = [] ∧ t.loads = [] ∧
          t.dev.powered = true ∧ t.dev.auth = m ∧ t.dev.launches = [] ∧ t.dev.owner = s.dev.owner ∧ t.dev.removed = s.dev.removed) ∧
      (s.dev.powered = true → s.dev.auth = 0 → exec (.powerOn m) s = .next { s with dev := { s.dev with auth := m } }) ∧
      (s.dev.powered = true → s.dev.auth ≠ 0 → exec (.powerOn m) s = .next s)) ∧
    (∀ d m, exec (.thermalThrottle d m) s = .next (s.setDie d { s.die d with throttled := m })) ∧
    (∃ t, exec .alvelLinkFailure s = .next t ∧ linkReady t = false ∧ (∀ l ∈ t.loads, l.host = false) ∧
      (∀ k, (t.ctx k).regs = (s.ctx k).regs ∧ (t.ctx k).sys = (s.ctx k).sys) ∧ t.nv = s.nv ∧
      (∀ l ∈ s.loads, l.host = true → .errorRecord (errorRecord (dieOf l.core) 7 (loadKey l) l.va 0 l.core) ∈ t.out) ∧
      (∀ w ∈ s.writes, w.host = true → w.stage < 4 →
        .errorRecord (errorRecord (dieOf w.core) 7 (w.keys.headD 0) w.va w.seq w.core) ∈ t.out)) ∧
    (∀ g, exec (.linkCrcRetry g) s = .next s) ∧
    (∀ l sp p0 p1 c b, exec (.durableRecovery l sp p0 p1 c b) s = .next { s with out := s.out ++ [recover s l sp p0 p1 c b] }) ∧
    (∀ nonce : BitVec 256, ∃ r, exec (.attestation nonce) s = .next { s with out := s.out ++ [.attest r] } ∧ r.length = 384 ∧
      (∀ j, j < 32 → r[16 + j]? = some ((nonce >>> (8 * j)).setWidth 8)))

/-- FRAME_RECEIVE, FRAME_LIFE_EXPIRY, PORT_FAILURE, REKEY and KEY_SLOT_CLEAR (R355, R356, R358): a working port drops a frame for the first
reason that holds, counts it, and tells the management core of an unknown owner or a bad tag; an accepted one has its SEQ the last accepted
and its stay here taken from LIFE (how long it stays is free, log entry 45), is dropped at LIFE 0, and else waits to be judged, goes to the
companion, or goes on to another device; a failed port is down; a key goes into the slot not in use, which senders then use; the
slot not in use is cleared LINKTMO cycles after that, counted on die 0 (log entry 107), and no sooner; a fifth owner of a group finds no place. -/
def Obligations.PortsCheckFramesAndKeys : Prop :=
  ∀ (s : State) (port : Nat),
    (∀ f : Frame, portUp s port = true →
      let owner := frOwner f
      let key := 65536 * (port / 9) + owner
      let drops := fun (why : Nat) => ∃ t, exec (.frameReceive port f) s = .next t ∧ t.ctxs = s.ctxs ∧ t.mem = s.mem ∧
        t.dev.inbox = s.dev.inbox ∧ t.dev.accepted = s.dev.accepted ∧
        fget 0 t.dev.drops (8 * port + why) = fget 0 s.dev.drops (8 * port + why) + 1 ∧
        t.out = s.out ++ (if why = 1 ∨ why = 3 then [.securityEvent why port owner] else [])
      (fget? s.dev.keys key = none → drops 1) ∧
      (∀ ks, fget? s.dev.keys key = some ks →
        (frSeq f ≤ fget 0 s.dev.accepted (65536 * port + owner) → drops 2) ∧
        (fget 0 s.dev.accepted (65536 * port + owner) < frSeq f →
          ((if frKey f = 0 then ks.k0 else ks.k1) = none → drops 3) ∧
          (∀ k, (if frKey f = 0 then ks.k0 else ks.k1) = some k →
            (f.tag ≠ kmac256 k (bytesOf 32 f.hdr.toNat ++ f.data) → drops 3) ∧
            (f.tag = kmac256 k (bytesOf 32 f.hdr.toNat ++ f.data) →
              (frLife f = 0 → drops 4) ∧
              (frLife f ≠ 0 → frType f ∉ [1, 2, 3, 4, 8, 9, 10, 16, 17] → drops 5) ∧
              (frLife f ≠ 0 → frType f ∈ [1, 2, 3, 4, 8, 9, 10, 16, 17] →
                ∃ t, exec (.frameReceive port f) s = .next t ∧ t.ctxs = s.ctxs ∧ t.mem = s.mem ∧
                  fget 0 t.dev.accepted (65536 * port + owner) = frSeq f ∧
                  (lifeLeft s f = 0 → t.dev.inbox = s.dev.inbox ∧ t.out = s.out ∧
                    fget 0 t.dev.drops (8 * port + 4) = fget 0 s.dev.drops (8 * port + 4) + 1) ∧
                  (lifeLeft s f ≠ 0 → t.dev.drops = s.dev.drops ∧
                    (frDst f = Config.deviceNumber →
                      (frType f ∈ [1, 2, 3, 4, 8, 9, 10] → ∃ g, t.dev.inbox = s.dev.inbox ++ [g] ∧ frLife g = lifeLeft s f ∧ g.data = f.data ∧
                        g.hdr.extractLsb' 0 176 = f.hdr.extractLsb' 0 176 ∧ frSeq g = frSeq f) ∧
                      (frType f = 17 → t.out = s.out ++ [.companionOut f.data])) ∧
                    (∀ p, frDst f ≠ Config.deviceNumber → portFor s (frDst f).toNat = some p →
                      ∃ g, t.out = s.out ++ [.frameOut p g] ∧ g.data = f.data ∧ frLife g = lifeLeft s f ∧ frDst g = frDst f ∧
                        frType g = frType f ∧ frOwner g = frOwner f)))))))) ∧
    (∀ f : Frame, ∃ t, exec (.frameLifeExpiry port f) s = .next t ∧ t.dev.inbox = s.dev.inbox.erase f ∧ t.ctxs = s.ctxs ∧ t.mem = s.mem ∧
      fget 0 t.dev.drops (8 * port + 4) = fget 0 s.dev.drops (8 * port + 4) + 1) ∧
    (port < 72 → ∃ t, exec (.portFailure port) s = .next t ∧ portUp t port = false ∧ (∀ p, p ≠ port → portUp t p = portUp s p) ∧
      t.ctxs = s.ctxs ∧ t.mem = s.mem) ∧
    (∀ group owner key, owner < 65536 →
      let at_ := 65536 * group + owner
      (∀ ks, fget? s.dev.keys at_ = some ks →
        (∃ t ks', exec (.rekey group owner key) s = .next t ∧ fget? t.dev.keys at_ = some ks' ∧ ks'.cur = (if ks.cur = 0 then 1 else 0) ∧
          slotKey ks' ks'.cur = some key ∧ ks'.since = (s.die 0).cycle ∧ slotKey ks' (if ks.cur = 0 then 0 else 1) = slotKey ks (if ks.cur = 0 then 0 else 1) ∧
          t.ctxs = s.ctxs) ∧
        (linkTmo s ≤ ((s.die 0).cycle - ks.since).toNat →
          ∃ t ks', exec (.keySlotClear group owner) s = .next t ∧ fget? t.dev.keys at_ = some ks' ∧ ks'.cur = ks.cur ∧
          slotKey ks' (if ks.cur = 0 then 1 else 0) = none ∧ slotKey ks' (if ks.cur = 0 then 0 else 1) = slotKey ks (if ks.cur = 0 then 0 else 1)) ∧
        (((s.die 0).cycle - ks.since).toNat < linkTmo s → exec (.keySlotClear group owner) s = .next s)) ∧
      (fget? s.dev.keys at_ = none → group < 8 →
        ((s.dev.keys.filter (fun p => decide (p.1 / 65536 = group) && decide (p.1 ≠ at_))).length < 4 →
          ∃ t, exec (.rekey group owner key) s = .next t ∧ fget? t.dev.keys at_ = some { cur := 0, k0 := some key, k1 := none, since := (s.die 0).cycle }) ∧
        (4 ≤ (s.dev.keys.filter (fun p => decide (p.1 / 65536 = group) && decide (p.1 ≠ at_))).length →
          exec (.rekey group owner key) s = .next s)))

/-- The scan and the rebinding of cores (R378 to R384): START of a legal command takes the core and is refused with ERR otherwise; the
patterns run once the core is drained; a verdict passes or puts the core one bin safer, and clears what the patterns overwrote; an abort or
a pressing launch restores the state it had; an empty logical number whose core is out of service takes the best spare, or is
unbound and not ready; LCMAP asks for a spare by name. -/
def Say.ScansTestAndRebindCores : Prop :=
  ∀ (s : State) (d : Nat),
    let st := fun (t : State) => (dieReg t d 0x4A40 (BitVec.ofNat 64 (4 * 2 ^ 52))).toNat / 2 ^ 56 % 16
    (∀ v : W64, let p := v.toNat / 2 ^ 43 % 128
      let bin := v.toNat / 2 ^ 50 % 4
      let w := (pcstat s d p).toNat
      let refused := st s = 1 ∨ st s = 2 ∨ 68 ≤ p ∨ bin = 3 ∨ w % 8 = 3 ∨ (w % 8 = 0 ∧ bin < w / 16 % 4)
      (refused → ∃ t, exec (.scanStart d v) s = .next t ∧ (scanReg t d).getLsbD 55 = true ∧ (t.die d).scan = (s.die d).scan ∧
        (p < 68 → pcstat t d p = pcstat s d p) ∧ t.ctxs = s.ctxs) ∧
      (¬ refused → ∃ t x, exec (.scanStart d v) s = .next t ∧ st t = 1 ∧ (t.die d).scan = some x ∧ x.pcore = p ∧ x.runs = false ∧
        x.prev = w % 8 ∧ (pcstat t d p).toNat % 8 = 4 ∧ t.ctxs = s.ctxs ∧ t.mem = s.mem)) ∧
    (∀ x, (s.die d).scan = some x → x.pcore < 68 →
      (x.runs = false → x.lcore = none → ∃ t, exec (.scanRun d) s = .next t ∧ st t = 2 ∧ (t.die d).scan = some { x with runs := true } ∧
        t.ctxs = s.ctxs ∧ t.mem = s.mem) ∧
      (st s = 1 ∨ st s = 2 → ∃ t, exec (.scanAbort d) s = .next t ∧ st t = 5 ∧ (t.die d).scan = none ∧ (pcstat t d x.pcore).toNat % 8 = x.prev % 8) ∧
      (scanPressed s d x = true → ∃ t, exec (.scanPriorityAbort d) s = .next t ∧ st t = 5 ∧ (t.die d).scan = none) ∧
      (scanPressed s d x = false → exec (.scanPriorityAbort d) s = .next s) ∧
      (x.runs = true → ∀ fails rows cols, fails ≠ [] →
        let b := (pcstat s d x.pcore).toNat / 16 % 4
        ∃ t, exec (.scanVerdict d fails rows cols) s = .next t ∧ st t = 4 ∧ (t.die d).scan = none ∧
          (pcstat t d x.pcore).toNat % 8 = (if b < 2 then 2 else 3) ∧ (pcstat t d x.pcore).toNat / 16 % 4 = (if b < 2 then b + 1 else b))) ∧
    (∀ c, c < 64 → d < 32 →
      (∀ v : W64, let p := v.toNat % 128
        (p < 68 → (pcstat s d p).toNat % 8 = 1 →
          exec (.lcmapWrite d c v) s = .next (s.setDie d { s.die d with rebind := fset (s.die d).rebind c p })) ∧
        (¬(p < 68 ∧ (pcstat s d p).toNat % 8 = 1) → exec (.lcmapWrite d c v) s = .next s)) ∧
      (coreEmpty s (64 * d + c) = true → fget? (s.die d).rebind c = none → bit (lcmapOf s d c) 7 = true →
        (pcState (pcstat s d (physOf s (64 * d + c))) = 2 ∨ pcState (pcstat s d (physOf s (64 * d + c))) = 3) →
        (∀ p, bestSpare s d = some p →
          ∃ t, exec (.logicalCoreRebind d c) s = .next t ∧ lcmapOf t d c = BitVec.ofNat 64 (0x80 + p) ∧ pcState (pcstat t d p) = 0 ∧
            (t.core (64 * d + c)).acc = [] ∧ (t.core (64 * d + c)).ustore = []) ∧
        (bestSpare s d = none →
          ∃ t, exec (.logicalCoreRebind d c) s = .next t ∧ bit (lcmapOf t d c) 7 = false ∧ (dieReg t d 0x4508 0).getLsbD c = false ∧
            t.ctxs = s.ctxs)))

/-- Monitors, triggers, traces and the companion (R278, R385, R386, R388, R389): a clear leaves the configuration alone; a level is
sampled and counted once for every 64 die cycles that are over; a trigger source reaches the lines that select it, whose assertion merges them, spreads when device-wide and acts; a trace opens with
its counts at 0 and ends; the companion reads and writes device-bias pages at their home, a release waiting for its writes. -/
def Obligations.MonitorsTriggersAndTracesAct : Prop :=
  ∀ (s : State) (d : Nat),
    (∀ u, ∃ t m, exec (.monitorClear d u) s = .next t ∧ fget {} (t.die d).mons u = m ∧ m.cfg = (fget {} (s.die d).mons u).cfg ∧
      m.flt = (fget {} (s.die d).mons u).flt ∧ m.count = 0 ∧ m.sum = 0 ∧ m.max = 0 ∧ m.min = BitVec.allOnes 64 ∧ m.bins = [] ∧ Say.seatsStand s t) ∧
    (∀ u, let m := fget {} (s.die d).mons u
      let src := (m.cfg.extractLsb' 50 6).toNat
      (m.cfg.getLsbD 63 = true → 10 ≤ src → src ≤ 12 → m.spans.toNat < (s.die d).cycle.toNat / 64 →
        ∃ t, exec (.monitorLevelSample d u) s = .next t ∧ (fget {} (t.die d).mons u).count = m.count + 1 ∧
          (fget {} (t.die d).mons u).spans = m.spans + 1 ∧ t.ctxs = s.ctxs ∧ t.mem = s.mem) ∧
      (m.cfg.getLsbD 63 = false ∨ src < 10 ∨ 12 < src ∨ (s.die d).cycle.toNat / 64 ≤ m.spans.toNat →
        exec (.monitorLevelSample d u) s = .next s)) ∧
    (∀ line : Nat, line < 64 →
      let sel := fget 0 (s.die 0).ctl (0x6000 + 8 * line)
      (∀ pin, pin < 4 → sel.getLsbD (24 + pin) = true → (0x6000 + 8 * line, sel) ∈ (s.die 0).ctl →
        ∃ t, exec (.triggerPinInput pin) s = .next t ∧ (fget 0 (t.die 0).lines line).getLsbD (24 + pin) = true ∧ t.ctxs = s.ctxs ∧ t.mem = s.mem) ∧
      (∀ pin, 4 ≤ pin → exec (.triggerPinInput pin) s = .next s) ∧
      ((fget 0 (s.die d).ctl (0x6000 + 8 * line)).getLsbD 23 = true →
        (0x6000 + 8 * line, fget 0 (s.die d).ctl (0x6000 + 8 * line)) ∈ (s.die d).ctl →
        ∃ t, exec (.trgfwWrite d) s = .next t ∧ (fget 0 (t.die d).lines line).getLsbD 23 = true ∧ t.ctxs = s.ctxs ∧ t.mem = s.mem) ∧
      (fget 0 (s.die d).lines line = 0 → exec (.triggerAssert d line) s = .next s) ∧
      (fget 0 (s.die d).lines line ≠ 0 →
        ∃ t, exec (.triggerAssert d line) s = .next t ∧ Say.seatsStand s t ∧
          ((dieReg s d (0x6000 + 8 * line) 0).getLsbD 63 = true → ∀ e, e < 32 → e ≠ d → line ∈ (t.die e).remote) ∧
          ((trgAct s d line).getLsbD 1 = true → .interrupt 2 (BitVec.ofNat 64 line) ∈ (t.die d).msgs) ∧
          ((trgAct s d line).getLsbD 4 = true → ∀ p ∈ (t.die d).mons, p.2.cfg.getLsbD 63 = false)) ∧
      (line ∈ (s.die d).remote →
        ∃ t, exec (.deviceTriggerPropagation d line) s = .next t ∧ Say.seatsStand s t ∧
          ((trgAct s d line).getLsbD 1 = true → .interrupt 2 (BitVec.ofNat 64 line) ∈ (t.die d).msgs)) ∧
      (line ∉ (s.die d).remote → exec (.deviceTriggerPropagation d line) s = .next s)) ∧
    (∀ i v, (traceOf s d i).open_ = false →
      ∃ t, exec (.traceOpen d i v) s = .next t ∧ (traceOf t d i).open_ = true ∧ (traceOf t d i).head = 0 ∧ (traceOf t d i).lost = 0 ∧
        (traceOf t d i).base = (traceOf s d i).base ∧ t.ctxs = s.ctxs ∧ t.mem = s.mem) ∧
    (∀ i, (traceOf s d i).open_ = true →
      ∃ t, exec (.traceEnd d i) s = .next t ∧ (traceOf t d i).open_ = false ∧ Say.seatsStand s t) ∧
    (linkReady s = true → companionWaits s = false →
      (∀ space va n bs, companionRead s space va n = some bs →
        exec (.companionAccess (.read space va n)) s = .next { s with out := s.out ++ [.companionOut bs] }) ∧
      (∀ space va op v e, ∃ t, exec (.companionAccess (.atomic space va op v e)) s = .next t ∧ Say.seatsStand s t ∧
        (∀ w ∈ t.writes, s.nextId ≤ w.id → w.id ∈ t.dev.compWrites)) ∧
      (∀ space va data, ∃ t, exec (.companionAccess (.write space va data)) s = .next t ∧ Say.seatsStand s t ∧
        (∀ w ∈ t.writes, s.nextId ≤ w.id → w.id ∈ t.dev.compWrites)) ∧
      exec (.companionAccess .release) s = .next { s with dev := { s.dev with compWait := s.dev.compWrites } } ∧
      exec (.companionAccess .acquire) s = .next s) ∧
    (linkReady s = false ∨ companionWaits s = true → ∀ op, exec (.companionAccess op) s = .next s)

/-- A write of the control window (R335, R341, R349, R353, R357, R361, R378, R382, R402): each register takes the bits its map lets it take
and ignores a refused value; a command acts as its event does; readiness, and offsets that name no register, ignore the write. -/
def Obligations.ControlWindowTakesWrites : Prop :=
  ∀ (s : State) (d : Nat) (v : W64),
    let put := fun (off : Nat) => exec (.controlRegisterWrite d off 8 v) s
    (∀ i, i < 64 → put (0x4100 + 8 * i) = .next (setDevReg s (0x4100 + 8 * i) (v &&& 0x0F8FFFFFFFFFF001))) ∧
    put 0x4430 = .next (if 6000 ≤ v.toNat ∧ v.toNat ≤ 6000000 then setDevReg s 0x4430 v else s) ∧
    put 0x4010 = .next (if v.toNat ≤ 4096 then setDieReg s d 0x4010 v else s) ∧
    put 0x4018 = .next (if 1 ≤ v.toNat ∧ v.toNat < 2 ^ 32 then setDieReg s d 0x4018 v else s) ∧
    put 0x4408 = .next (setDieReg s d 0x4408 (BitVec.ofNat 64 (v.toNat % 2 ^ 57 / 4096 * 4096))) ∧
    (∀ c b, c < 64 → b < 3 →
      let k := s.bankOf (64 * d + c) b
      ∃ s1 : State, (∀ j, j ≠ k → s1.ctx j = s.ctx j) ∧ (s1.ctx k).regs = (s.ctx k).regs ∧ (s1.ctx k).dbg.att = v.getLsbD 23 ∧
        (s1.ctx k).dbg.steph = v.getLsbD 22 ∧ (s1.ctx k).dbg.err = ((s.ctx k).dbg.err && !v.getLsbD 21) ∧ s1.mem = s.mem ∧
        (v.toNat / 2 ^ 28 % 16 = 1 → put (0x40 * (3 * c + b)) = exec (.stop (64 * d + c) b) s1) ∧
        (v.toNat / 2 ^ 28 % 16 = 2 → put (0x40 * (3 * c + b)) = exec (.step (64 * d + c) b) s1) ∧
        (v.toNat / 2 ^ 28 % 16 = 3 → put (0x40 * (3 * c + b)) = exec (.run (64 * d + c) b) s1) ∧
        (v.toNat / 2 ^ 28 % 16 = 4 → put (0x40 * (3 * c + b)) = exec (.halt (64 * d + c) b) s1) ∧
        (v.toNat / 2 ^ 28 % 16 = 5 → put (0x40 * (3 * c + b)) = exec (.release (64 * d + c) b) s1) ∧
        (v.toNat / 2 ^ 28 % 16 = 0 ∨ 6 ≤ v.toNat / 2 ^ 28 % 16 →
          ∃ t, put (0x40 * (3 * c + b)) = .next t ∧ (t.ctx k).dbg.err = true ∧ (t.ctx k).regs = (s.ctx k).regs ∧ t.mem = s.mem)) ∧
    (∀ p, p < 68 →
      let old := (pcstat s d p).toNat % 8
      let refused := old = 0 ∨ old = 4 ∨ v.toNat % 8 = 0 ∨ 5 ≤ v.toNat % 8 ∨ v.toNat / 16 % 4 = 3
      (refused → put (0x4800 + 8 * p) = .next s) ∧
      (¬ refused → ∃ t, put (0x4800 + 8 * p) = .next t ∧ (pcstat t d p).toNat % 8 = v.toNat % 8 ∧
        (pcstat t d p).toNat / 16 % 4 = v.toNat / 16 % 4 ∧ (pcstat t d p).toNat / 256 = 0 ∧ t.ctxs = s.ctxs)) ∧
    (∀ c, c < 64 → put (0x4600 + 8 * c) = exec (.lcmapWrite d c v) s) ∧
    (v.toNat / 2 ^ 60 = 0 → v.getLsbD 55 = true → ∃ t, put 0x4A40 = .next t ∧ (scanReg t d).getLsbD 55 = false ∧ scanSt t d = scanSt s d ∧
      t.ctxs = s.ctxs) ∧
    (v.toNat / 2 ^ 60 = 1 → v.getLsbD 55 = false → put 0x4A40 = exec (.scanStart d v) s) ∧
    (v.getLsbD 62 = false → put 0x4410 = exec (.biasFlip d v) s) ∧
    (v.getLsbD 62 = false → v.toNat / 2 ^ 60 % 4 = 3 → ∃ t, put 0x4400 = .next t ∧ (dieReg t d 0x4400 0).getLsbD (if (s.die d).shoot.busy then 62 else 63) = true) ∧
    (∀ off, off ∈ [0x4500, 0x4508, 0x4510, 0x4518, 0x4520, 0x4528] ∨ (0x7000 ≤ off ∧ off < 0x8000) → put off = .next s)

/-! Bundles and steps -/

/-- What lets the bundle that a seat fetched issue with one instruction in it: the seat runs, nothing delays it, the bundle has no
flags, pops or stamps, and decodes to words of which only `i` is no NOP (R9, R35, R44, R48). -/
def Say.issues (s : State) (k : Nat) (ws : List W32) (ins : List Instr) (is : List Instr) : Prop :=
  let c := s.ctx k
  let h := ws.headD 0
  c.runs = true ∧ reportDue c = none ∧ c.dbg.st ≠ 3 ∧ c.dbg.st ≠ 6 ∧ c.dbg.ask = false ∧ c.flow.start = 0 ∧ c.flow.bubble = 0 ∧
  c.flow.framing = 0 ∧ flipBlocks s c.run.space c.flow.npc0 = false ∧ frameFor s k c.flow.npc0 = .bundle ws ∧
  judgeBundle c.run.stmp ws = .ok ins ∧ actWords ins = is ∧ ins.findSome? (dsWord c) = none ∧ c.stamped = false ∧
  hdrF h = false ∧ hdrL h = false ∧ hdrPop h = 0 ∧ c.per.armed = false ∧ ¬(c.run.wst = .enter ∧ c.lvl = 0)

/-- No queue is over its eight entries and no stride meets a pending write (R19, R25, R27). -/
def Say.fits (s : State) (ins : List Instr) : Prop := overflowTrap s.my 0 ins = none ∧ strideTrap s.my = none

/-- A bundle has issued from state `s`, its words having left `t`: it ends and lands what is due, its context holds its image slot no longer
(R328), and the translation of its words is cached unless a loop held them (R33, R347). -/
def Say.ends (s : State) (k : Nat) (t : State) : State :=
  let s1 := leaveSlot (finishBundle t 0) k
  if (loopCopy (s.ctx k) (s.ctx k).flow.npc0).isNone then noteFetch s1 k (s.ctx k).flow.npc0 (t.ctx k).iss.len else s1

/-- A bundle runs the instruction its bytes decode to (R44, R45, R48): with `exec`'s own effect it ends and lands what is due; when the
instruction traps only that trap is taken, with the bundle squashed; when it holds, the seat holds for the cycle, or takes the overrun that
a hold is in a stamped context (R125, R315); a bundle of NOPs only ends. -/
def Say.BundlesRunTheirWords : Prop :=
  ∀ (s : State) (k : Nat) (ws : List W32) (ins : List Instr),
    (∀ i, Say.issues s k ws ins [i] →
      let s1 := issueState s k ws ins
      (∀ t, wordExec i s1 = .ok t → Say.fits t ins → exec i s1 = .next t ∧ seatGo s k = .ok (Say.ends s k t)) ∧
      (∀ e, wordExec i s1 = .error (.trap e) → Say.fits s1 ins → exec i s1 = .next (takeTrap s1 e) ∧ seatGo s k = .ok (seatTrap s k e)) ∧
      (∀ h, wordExec i s1 = .error (.hold h) → Say.fits s1 ins →
        (holdOrOverrun s1 h = none → exec i s1 = .next { s1 with held := some h } ∧ seatGo s k = .ok (seatHold s1 k h)) ∧
        (∀ e, holdOrOverrun s1 h = some e → e.code = 0x10 ∧ exec i s1 = .next (takeTrap s1 e) ∧ seatGo s k = .ok (seatTrap s k e)))) ∧
    (Say.issues s k ws ins [] → Say.fits (issueState s k ws ins) ins →
      seatGo s k = .ok (Say.ends s k (issueState s k ws ins)))

/-- BUNDLE_ISSUE (R10 to R12, R391, R399): a seat alone issues its bundle and the die's cycle count moves on; a core from which issue is withheld only
counts the cycle; of two ready bundles that share a class the one with priority issues, `starve1` counting what seat 1 waits, up to 7. An exchange that is
wanted starts at the first boundary before a cycle at which it may and takes exactly 16 cycles, after which the banks have changed places. -/
def Say.SeatsShareACycle : Prop :=
  ∀ (s : State) (core : Nat),
    let z := atCycle s core
    let k0 := z.bankOf core 0
    let k1 := z.bankOf core 1
    let ended := fun (t : State) (n : Nat) => tickCore (t.setCore core { t.core core with starve1 := n }) core
    let left := fun (t : State) => (t.core core).exch.map (·.left)
    ((s.core core).exch = none → (s.core core).want = none → z = { s with raised := none, held := none }) ∧
    (∀ seat, (s.core core).exch = none → (s.core core).want = some seat →
      (mayExchange { s with raised := none, held := none } core seat = true → (z.core core).exch = some { seat := seat, left := 16 } ∧
        exchanging z core seat = true) ∧
      (mayExchange { s with raised := none, held := none } core seat = false → z = { s with raised := none, held := none })) ∧
    (∀ t n, coreCycle z core = .ok t → left z = some (n + 1) → left t = some n ∧
      (0 < n → exec (.bundleIssue core) s = .next t) ∧
      (n = 0 → ∀ e, (z.core core).exch = some e → exec (.bundleIssue core) s = .next (swapBanks t core e.seat))) ∧
    (withheld z core = true → exec (.bundleIssue core) s = .next (endDue (ended z 0) core)) ∧
    (exchanging z core 0 = false → exchanging z core 1 = true → withheld z core = false →
      (∀ ws ins, Say.issues z k0 ws ins [] → Say.fits (issueState z k0 ws ins) ins →
        exec (.bundleIssue core) s = .next (endDue (ended (Say.ends z k0 (issueState z k0 ws ins)) 0) core)) ∧
      (∀ ws ins i t, Say.issues z k0 ws ins [i] → wordExec i (issueState z k0 ws ins) = .ok t → Say.fits t ins →
        exec (.bundleIssue core) s = .next (endDue (ended (Say.ends z k0 t) 0) core))) ∧
    (exchanging z core 0 = false → exchanging z core 1 = false → withheld z core = false →
      ∀ cs0 a0 m0 cs1 a1 m1, seatReady z k0 = .ready cs0 a0 m0 → seatReady z k1 = .ready cs1 a1 m1 → (∃ x ∈ cs0, x ∈ cs1) →
        let det := fun (k : Nat) => (z.ctx k).run.det && (z.ctx k).run.busy
        let one := det k0 = false ∧ (det k1 = true ∨ 4 ≤ (z.core core).starve1)
        (¬ one → exec (.bundleIssue core) s = .next (endDue (ended (seatIssue z k0 a0 m0) (min ((z.core core).starve1 + 1) 7)) core)) ∧
        (one → exec (.bundleIssue core) s = .next (endDue (ended (seatIssue z k1 a1 m1) 0) core))) ∧
    (∀ t : State, ∀ n, ((ended t n).die (dieOf core)).cycle = (t.die (dieOf core)).cycle + 1 ∧ (ended t n).ctxs = t.ctxs ∧ (ended t n).mem = t.mem)

/-- The end of a bundle (R17, R18, R29 to R34): the writes that are due land and the others come one cycle nearer; the next address is the
chain's, a loop's, or the one that follows; a branch redirects after its two delay bundles. -/
def Obligations.BundleEndsLandWritesAndMoveOn : Prop :=
  ∀ (s : State),
    let c := s.my
    c.iss.fx = [] →
    let t := (finishBundle s 0).ctx s.me
    (∀ p ∈ c.pend, 1 < p.delay → { p with delay := p.delay - 1 } ∈ t.pend) ∧
    (∀ p ∈ t.pend, ∃ q ∈ c.pend, 1 < q.delay ∧ p = { q with delay := q.delay - 1 }) ∧
    t.regs = ((c.pend.filter (fun p => decide (p.delay ≤ 1))) ++ loopPends c).foldl landOne c.regs ∧
    t.flow.npc0 = (if c.flow.npc1 = 1 then followAddr c else c.flow.npc1) ∧
    (c.iss.br = none → t.flow.npc1 = c.flow.npc2 ∧ t.flow.npc2 = 1) ∧
    (∀ b, c.iss.br = some b → t.flow.npc1 = 1 ∧ t.flow.npc2 = b.target.getD 1 ∧ t.flow.delay = 2) ∧
    (loopEnd c.flow.npc0 c.flow.loops.reverse = ([], c.flow.loops.reverse, none) →
      followAddr c = c.flow.npc0 + BitVec.ofNat 64 (4 * c.iss.len) ∧ t.flow.loops = c.flow.loops) ∧
    (∀ l (outer : List LoopLvl), c.flow.loops = outer ++ [l] → l.last = c.flow.npc0 → l.finish = false → 1 < l.rem →
      followAddr c = l.start ∧ t.flow.loops = outer ++ [{ l with rem := l.rem - 1, iter := l.iter + 1 }]) ∧
    t.iss = {} ∧ t.lvl = c.lvl

/-- A step of the device is one step of the opcode table (log entry 4): the head of the agenda; else the core's cycle, the microword or the unit's event whose
turn it is. A core's cycle and a microword run what the fetched bits decode to; then the turn passes on. -/
def Obligations.StepRunsTheDecodedInstruction : Prop :=
  ∀ (s : State),
    (∀ i rest, s.agenda = i :: rest → step s = exec i { s with agenda := rest }) ∧
    (s.agenda = [] →
      (∀ core, s.turn = .issue core → ∀ t, exec (.bundleIssue core) s = .next t → step s = .next (turned t)) ∧
      (∀ core ws ins i t, s.turn = .issue core →
        let z := atCycle s core
        let k := z.bankOf core 0
        exchanging z core 0 = false → exchanging z core 1 = true → withheld z core = false →
        Say.issues z k ws ins [i] → wordExec i (issueState z k ws ins) = .ok t → Say.fits t ins →
        let u := Say.ends z k t
        exec i (issueState z k ws ins) = .next t ∧
        step s = .next (turned (endDue (tickCore (u.setCore core { u.core core with starve1 := 0 }) core) core))) ∧
      (∀ core run i, s.turn = .micro core → (s.core core).run = some run → run.stop = none → run.returned = false → run.loading = false →
        run.steps = [] → run.drains = [] → decodeMicro (storeAt (s.core core) run.idx) = some i →
        ∀ t, exec i s = .next t → step s = .next (turned t)) ∧
      (∀ core a, s.turn = .units core → unitEvent s = some a → ∀ t, runUnit a s = .next t → step s = .next (turned t)) ∧
      (∀ core, s.turn = .units core → unitEvent s = none →
        ∀ t, exec (.bundleIssue (coreAfter s core)) s = .next t → step s = .next (turned t))) ∧
    (∀ core, (s.turn = .issue core → turnAfter s = .micro core) ∧ (s.turn = .micro core → turnAfter s = .units core) ∧
      (s.turn = .units core → turnAfter s = .issue (coreAfter s core))) ∧
    (turned s).turn = turnAfter s ∧ (turned s).ctxs = s.ctxs ∧ (turned s).mem = s.mem

/-! The words -/

/-- Decoding gives back the instruction whose word was encoded, with every operand at every value the encoding admits and with either stop
bit, and encoding gives back the word that was decoded (R47 to R65, R221 to R223). -/
def Obligations.EncodeAndDecodeAgree : Prop :=
  (∀ (i : Instr) (w : W32) (stop : Bool), i.wf → encodeWord i = some w → judgeWord (withStop stop w) = .ok i) ∧
  (∀ (i : Instr) (w : W64), encodeMicro i = some w → decodeMicro w = some i) ∧
  (∀ (i : Instr) (w : W32), judgeWord w = .ok i → i.wf ∧ encodeWord i = some (w &&& 0x7FFFFFFF))

/-- Words that the spec writes out decode to the instructions it writes beside them (R29, R33, R42, R105, R110, R118, R129, R148, R151, R155, R164, R169,
R184, R185, R187, R189, R210, R215, R216). -/
def Obligations.SpecWordsDecode : Prop :=
  judgeWord 0x14010083 = .ok (.get 4 0 2 3) ∧ judgeWord 0x13B24DEF = .ok (.lis 9 0xDEF) ∧ judgeWord 0x15500080 = .ok (.call 0 128) ∧
  judgeWord 0x1582380C = .ok (.loop 1 7 12) ∧ judgeWord 0x16007FFF = .ok (.wait 0 31 31 31) ∧ judgeWord 0x16214003 = .ok (.mfs 5 3) ∧
  judgeWord 0x16100000 = .ok .frame ∧ judgeWord 0x274303C4 = .ok (.vget .v0 3 0 7 17) ∧
  judgeWord 0x29125345 = .ok (.vcvt .v0 9 5 6 8 2 1) ∧ judgeWord 0x40400028 = .ok (.mcall 0 0 1 0 2 0) ∧
  judgeWord 0x40880004 = .ok (.mset 1 4) ∧ judgeWord 0x4110E000 = .ok (.mget 2 7) ∧ judgeWord 0x64029C10 = .ok (.aadd .c1 1 2 3 2 16) ∧
  judgeWord 0x56200420 = .ok (.fencex .c0 1 0 2) ∧ judgeWord 0x56400000 = .ok (.pbar .c0) ∧ judgeWord 0x570600C0 = .ok (.tloadSlot .c0 3 0 12 0) ∧
  judgeWord 0x670A1020 = .ok (.tloadRing .c1 5 0 2 0) ∧ judgeWord 0x5C460090 = .ok (.cget .c0 3 0 9 0) ∧
  judgeWord 0xF0ECDD48 = .ok (.xpack 11 3 7 5 2 0) ∧ judgeWord 0x76412900 = .ok (.barArr 37 1) ∧ judgeWord 0x78294800 = .ok (.spawn 5 2 9)

/-! The whole machine -/

/-- Every step keeps memory and the persist domain in their canonical form, from every state that has it. -/
def Obligations.StepKeepsCanonicalMemory : Prop :=
  ∀ (s t : State), canonicalMemory s → step s = .next t → canonicalMemory t

/-- What reset leaves (R12, R120, R357, R378, R382, R385): canonical memory, LINKTMO at 120,000, the logical cores bound to the first 64 physical cores, which
serve, the last 4 spare, no scan, monitors with an empty sample set, `starve1` 0 and program level. That a register without a reset value holds 0 is
the model's choice (log entry 1). -/
def Obligations.ResetHoldsTheSpecsValues : Prop :=
  canonicalMemory State.reset ∧ linkTmo State.reset = 120000 ∧
  (∀ d c, lcmapOf State.reset d c = BitVec.ofNat 64 (0x80 + c)) ∧
  (∀ d p, pcstat State.reset d p = if p < 64 then 0 else 1) ∧
  (∀ d, scanSt State.reset d = 0 ∧ (State.reset.die d).scan = none) ∧
  (∀ d u, fget {} (State.reset.die d).mons u = { cfg := 0, flt := 0, count := 0, sum := 0, min := BitVec.allOnes 64, max := 0, bins := [] }) ∧
  (∀ core, (State.reset.core core).starve1 = 0) ∧ (∀ k, (State.reset.ctx k).lvl = 0 ∧ (State.reset.ctx k).wen = false) ∧
  (∀ k i, fget 0 (State.reset.ctx k).regs.s i = 0)

/-! Statements of several parts -/

/-- Scalar arithmetic, logic, compare and shift words complete with their result. -/
def Obligations.ScalarWordsComplete : Prop :=
  Say.ScalarWordsWriteTheirResult ∧ Say.ScalarImmediateWordsWriteTheirResult

/-- Scalar operands read registers and heads; get, spill and fill move values. -/
def Obligations.ScalarOperandsAndMoves : Prop :=
  Say.ScalarOperandsReadRegistersAndHeads ∧ Say.ScalarMovesCompleteWithTheirValue

/-- Branches, calls and jumps fix their target and link; S words that redirect trap in a delay position. -/
def Obligations.BranchesAndCallsRedirect : Prop :=
  Say.BranchesNameTheirTarget ∧ Say.CallsAndJumpsLinkAndRedirect ∧ Say.ControlWordsTrapWhereTheyMayNotStand

/-- Hardware loops open, repeat and end. -/
def Obligations.HardwareLoopsRun : Prop :=
  Say.LoopsOpenSkipAndFinish ∧ Say.LoopWordsActAtTheEndOfTheirBundle ∧ Say.LoopEndsGoBackUntilTheCountIsUsed

/-- wait, frame, idle and the NOPs. -/
def Obligations.WaitsAndIdleWords : Prop :=
  Say.WaitsCompleteWhenTheirConditionHolds ∧ Say.IdleWordsChangeNothing

/-- tret, exit and fwcall wait, act at the end of the bundle, and restore. -/
def Obligations.ReturnsExitsAndTheirRestores : Prop :=
  Say.ReturnsAndExitsWaitForTheirBundle ∧ Say.ReturnRestoresStatusAndChain ∧ Say.ExitEndsTheStepAndFwcallEntersFirmware

/-- Vector words, two-sums and compares complete with every element. -/
def Obligations.VectorWordsComplete : Prop :=
  Say.VectorWordsWriteEveryElement ∧ Say.TwoSumWritesSumAndError ∧ Say.ComparesWriteTheirMask

/-- vcvt, vget, vpush, vspill, vfill and the deferral queue. -/
def Obligations.ConversionsMovesAndPushes : Prop :=
  Say.ConversionsConvertEveryElement ∧ Say.VectorMovesBringValues ∧ Say.VectorValuesArePushedAndParked ∧ Say.DeferralsGoInAndComeOutInOrder

/-- How a unit of an access is judged, and the control window. -/
def Obligations.AccessesAreJudged : Prop :=
  Say.AccessUnitsAreJudged ∧ Say.ManagementAccessesReachTheControlWindow

/-- fence and fencex order what they name, and empty the stash of its dirty lines. -/
def Obligations.FencesOrderTheirSides : Prop :=
  Say.FencesOrderLaterAccesses ∧ Say.FencexOrdersPaths ∧ Say.FlushesEmptyTheStash

/-- Tile words are checked and start their commands. -/
def Obligations.TileWordsAreCheckedAndStart : Prop :=
  Say.TileWordsMoveTheirTiles ∧ Say.TileOperandsAreCheckedInOrder

/-- Exchange words copy, rotate and permute. -/
def Obligations.ExchangeWordsMoveAndPermute : Prop :=
  Say.ExchangeMovesCopyRegisters ∧ Say.ExchangePermutesElements

/-- spawn starts a context and yield offers the seat. -/
def Obligations.SpawnAndYieldHandOver : Prop :=
  Say.SpawnStartsAContext ∧ Say.YieldAsksForAnExchange

/-- Parameter words, mcall and mabort. -/
def Obligations.MatrixWordsQueueCalls : Prop :=
  Say.ParameterWordsWriteShadowRegisters ∧ Say.MatrixCallsQueueAndAbort

/-- Microwords set the state of the call and loop. -/
def Obligations.MicrowordsRunTheCall : Prop :=
  Say.MicrowordsSetTheCallState ∧ Say.MicroloopsRepeatTheirCount

/-- Matrix loads, streams, drains, clears and pops. -/
def Obligations.MatrixWorkStartsAndClears : Prop :=
  Say.MatrixWorkStarts ∧ Say.BlocksClearAndTilesArePopped

/-- Writes pass their stages, complete and persist; dirty lines go to the die of their consumer. -/
def Obligations.WritesPassCompleteAndPersist : Prop :=
  Say.WritesPassTheirStages ∧ Say.WritesCompleteAndPersist ∧ Say.ConsumersGetTheLines

/-- Calls start and end; steps commit and drains write. -/
def Obligations.MatrixCallsRunToTheirEnd : Prop :=
  Say.CallsStartAndEnd ∧ Say.StepsCommitAndDrainsWrite

/-- Tile commands and collectives move their data and complete, page by page, and read what their agent sees. -/
def Obligations.CommandsMoveAndComplete : Prop :=
  Say.ChunksAreWholePages ∧ Say.EnginesReadWhatTheirAgentSees ∧ Say.TileCommandsMoveAndComplete ∧
  Say.CollectivesReadTheirDescriptorAndComplete

/-- Window commands send and settle; export entries judge requests. -/
def Obligations.WindowTrafficIsServed : Prop :=
  Say.WindowCommandsSendAndSettle ∧ Say.ExportEntriesJudgeRequests

/-- Barriers count arrivals and answer the seats. -/
def Obligations.BarriersCountAndAnswer : Prop :=
  Say.BarrierHomesCountArrivals ∧ Say.BarrierAnswersReachTheSeat

/-- Launch records are judged, queued, run and cancelled. -/
def Obligations.LaunchesAreQueuedAndRun : Prop :=
  Say.RecordsAreJudgedAndQueued ∧ Say.LaunchesStartAndAreCancelled

/-- Walkers claim, step, steal and end; launches end. -/
def Obligations.WalkersStepAndLaunchesEnd : Prop :=
  Say.WalkersClaimAndEnterSteps ∧ Say.ContextsAndLaunchesEnd ∧ Say.StealsSplitWhatIsLeft

/-- Contexts are exchanged, saved and resumed. -/
def Obligations.ContextsAreExchangedAndKept : Prop :=
  Say.ExchangesSwapTheBanks ∧ Say.ContextsAreSavedAndResumed

/-- Context images are laid out in the pool, and read back from there. -/
def Obligations.ContextImagesAreLaidOut : Prop :=
  Say.ImagesFollowTheLayout ∧ Say.ImagesStandInThePool ∧ Say.ImagesAreReadBack

/-- Domains start clean; reports arrive at boundaries. -/
def Obligations.DomainsStartCleanAndReportsArrive : Prop :=
  Say.DomainsAndOwnersStartClean ∧ Say.ReportsAreDeliveredAtBoundaries

/-- Launch stops and debug commands move the seats; a dump shows what stopped. -/
def Obligations.SeatsStopAndAreDebugged : Prop :=
  Say.LaunchStopsGatherAtACut ∧ Say.DebugCommandsMoveTheSeat ∧ Say.DumpsShowWhatStopped

/-- Shootdowns, flips, errors, readiness and power. -/
def Obligations.TranslationsErrorsAndPower : Prop :=
  Say.ShootdownsAndFlipsDropTranslations ∧ Say.ErrorsAndReadinessAreRecorded ∧ Say.PowerAndLinkEventsKeepWhatTheyMust

/-- Scans test and rebind cores; retirement and images take effect at idle points. -/
def Obligations.CoresAreTestedAndRetired : Prop :=
  Say.ScansTestAndRebindCores ∧ Say.RetirementAndImagesTakeEffectAtIdlePoints

/-- Bundles run what their bytes decode to, and the seats share a cycle. -/
def Obligations.BundlesIssueAndShareTheCycle : Prop :=
  Say.BundlesRunTheirWords ∧ Say.SeatsShareACycle
end

