-- ==== Sys2Proof/Laws/Files.lean ====
section
/-! SUPPORT. The laws of sparse files and of memory: what a read gives after a write, and that every memory operation keeps
the canonical form. -/
namespace Sys2Proof.Machine

/-! Sparse files -/

@[simp] theorem fget_nil {α : Type} (d : α) (k : Nat) : fget d ([] : FMap α) k = d := rfl

/-- The key just written reads the value written, and every other key reads as before. -/
theorem fget_fset {α : Type} (d : α) (m : FMap α) (k j : Nat) (v : α) : fget d (fset m k v) j = if j = k then v else fget d m j := by
  fun_induction fset m k v <;> grind [fget]
@[simp] theorem fget_fset_self {α : Type} (d : α) (m : FMap α) (k : Nat) (v : α) : fget d (fset m k v) k = v :=
  (fget_fset d m k k v).trans (if_pos rfl)
theorem fget_fset_of_ne {α : Type} (d : α) (m : FMap α) {k j : Nat} (v : α) (h : j ≠ k) : fget d (fset m k v) j = fget d m j :=
  (fget_fset d m k j v).trans (if_neg h)

/-! Memory -/

/-- A canonical list above a bound is canonical above every lower one. -/
theorem memWfAbove_mono {lo hi : Nat} (h : lo ≤ hi) : ∀ {m : List Host.Cell}, memWfAbove hi m = true → memWfAbove lo m = true
  | [], _ => rfl
  | (k, v) :: r, hm => by
    simp only [memWfAbove, Bool.and_eq_true, decide_eq_true_eq] at hm ⊢
    exact ⟨⟨by omega, hm.1.2⟩, hm.2⟩

/-- Storing one byte keeps the form above a bound. -/
theorem memWfAbove_memSet {lo a : Nat} (b : Byte) (h : lo ≤ a) :
    ∀ {m : List Host.Cell}, memWfAbove lo m = true → memWfAbove lo (memSet m a b) = true
  | [], _ => by
    simp only [memSet]
    split <;> simp_all [memWfAbove]
  | (k, v) :: r, hm => by
    simp only [memWfAbove, Bool.and_eq_true, decide_eq_true_eq] at hm
    simp only [memSet]
    split
    · split
      · simp_all [memWfAbove]
      · next h1 h2 =>
        simp only [memWfAbove, Bool.and_eq_true, decide_eq_true_eq]
        exact ⟨⟨h, h2⟩, ⟨by omega, hm.1.2⟩, hm.2⟩
    · split
      · next h1 h2 =>
        subst h2
        split
        · exact memWfAbove_mono (by omega) hm.2
        · next h3 =>
          simp only [memWfAbove, Bool.and_eq_true, decide_eq_true_eq]
          exact ⟨⟨h, h3⟩, hm.2⟩
      · next h1 h2 =>
        simp only [memWfAbove, Bool.and_eq_true, decide_eq_true_eq]
        exact ⟨hm.1, memWfAbove_memSet b (by omega) hm.2⟩

/-- Storing one byte keeps the canonical form. -/
theorem wf_memSet {m : List Host.Cell} (a : Nat) (b : Byte) (h : Memory.wf m = true) : Memory.wf (memSet m a b) = true :=
  memWfAbove_memSet b (Nat.zero_le a) h

/-- Storing consecutive bytes keeps the canonical form. -/
theorem wf_memWrite : ∀ (bs : List Byte) {m : List Host.Cell} (a : Nat), Memory.wf m = true → Memory.wf (memWrite m a bs) = true
  | [], _, _, h => h
  | b :: bs, _, a, h => wf_memWrite bs (a + 1) (wf_memSet a b h)

/-- Storing listed bytes keeps the canonical form. -/
theorem wf_memWriteCells : ∀ (cs : List Host.Cell) {m : List Host.Cell}, Memory.wf m = true → Memory.wf (memWriteCells m cs) = true
  | [], _, h => h
  | (a, b) :: cs, _, h => wf_memWriteCells cs (wf_memSet a b h)

/-- Forgetting cells keeps the form above a bound. -/
theorem memWfAbove_filter (p : Host.Cell → Bool) :
    ∀ {lo : Nat} {m : List Host.Cell}, memWfAbove lo m = true → memWfAbove lo (m.filter p) = true
  | _, [], _ => rfl
  | lo, (k, v) :: r, hm => by
    simp only [memWfAbove, Bool.and_eq_true, decide_eq_true_eq] at hm
    simp only [List.filter]
    split
    · simp only [memWfAbove, Bool.and_eq_true, decide_eq_true_eq]
      exact ⟨hm.1, memWfAbove_filter p hm.2⟩
    · exact memWfAbove_mono (by omega) (memWfAbove_filter p hm.2)

/-- Forgetting cells keeps the canonical form. -/
theorem wf_filter (p : Host.Cell → Bool) {m : List Host.Cell} (h : Memory.wf m = true) : Memory.wf (m.filter p) = true :=
  memWfAbove_filter p h

/-- Storing several writes one after another keeps the canonical form. -/
theorem wf_foldl {α : Type} (f : List Host.Cell → α → List Host.Cell)
    (hf : ∀ m x, Memory.wf m = true → Memory.wf (f m x) = true) :
    ∀ (xs : List α) {m : List Host.Cell}, Memory.wf m = true → Memory.wf (xs.foldl f m) = true
  | [], _, h => h
  | x :: xs, _, h => wf_foldl f hf xs (hf _ x h)

/-- An address below every listed one reads as unwritten. -/
theorem memGet_below {lo a : Nat} (h : a < lo) : ∀ {m : List Host.Cell}, memWfAbove lo m = true → memGet m a = memReset
  | [], _ => rfl
  | (k, v) :: r, hm => by
    simp only [memWfAbove, Bool.and_eq_true, decide_eq_true_eq] at hm
    have h1 : a ≠ k := by omega
    have h2 : a < k := by omega
    simp [memGet, h1, h2]

/-- A read after a store of one byte, in memory whose cells stand above a bound. -/
theorem memGet_memSet_above {lo : Nat} (a x : Nat) (b : Byte) :
    ∀ {m : List Host.Cell}, memWfAbove lo m = true → memGet (memSet m a b) x = if x = a then b else memGet m x
  | [], _ => by
    simp only [memSet]
    split
    · next h => subst h; simp [memGet]
    · simp [memGet]
  | (k, v) :: r, hm => by
    simp only [memWfAbove, Bool.and_eq_true, decide_eq_true_eq] at hm
    obtain ⟨⟨_, _⟩, hr⟩ := hm
    have ih := memGet_memSet_above a x b hr
    simp only [memSet]
    split
    · next h1 =>
      split
      · next h2 =>
        subst h2
        by_cases hx : x = a
        · subst hx; have : x ≠ k := by omega
          simp [memGet, this, h1]
        · simp [hx]
      · by_cases hx : x = a
        · simp [memGet, hx]
        · by_cases hl : x < a
          · have h3 : x ≠ k := by omega
            have h4 : x < k := by omega
            simp [memGet, hx, hl, h3, h4]
          · simp [memGet, hx, hl]
    · split
      · next h1 h2 =>
        subst h2
        split
        · next h3 =>
          subst h3
          by_cases hx : x = a
          · subst hx; simp [memGet_below (Nat.lt_succ_self x) hr]
          · by_cases hl : x < a
            · simp [memGet, hx, hl, memGet_below (show x < a + 1 by omega) hr]
            · simp [memGet, hx, hl]
        · by_cases hx : x = a
          · simp [memGet, hx]
          · simp [memGet, hx]
      · next h1 h2 =>
        simp only [memGet, ih]
        by_cases hx : x = a
        · subst hx; simp [h1, h2]
        · simp [hx]

/-- A read after a store of one byte. -/
theorem memGet_memSet {m : List Host.Cell} (a x : Nat) (b : Byte) (h : Memory.wf m = true) :
    memGet (memSet m a b) x = if x = a then b else memGet m x :=
  memGet_memSet_above a x b h

/-- A store leaves every byte outside it as it was. -/
theorem memGet_memWrite_out : ∀ (bs : List Byte) {m : List Host.Cell} (a x : Nat), Memory.wf m = true →
    (x < a ∨ a + bs.length ≤ x) → memGet (memWrite m a bs) x = memGet m x
  | [], _, _, _, _, _ => rfl
  | b :: bs, m, a, x, h, hx => by
    simp only [List.length_cons] at hx
    have h1 : memGet (memSet m a b) x = memGet m x := by
      rw [memGet_memSet a x b h, if_neg (by omega)]
    rw [memWrite, memGet_memWrite_out bs (a + 1) x (wf_memSet a b h) (by omega), h1]

/-- A store puts its bytes at its addresses. -/
theorem memRead_memWrite : ∀ (bs : List Byte) {m : List Host.Cell} (a : Nat), Memory.wf m = true →
    memRead (memWrite m a bs) a bs.length = bs
  | [], _, _, _ => rfl
  | b :: bs, m, a, h => by
    have hw := wf_memSet a b h
    simp only [memWrite, List.length_cons, memRead]
    rw [memRead_memWrite bs (a + 1) hw, memGet_memWrite_out bs (a + 1) a hw (by omega), memGet_memSet a a b h, if_pos rfl]

end Sys2Proof.Machine
end

