-- ==== Sys2Proof/Laws/Images.lean ====
section
/-! SUPPORT. How long the parts of a context image are (R330, R331), where a part of a list lies in the whole, and what a
writing of consecutive runs is. -/
namespace Sys2Proof.Machine

@[simp] theorem bytesOf_len (n x : Nat) : (bytesOf n x).length = n := by
  induction n generalizing x with
  | zero => rfl
  | succ n ih => simp [bytesOf, ih]

@[simp] theorem fixedBytes_len (bs : List Byte) : (fixedBytes bs).length = bs.length := by simp [fixedBytes]
@[simp] theorem openBytes_len (n : Nat) : (openBytes n).length = n := by simp [openBytes]
@[simp] theorem fitBytes_len (n : Nat) (bs : List Byte) : (fitBytes n bs).length = n := by simp [fitBytes]; omega
@[simp] theorem zeroBytes_len (n : Nat) : (zeroBytes n).length = n := by simp [zeroBytes]

/-- Blocks of one length, one after another. -/
theorem blocks_len {α β : Type} (xs : List α) (f : α → List β) (w : Nat) (h : ∀ x, (f x).length = w) :
    (xs.flatMap f).length = w * xs.length := by
  induction xs with
  | nil => rfl
  | cons x xs ih => simp [List.flatMap_cons, ih, h, Nat.mul_succ, Nat.add_comm]

/-- Block `i` of blocks of one length: what precedes it is cut off, and it is as long as any. -/
theorem block_at {α β : Type} (xs : List α) (f : α → List β) (w i : Nat) (x : α) (h : ∀ x, (f x).length = w) (hx : xs[i]? = some x) :
    ((xs.flatMap f).drop (w * i)).take w = f x := by
  obtain ⟨hi, rfl⟩ := List.getElem?_eq_some_iff.1 hx
  have cut : xs.flatMap f = (xs.take i).flatMap f ++ (f xs[i] ++ (xs.drop (i + 1)).flatMap f) := by
    rw [← List.flatMap_cons, ← List.flatMap_append, List.getElem_cons_drop, List.take_append_drop]
  have before : ((xs.take i).flatMap f).length = w * i := by
    rw [blocks_len _ _ w h, List.length_take, Nat.min_eq_left (Nat.le_of_lt hi)]
  rw [cut, ← before, List.drop_left, ← h xs[i], List.take_left]

@[simp] theorem fileBytes_len {n : Nat} (m : FMap (BitVec n)) (first cnt width : Nat) :
    (fileBytes m first cnt width).length = width * cnt := by
  simp [fileBytes, blocks_len _ _ width]
@[simp] theorem maskBytes_len (m : FMap W32) : (maskBytes m).length = 16 := by simp [maskBytes]
@[simp] theorem strideBytes_len (m : FMap W32) : (strideBytes m).length = 384 := by
  simp [strideBytes, blocks_len _ _ 4]
@[simp] theorem regsBytes_len (r : Regs) : (regsBytes r).length = 10624 := by simp [regsBytes]
@[simp] theorem sysBytes_len (c : Ctx) : (sysBytes c).length = 384 := by
  simp [sysBytes, sysWords]
@[simp] theorem loadData_len (e : Option QEntry) : (loadData e).length = 128 := by
  unfold loadData; split <;> simp
@[simp] theorem loadMeta_len (e : Option QEntry) : (loadMeta e).length = 8 := by
  unfold loadMeta; dsimp only; split <;> simp
@[simp] theorem loadBytes_len (c : Ctx) : (loadBytes c).length = 9216 := by
  simp [loadBytes, blocks_len _ _ 128, blocks_len _ _ 8]
@[simp] theorem storeBytes_len (c : Ctx) : (storeBytes c).length = 4096 := by
  rw [storeBytes, blocks_len _ _ 128 (by intro i; split <;> simp)]; rfl
@[simp] theorem spillBytes_len (c : Ctx) : (spillBytes c).length = 33792 := by
  rw [spillBytes, List.length_append, blocks_len _ _ 4 (by simp), blocks_len _ _ 128 (by intro i; split <;> (try split) <;> simp)]
  simp
@[simp] theorem tileBytes_len (c : Ctx) : (tileBytes c).length = 2048 := by simp [tileBytes]
@[simp] theorem storeCountBytes_len (c : Ctx) : (storeCountBytes c).length = 256 := fitBytes_len ..
@[simp] theorem flowBytes_len (c : Ctx) : (flowBytes c).length = 256 := fitBytes_len ..
@[simp] theorem deferBytes_len (c : Ctx) : (deferBytes c).length = 1024 := fitBytes_len ..
@[simp] theorem matrixBytes_len (c : Ctx) : (matrixBytes c).length = 1024 := by simp [matrixBytes]
@[simp] theorem pendBytes_len (lvl : Nat) (p : Pend) : (pendBytes lvl p).length = 144 := by simp [pendBytes]
@[simp] theorem cmdEntry_len (pc : W64) (seq word : W32) (path state lvl : Nat) (chunks : Nat × Nat) (ops : List Byte) :
    (cmdEntry pc seq word path state lvl chunks ops).length = 1024 := by
  simp [cmdEntry]
@[simp] theorem cmdBytes_len (s : State) (k : Nat) (x : Cmd) : (cmdBytes s k x).length = 1024 := by simp [cmdBytes]
@[simp] theorem storeEntry_len (s : State) (k : Nat) (e : W64 × W32 × W32 × Nat) : (storeEntry s k e).length = 1024 := by
  simp [storeEntry]
@[simp] theorem reportBytes_len (r : Report) (n : Nat) : (reportBytes r n).length = 64 := by simp [reportBytes]
theorem sectionHeads_len (off : Nat) (secs : List (Nat × List ImgByte)) : (sectionHeads off secs).length = 8 * secs.length := by
  induction secs generalizing off with
  | nil => rfl
  | cons p ps ih => simp [sectionHeads, ih, Nat.mul_succ]; omega
theorem imageSections_count (s : State) (k : Nat) : (imageSections s k).length = 5 := by
  unfold imageSections; dsimp only; split <;> rfl
theorem headerBytes_len (s : State) (c : Ctx) (k : Nat) : (headerBytes c (imageSections s k)).length = 256 := by
  simp [headerBytes, sectionHeads_len, imageSections_count]

/-- The fixed part of an image is 64 KiB long, the variable part follows (R330). -/
theorem imageLayout_len (s : State) (k : Nat) :
    (imageLayout s k).length = 0x10000 + ((imageSections s k).map (fun p => p.2.length)).sum := by
  simp [imageLayout, headerBytes_len, List.length_flatMap]
  omega

@[simp] theorem settleBytes_len (t off : Nat) (bs : List ImgByte) : (settleBytes t off bs).length = bs.length := by
  induction bs generalizing off with
  | nil => rfl
  | cons b bs ih => simp [settleBytes, ih]

/-- A byte that the manual fixes stands as it is. -/
theorem settleBytes_at (t off i : Nat) (bs : List ImgByte) (b : ImgByte) (h : bs[i]? = some b) :
    (settleBytes t off bs)[i]? = some (settleByte t (off + i) b) := by
  induction bs generalizing off i with
  | nil => simp at h
  | cons x xs ih =>
    cases i with
    | zero => have : x = b := by simpa using h
              subst this; rfl
    | succ i => simpa [settleBytes, Nat.add_assoc, Nat.add_comm 1] using ih (off + 1) i (by simpa using h)

/-- A part of a list that lies in its second half, and one that lies in its first. -/
theorem part_right {α : Type} (xs ys : List α) (o n : Nat) (h : xs.length ≤ o) :
    ((xs ++ ys).drop o).take n = (ys.drop (o - xs.length)).take n := by
  rw [List.drop_append, List.drop_of_length_le h, List.nil_append]
theorem part_left {α : Type} (xs ys : List α) (o n : Nat) (h : o + n ≤ xs.length) :
    ((xs ++ ys).drop o).take n = (xs.drop o).take n := by
  rw [List.drop_append_of_le_length (by omega), List.take_append_of_le_length (by simp; omega)]

/-- Two runs of bytes, one right after the other, are one. -/
theorem memWrite_append (xs ys : List Byte) (m : List Host.Cell) (a : Nat) :
    memWrite (memWrite m a xs) (a + xs.length) ys = memWrite m a (xs ++ ys) := by
  induction xs generalizing m a with
  | nil => rfl
  | cons x xs ih => simpa [memWrite, Nat.add_assoc, Nat.add_comm 1] using ih (memSet m a x) (a + 1)

end Sys2Proof.Machine
end

