-- ==== Sys2Proof/Laws/State.lean ====
section
/-! SUPPORT. What each update of the state leaves of every field. -/
namespace Sys2Proof.Machine

variable (s : State)

section setCtx
variable (k : Nat) (c : Ctx)
@[simp] theorem setCtx_ctxs : (s.setCtx k c).ctxs = fset s.ctxs k c := rfl
@[simp] theorem setCtx_banks : (s.setCtx k c).banks = s.banks := rfl
@[simp] theorem setCtx_cores : (s.setCtx k c).cores = s.cores := rfl
@[simp] theorem setCtx_dies : (s.setCtx k c).dies = s.dies := rfl
@[simp] theorem setCtx_dev : (s.setCtx k c).dev = s.dev := rfl
@[simp] theorem setCtx_mem : (s.setCtx k c).mem = s.mem := rfl
@[simp] theorem setCtx_nv : (s.setCtx k c).nv = s.nv := rfl
@[simp] theorem setCtx_poison : (s.setCtx k c).poison = s.poison := rfl
@[simp] theorem setCtx_writes : (s.setCtx k c).writes = s.writes := rfl
@[simp] theorem setCtx_loads : (s.setCtx k c).loads = s.loads := rfl
@[simp] theorem setCtx_bmsgs : (s.setCtx k c).bmsgs = s.bmsgs := rfl
@[simp] theorem setCtx_out : (s.setCtx k c).out = s.out := rfl
@[simp] theorem setCtx_ticks : (s.setCtx k c).ticks = s.ticks := rfl
@[simp] theorem setCtx_nextId : (s.setCtx k c).nextId = s.nextId := rfl
@[simp] theorem setCtx_agenda : (s.setCtx k c).agenda = s.agenda := rfl
@[simp] theorem setCtx_turn : (s.setCtx k c).turn = s.turn := rfl
@[simp] theorem setCtx_past : (s.setCtx k c).past = s.past := rfl
@[simp] theorem setCtx_phase : (s.setCtx k c).phase = s.phase := rfl
@[simp] theorem setCtx_raised : (s.setCtx k c).raised = s.raised := rfl
@[simp] theorem setCtx_held : (s.setCtx k c).held = s.held := rfl
@[simp] theorem setCtx_core (j : Nat) : (s.setCtx k c).core j = s.core j := rfl
@[simp] theorem setCtx_die (j : Nat) : (s.setCtx k c).die j = s.die j := rfl
@[simp] theorem setCtx_launch (j : Nat) : (s.setCtx k c).launch j = s.launch j := rfl
@[simp] theorem setCtx_bankOf (i j : Nat) : (s.setCtx k c).bankOf i j = s.bankOf i j := rfl
end setCtx

section setMy
variable (c : Ctx)
@[simp] theorem setMy_ctxs : (s.setMy c).ctxs = fset s.ctxs s.me c := rfl
@[simp] theorem setMy_banks : (s.setMy c).banks = s.banks := rfl
@[simp] theorem setMy_cores : (s.setMy c).cores = s.cores := rfl
@[simp] theorem setMy_dies : (s.setMy c).dies = s.dies := rfl
@[simp] theorem setMy_dev : (s.setMy c).dev = s.dev := rfl
@[simp] theorem setMy_mem : (s.setMy c).mem = s.mem := rfl
@[simp] theorem setMy_nv : (s.setMy c).nv = s.nv := rfl
@[simp] theorem setMy_poison : (s.setMy c).poison = s.poison := rfl
@[simp] theorem setMy_writes : (s.setMy c).writes = s.writes := rfl
@[simp] theorem setMy_loads : (s.setMy c).loads = s.loads := rfl
@[simp] theorem setMy_bmsgs : (s.setMy c).bmsgs = s.bmsgs := rfl
@[simp] theorem setMy_out : (s.setMy c).out = s.out := rfl
@[simp] theorem setMy_ticks : (s.setMy c).ticks = s.ticks := rfl
@[simp] theorem setMy_nextId : (s.setMy c).nextId = s.nextId := rfl
@[simp] theorem setMy_agenda : (s.setMy c).agenda = s.agenda := rfl
@[simp] theorem setMy_turn : (s.setMy c).turn = s.turn := rfl
@[simp] theorem setMy_past : (s.setMy c).past = s.past := rfl
@[simp] theorem setMy_phase : (s.setMy c).phase = s.phase := rfl
@[simp] theorem setMy_raised : (s.setMy c).raised = s.raised := rfl
@[simp] theorem setMy_held : (s.setMy c).held = s.held := rfl
@[simp] theorem setMy_core (j : Nat) : (s.setMy c).core j = s.core j := rfl
@[simp] theorem setMy_die (j : Nat) : (s.setMy c).die j = s.die j := rfl
@[simp] theorem setMy_launch (j : Nat) : (s.setMy c).launch j = s.launch j := rfl
@[simp] theorem setMy_bankOf (i j : Nat) : (s.setMy c).bankOf i j = s.bankOf i j := rfl
end setMy

section setCore
variable (k : Nat) (x : CoreSt)
@[simp] theorem setCore_ctxs : (s.setCore k x).ctxs = s.ctxs := rfl
@[simp] theorem setCore_banks : (s.setCore k x).banks = s.banks := rfl
@[simp] theorem setCore_cores : (s.setCore k x).cores = fset s.cores k x := rfl
@[simp] theorem setCore_dies : (s.setCore k x).dies = s.dies := rfl
@[simp] theorem setCore_dev : (s.setCore k x).dev = s.dev := rfl
@[simp] theorem setCore_mem : (s.setCore k x).mem = s.mem := rfl
@[simp] theorem setCore_nv : (s.setCore k x).nv = s.nv := rfl
@[simp] theorem setCore_poison : (s.setCore k x).poison = s.poison := rfl
@[simp] theorem setCore_writes : (s.setCore k x).writes = s.writes := rfl
@[simp] theorem setCore_loads : (s.setCore k x).loads = s.loads := rfl
@[simp] theorem setCore_bmsgs : (s.setCore k x).bmsgs = s.bmsgs := rfl
@[simp] theorem setCore_out : (s.setCore k x).out = s.out := rfl
@[simp] theorem setCore_ticks : (s.setCore k x).ticks = s.ticks := rfl
@[simp] theorem setCore_nextId : (s.setCore k x).nextId = s.nextId := rfl
@[simp] theorem setCore_me : (s.setCore k x).me = s.me := rfl
@[simp] theorem setCore_agenda : (s.setCore k x).agenda = s.agenda := rfl
@[simp] theorem setCore_turn : (s.setCore k x).turn = s.turn := rfl
@[simp] theorem setCore_past : (s.setCore k x).past = s.past := rfl
@[simp] theorem setCore_phase : (s.setCore k x).phase = s.phase := rfl
@[simp] theorem setCore_raised : (s.setCore k x).raised = s.raised := rfl
@[simp] theorem setCore_held : (s.setCore k x).held = s.held := rfl
@[simp] theorem setCore_ctx (j : Nat) : (s.setCore k x).ctx j = s.ctx j := rfl
@[simp] theorem setCore_die (j : Nat) : (s.setCore k x).die j = s.die j := rfl
@[simp] theorem setCore_launch (j : Nat) : (s.setCore k x).launch j = s.launch j := rfl
@[simp] theorem setCore_my : (s.setCore k x).my = s.my := rfl
@[simp] theorem setCore_bankOf (i j : Nat) : (s.setCore k x).bankOf i j = s.bankOf i j := rfl
end setCore

section setDie
variable (k : Nat) (x : DieSt)
@[simp] theorem setDie_ctxs : (s.setDie k x).ctxs = s.ctxs := rfl
@[simp] theorem setDie_banks : (s.setDie k x).banks = s.banks := rfl
@[simp] theorem setDie_cores : (s.setDie k x).cores = s.cores := rfl
@[simp] theorem setDie_dies : (s.setDie k x).dies = fset s.dies k x := rfl
@[simp] theorem setDie_dev : (s.setDie k x).dev = s.dev := rfl
@[simp] theorem setDie_mem : (s.setDie k x).mem = s.mem := rfl
@[simp] theorem setDie_nv : (s.setDie k x).nv = s.nv := rfl
@[simp] theorem setDie_poison : (s.setDie k x).poison = s.poison := rfl
@[simp] theorem setDie_writes : (s.setDie k x).writes = s.writes := rfl
@[simp] theorem setDie_loads : (s.setDie k x).loads = s.loads := rfl
@[simp] theorem setDie_bmsgs : (s.setDie k x).bmsgs = s.bmsgs := rfl
@[simp] theorem setDie_out : (s.setDie k x).out = s.out := rfl
@[simp] theorem setDie_ticks : (s.setDie k x).ticks = s.ticks := rfl
@[simp] theorem setDie_nextId : (s.setDie k x).nextId = s.nextId := rfl
@[simp] theorem setDie_me : (s.setDie k x).me = s.me := rfl
@[simp] theorem setDie_agenda : (s.setDie k x).agenda = s.agenda := rfl
@[simp] theorem setDie_turn : (s.setDie k x).turn = s.turn := rfl
@[simp] theorem setDie_past : (s.setDie k x).past = s.past := rfl
@[simp] theorem setDie_phase : (s.setDie k x).phase = s.phase := rfl
@[simp] theorem setDie_raised : (s.setDie k x).raised = s.raised := rfl
@[simp] theorem setDie_held : (s.setDie k x).held = s.held := rfl
@[simp] theorem setDie_ctx (j : Nat) : (s.setDie k x).ctx j = s.ctx j := rfl
@[simp] theorem setDie_core (j : Nat) : (s.setDie k x).core j = s.core j := rfl
@[simp] theorem setDie_launch (j : Nat) : (s.setDie k x).launch j = s.launch j := rfl
@[simp] theorem setDie_my : (s.setDie k x).my = s.my := rfl
@[simp] theorem setDie_bankOf (i j : Nat) : (s.setDie k x).bankOf i j = s.bankOf i j := rfl
end setDie

section setLaunch
variable (l : Nat) (x : Launch)
@[simp] theorem setLaunch_ctxs : (s.setLaunch l x).ctxs = s.ctxs := rfl
@[simp] theorem setLaunch_banks : (s.setLaunch l x).banks = s.banks := rfl
@[simp] theorem setLaunch_cores : (s.setLaunch l x).cores = s.cores := rfl
@[simp] theorem setLaunch_dies : (s.setLaunch l x).dies = s.dies := rfl
@[simp] theorem setLaunch_dev : (s.setLaunch l x).dev = { s.dev with launches := fset s.dev.launches l x } := rfl
@[simp] theorem setLaunch_mem : (s.setLaunch l x).mem = s.mem := rfl
@[simp] theorem setLaunch_nv : (s.setLaunch l x).nv = s.nv := rfl
@[simp] theorem setLaunch_poison : (s.setLaunch l x).poison = s.poison := rfl
@[simp] theorem setLaunch_writes : (s.setLaunch l x).writes = s.writes := rfl
@[simp] theorem setLaunch_loads : (s.setLaunch l x).loads = s.loads := rfl
@[simp] theorem setLaunch_bmsgs : (s.setLaunch l x).bmsgs = s.bmsgs := rfl
@[simp] theorem setLaunch_out : (s.setLaunch l x).out = s.out := rfl
@[simp] theorem setLaunch_ticks : (s.setLaunch l x).ticks = s.ticks := rfl
@[simp] theorem setLaunch_nextId : (s.setLaunch l x).nextId = s.nextId := rfl
@[simp] theorem setLaunch_me : (s.setLaunch l x).me = s.me := rfl
@[simp] theorem setLaunch_agenda : (s.setLaunch l x).agenda = s.agenda := rfl
@[simp] theorem setLaunch_turn : (s.setLaunch l x).turn = s.turn := rfl
@[simp] theorem setLaunch_past : (s.setLaunch l x).past = s.past := rfl
@[simp] theorem setLaunch_phase : (s.setLaunch l x).phase = s.phase := rfl
@[simp] theorem setLaunch_raised : (s.setLaunch l x).raised = s.raised := rfl
@[simp] theorem setLaunch_held : (s.setLaunch l x).held = s.held := rfl
@[simp] theorem setLaunch_ctx (j : Nat) : (s.setLaunch l x).ctx j = s.ctx j := rfl
@[simp] theorem setLaunch_core (j : Nat) : (s.setLaunch l x).core j = s.core j := rfl
@[simp] theorem setLaunch_die (j : Nat) : (s.setLaunch l x).die j = s.die j := rfl
@[simp] theorem setLaunch_my : (s.setLaunch l x).my = s.my := rfl
@[simp] theorem setLaunch_bankOf (i j : Nat) : (s.setLaunch l x).bankOf i j = s.bankOf i j := rfl
end setLaunch

section tell
variable (m : Message)
@[simp] theorem tell_ctxs : (s.tell m).ctxs = s.ctxs := rfl
@[simp] theorem tell_banks : (s.tell m).banks = s.banks := rfl
@[simp] theorem tell_cores : (s.tell m).cores = s.cores := rfl
@[simp] theorem tell_dies : (s.tell m).dies = s.dies := rfl
@[simp] theorem tell_dev : (s.tell m).dev = s.dev := rfl
@[simp] theorem tell_mem : (s.tell m).mem = s.mem := rfl
@[simp] theorem tell_nv : (s.tell m).nv = s.nv := rfl
@[simp] theorem tell_poison : (s.tell m).poison = s.poison := rfl
@[simp] theorem tell_writes : (s.tell m).writes = s.writes := rfl
@[simp] theorem tell_loads : (s.tell m).loads = s.loads := rfl
@[simp] theorem tell_bmsgs : (s.tell m).bmsgs = s.bmsgs := rfl
@[simp] theorem tell_out : (s.tell m).out = s.out ++ [m] := rfl
@[simp] theorem tell_ticks : (s.tell m).ticks = s.ticks := rfl
@[simp] theorem tell_nextId : (s.tell m).nextId = s.nextId := rfl
@[simp] theorem tell_me : (s.tell m).me = s.me := rfl
@[simp] theorem tell_agenda : (s.tell m).agenda = s.agenda := rfl
@[simp] theorem tell_turn : (s.tell m).turn = s.turn := rfl
@[simp] theorem tell_past : (s.tell m).past = s.past := rfl
@[simp] theorem tell_phase : (s.tell m).phase = s.phase := rfl
@[simp] theorem tell_raised : (s.tell m).raised = s.raised := rfl
@[simp] theorem tell_held : (s.tell m).held = s.held := rfl
@[simp] theorem tell_ctx (j : Nat) : (s.tell m).ctx j = s.ctx j := rfl
@[simp] theorem tell_core (j : Nat) : (s.tell m).core j = s.core j := rfl
@[simp] theorem tell_die (j : Nat) : (s.tell m).die j = s.die j := rfl
@[simp] theorem tell_launch (j : Nat) : (s.tell m).launch j = s.launch j := rfl
@[simp] theorem tell_my : (s.tell m).my = s.my := rfl
@[simp] theorem tell_bankOf (i j : Nat) : (s.tell m).bankOf i j = s.bankOf i j := rfl
end tell

@[simp] theorem setDevReg_dies (off : Nat) (v : W64) : (setDevReg s off v).dies = s.dies := rfl
@[simp] theorem setDevReg_ctxs (off : Nat) (v : W64) : (setDevReg s off v).ctxs = s.ctxs := rfl
@[simp] theorem setDevReg_banks (off : Nat) (v : W64) : (setDevReg s off v).banks = s.banks := rfl
@[simp] theorem setDevReg_cores (off : Nat) (v : W64) : (setDevReg s off v).cores = s.cores := rfl
@[simp] theorem setDevReg_mem (off : Nat) (v : W64) : (setDevReg s off v).mem = s.mem := rfl
@[simp] theorem setDevReg_nv (off : Nat) (v : W64) : (setDevReg s off v).nv = s.nv := rfl
@[simp] theorem setDevReg_poison (off : Nat) (v : W64) : (setDevReg s off v).poison = s.poison := rfl
@[simp] theorem setDevReg_writes (off : Nat) (v : W64) : (setDevReg s off v).writes = s.writes := rfl
@[simp] theorem setDevReg_loads (off : Nat) (v : W64) : (setDevReg s off v).loads = s.loads := rfl
@[simp] theorem setDevReg_bmsgs (off : Nat) (v : W64) : (setDevReg s off v).bmsgs = s.bmsgs := rfl
@[simp] theorem setDevReg_out (off : Nat) (v : W64) : (setDevReg s off v).out = s.out := rfl
@[simp] theorem setDevReg_ticks (off : Nat) (v : W64) : (setDevReg s off v).ticks = s.ticks := rfl
@[simp] theorem setDevReg_nextId (off : Nat) (v : W64) : (setDevReg s off v).nextId = s.nextId := rfl
@[simp] theorem setDevReg_me (off : Nat) (v : W64) : (setDevReg s off v).me = s.me := rfl
@[simp] theorem setDevReg_agenda (off : Nat) (v : W64) : (setDevReg s off v).agenda = s.agenda := rfl
@[simp] theorem setDevReg_turn (off : Nat) (v : W64) : (setDevReg s off v).turn = s.turn := rfl
@[simp] theorem setDevReg_past (off : Nat) (v : W64) : (setDevReg s off v).past = s.past := rfl
@[simp] theorem setDevReg_phase (off : Nat) (v : W64) : (setDevReg s off v).phase = s.phase := rfl
@[simp] theorem setDevReg_raised (off : Nat) (v : W64) : (setDevReg s off v).raised = s.raised := rfl
@[simp] theorem setDevReg_held (off : Nat) (v : W64) : (setDevReg s off v).held = s.held := rfl
@[simp] theorem setDieReg_ctxs (d off : Nat) (v : W64) : (setDieReg s d off v).ctxs = s.ctxs := rfl
@[simp] theorem setDieReg_banks (d off : Nat) (v : W64) : (setDieReg s d off v).banks = s.banks := rfl
@[simp] theorem setDieReg_cores (d off : Nat) (v : W64) : (setDieReg s d off v).cores = s.cores := rfl
@[simp] theorem setDieReg_dev (d off : Nat) (v : W64) : (setDieReg s d off v).dev = s.dev := rfl
@[simp] theorem setDieReg_mem (d off : Nat) (v : W64) : (setDieReg s d off v).mem = s.mem := rfl
@[simp] theorem setDieReg_nv (d off : Nat) (v : W64) : (setDieReg s d off v).nv = s.nv := rfl
@[simp] theorem setDieReg_poison (d off : Nat) (v : W64) : (setDieReg s d off v).poison = s.poison := rfl
@[simp] theorem setDieReg_writes (d off : Nat) (v : W64) : (setDieReg s d off v).writes = s.writes := rfl
@[simp] theorem setDieReg_loads (d off : Nat) (v : W64) : (setDieReg s d off v).loads = s.loads := rfl
@[simp] theorem setDieReg_bmsgs (d off : Nat) (v : W64) : (setDieReg s d off v).bmsgs = s.bmsgs := rfl
@[simp] theorem setDieReg_out (d off : Nat) (v : W64) : (setDieReg s d off v).out = s.out := rfl
@[simp] theorem setDieReg_ticks (d off : Nat) (v : W64) : (setDieReg s d off v).ticks = s.ticks := rfl
@[simp] theorem setDieReg_nextId (d off : Nat) (v : W64) : (setDieReg s d off v).nextId = s.nextId := rfl
@[simp] theorem setDieReg_me (d off : Nat) (v : W64) : (setDieReg s d off v).me = s.me := rfl
@[simp] theorem setDieReg_agenda (d off : Nat) (v : W64) : (setDieReg s d off v).agenda = s.agenda := rfl
@[simp] theorem setDieReg_turn (d off : Nat) (v : W64) : (setDieReg s d off v).turn = s.turn := rfl
@[simp] theorem setDieReg_past (d off : Nat) (v : W64) : (setDieReg s d off v).past = s.past := rfl
@[simp] theorem setDieReg_phase (d off : Nat) (v : W64) : (setDieReg s d off v).phase = s.phase := rfl
@[simp] theorem setDieReg_raised (d off : Nat) (v : W64) : (setDieReg s d off v).raised = s.raised := rfl
@[simp] theorem setDieReg_held (d off : Nat) (v : W64) : (setDieReg s d off v).held = s.held := rfl

end Sys2Proof.Machine
end

