-- ==== Sys2Proof/Laws/Writes.lean ====
section
/-! SUPPORT. What the shared register writes do: when the destination is free, each leaves one more write pending. -/
namespace Sys2Proof.Machine

@[simp] theorem ctx_setCtx (s : State) (k : Nat) (c : Ctx) : (s.setCtx k c).ctx k = c := by simp [State.setCtx, State.ctx]
theorem ctx_setCtx_of_ne (s : State) {k j : Nat} (c : Ctx) (h : j ≠ k) : (s.setCtx k c).ctx j = s.ctx j := by
  simp [State.setCtx, State.ctx, fget_fset_of_ne _ _ _ h]
@[simp] theorem me_setCtx (s : State) (k : Nat) (c : Ctx) : (s.setCtx k c).me = s.me := rfl
@[simp] theorem me_setMy (s : State) (c : Ctx) : (s.setMy c).me = s.me := rfl
@[simp] theorem my_setMy (s : State) (c : Ctx) : (s.setMy c).my = c := by simp [State.setMy, State.my]
@[simp] theorem core_setCore (s : State) (k : Nat) (c : CoreSt) : (s.setCore k c).core k = c := by
  simp [State.setCore, State.core]
theorem core_setCore_of_ne (s : State) {k j : Nat} (c : CoreSt) (h : j ≠ k) : (s.setCore k c).core j = s.core j := by
  simp [State.setCore, State.core, fget_fset_of_ne _ _ _ h]
@[simp] theorem die_setDie (s : State) (k : Nat) (c : DieSt) : (s.setDie k c).die k = c := by simp [State.setDie, State.die]
theorem die_setDie_of_ne (s : State) {k j : Nat} (c : DieSt) (h : j ≠ k) : (s.setDie k c).die j = s.die j := by
  simp [State.setDie, State.die, fget_fset_of_ne _ _ _ h]
@[simp] theorem launch_setLaunch (s : State) (k : Nat) (c : Launch) : (s.setLaunch k c).launch k = c := by
  simp [State.setLaunch, State.launch]
theorem launch_setLaunch_of_ne (s : State) {k j : Nat} (c : Launch) (h : j ≠ k) :
    (s.setLaunch k c).launch j = s.launch j := by
  simp [State.setLaunch, State.launch, fget_fset_of_ne _ _ _ h]

/-- Writing pending writes does not change the level. -/
@[simp] theorem lvl_setPend (c : Ctx) (p : List Pend) : (c.setPend p).lvl = c.lvl := by
  unfold Ctx.setPend; split <;> (try split) <;> rfl
@[simp] theorem pend_setPend (c : Ctx) (p : List Pend) : (c.setPend p).pend = p := by
  unfold Ctx.pend
  rw [lvl_setPend]
  unfold Ctx.setPend
  split <;> (try split) <;> rfl

/-- A free register takes the write. -/
theorem putReg_free {s : State} {cls kind reg lat : Nat} (v : Wide) (h : s.free cls kind reg lat) :
    putReg s cls kind reg lat v = .ok (s.write cls kind reg lat v) := by
  have hn : s.my.pend.any (Pend.clash { cls := cls, reg := reg, kind := kind, delay := lat, value := v }) = false := by
    rw [List.any_eq_false]
    intro p hp
    have := h p hp
    simp only [Pend.clash, Bool.and_eq_true, decide_eq_true_eq, not_and]
    intro h1 h2
    exact this ⟨h1.1.1.symm, h1.2.symm, h1.1.2.symm, h2.symm⟩
  simp [putReg, addPend, hn, Except.map, State.write]

theorem putS_free {s : State} {d : BitVec 6} {lat : Nat} (v : W64) (h : s.freeS d lat) :
    putS s d.toNat lat v = .ok (s.writeS d lat v) := by
  unfold putS State.writeS
  by_cases hd : d = 0
  · simp [hd]
  · have h0 : d.toNat ≠ 0 := fun h => hd (BitVec.eq_of_toNat_eq (by simpa using h))
    rw [if_neg h0, if_neg hd]
    exact putReg_free _ (h.resolve_left hd)

theorem putV_free {s : State} {sl : VSlot} {d lat : Nat} (v : Wide) (h : s.freeV sl d lat) :
    putV s sl d lat v = .ok (s.writeV sl d lat v) := putReg_free v h

theorem putK_free {s : State} {sl : VSlot} {d : BitVec 5} {lat : Nat} (v : W32) (h : s.freeK sl d lat) :
    putK s sl d.toNat lat v = .ok (s.writeK sl d lat v) := by
  unfold putK State.writeK
  by_cases hd : d = 0
  · simp [hd]
  · have h0 : d.toNat ≠ 0 := fun h => hd (BitVec.eq_of_toNat_eq (by simpa using h))
    rw [if_neg h0, if_neg hd]
    exact putReg_free _ (h.resolve_left hd)

theorem putC_free {s : State} {sl : CSlot} {d lat : Nat} (v : W64) (h : s.free (CSlot.cls sl) 0 d lat) :
    putC s sl d lat v = .ok (s.write (CSlot.cls sl) 0 d lat (v.setWidth 1024)) := putReg_free _ h

theorem putX_free {s : State} {d lat : Nat} (v : Wide) (h : s.free 7 0 d lat) :
    putX s d lat v = .ok (s.write 7 0 d lat v) := putReg_free _ h

theorem putE_free {s : State} {d lat : Nat} (v : BitVec 256) (h : s.free 7 2 d lat) :
    putE s d lat v = .ok (s.write 7 2 d lat (v.setWidth 1024)) := putReg_free _ h

theorem putP_free {s : State} {d lat : Nat} (v : W64) (h : s.free 4 0 d lat) :
    putP s d lat v = .ok (s.write 4 0 d lat (v.setWidth 1024)) := putReg_free _ h

theorem atEnd_eq (s : State) (fx : EndFx) : atEnd s fx = s.later fx := rfl

/-- Two operands that read, read together. -/
@[simp] theorem both_ok_ok {α β : Type} (x : α) (y : β) : both (.ok x : Res α) (.ok y) = .ok (x, y) := rfl

@[simp] theorem complete_ok (s t : State) : complete s (.ok t) = .next t := rfl

end Sys2Proof.Machine
end

