-- ==== Sys2Proof/Laws/Ops.lean ====
section
/-! SUPPORT. What the shared operations do: each lemma says every answer its operation can give, so that no caller unfolds
it. -/
namespace Sys2Proof.Machine

/-! Outcomes -/

@[simp] theorem complete_trap (s : State) (t : TrapRec) : complete s (.error (.trap t)) = .next (takeTrap s t) := rfl
@[simp] theorem complete_fault (s : State) (f : Fault) : complete s (.error (.fault f)) = .fault f := rfl

/-- A hold waits, or traps where a stamped bundle may not wait (R315). -/
theorem complete_hold (s : State) (h : Hold) :
    complete s (.error (.hold h)) = .next { s with held := some h } ∨
      ∃ t, holdOrOverrun s h = some t ∧ complete s (.error (.hold h)) = .next (takeTrap s t) := by
  unfold complete
  cases hx : holdOrOverrun s h with
  | none => simp [hx]
  | some t => exact .inr ⟨t, rfl, by simp [hx]⟩

/-- A word by itself never refuses, and faults only where its effect does. -/
theorem complete_cases (s : State) (r : Res State) :
    (∃ t, complete s r = .next t) ∨ (∃ f, r = .error (.fault f) ∧ complete s r = .fault f) := by
  rcases r with (_ | _ | _) | _
  all_goals first
    | exact .inl ⟨_, rfl⟩
    | exact .inr ⟨_, rfl, rfl⟩
    | exact (complete_hold s _).elim (fun h => .inl ⟨_, h⟩) (fun ⟨_, _, h⟩ => .inl ⟨_, h⟩)

/-! Operands -/

/-- Two operands answer together only where each answers. -/
theorem both_ok {α β : Type} {a : Res α} {b : Res β} {p : α × β} (h : both a b = .ok p) : a = .ok p.1 ∧ b = .ok p.2 := by
  unfold both at h; grind

@[simp] theorem rdS_zero (c : Ctx) (cls : Nat) : rdS c cls 0 = .ok 0 := rfl
theorem rdS_reg (c : Ctx) (cls : Nat) {i : Nat} (h0 : i ≠ 0) (h : i < 56) : rdS c cls i = .ok (fget 0 c.regs.s i) := by
  simp [rdS, h0, Nat.not_le.2 h]
theorem rdV_reg (c : Ctx) (sl : VSlot) {i : Nat} (h : i < 24) :
    rdV c sl i = .ok (match sl with | .v0 => fget 0 c.regs.va i | .v1 => fget 0 c.regs.vb i) := by
  exact if_neg (Nat.not_le.2 h)
@[simp] theorem rdK_zero (c : Ctx) (sl : VSlot) : rdK c sl 0 = BitVec.allOnes 32 := rfl

/-! Pending writes -/

/-- A register write is queued behind those of its level, or it clashes and traps DOUBLE_WRITE (R19). -/
theorem addPend_cases (c : Ctx) (p : Pend) :
    (c.pend.any (Pend.clash p) = false ∧ addPend c p = .ok (c.setPend (c.pend ++ [p]))) ∨
      (c.pend.any (Pend.clash p) = true ∧ addPend c p = trapOf 7 p.cls 0x02 (clashTval p)) := by
  unfold addPend
  cases h : c.pend.any (Pend.clash p)
  · exact .inl ⟨rfl, by simp⟩
  · exact .inr ⟨rfl, by simp⟩

/-- A register write changes only the pending writes of the issuing context. -/
theorem putReg_ok {s t : State} {cls kind reg lat : Nat} {v : Wide} (h : putReg s cls kind reg lat v = .ok t) :
    t = s.write cls kind reg lat v := by
  unfold putReg at h
  rcases addPend_cases s.my { cls := cls, reg := reg, kind := kind, delay := lat, value := v } with ⟨_, ha⟩ | ⟨_, ha⟩
  · rw [ha] at h; exact (Except.ok.inj h).symm
  · rw [ha] at h; exact nomatch h

theorem putS_ok {s t : State} {d : BitVec 6} {lat : Nat} {v : W64} (h : putS s d.toNat lat v = .ok t) :
    t = s.writeS d lat v := by
  unfold putS at h
  unfold State.writeS
  by_cases hd : d = 0
  · rw [if_pos (by simp [hd])] at h; rw [if_pos hd]; exact (Except.ok.inj h).symm
  · rw [if_neg (fun h => hd (BitVec.eq_of_toNat_eq (by simpa using h)))] at h
    rw [if_neg hd]; exact putReg_ok h

/-- A write of s0 or k0 is dropped (R15). -/
@[simp] theorem putS_zero (s : State) (lat : Nat) (v : W64) : putS s 0 lat v = .ok s := rfl
@[simp] theorem putK_zero (s : State) (sl : VSlot) (lat : Nat) (v : W32) : putK s sl 0 lat v = .ok s := rfl

/-- What a queued write leaves of the issuing context. -/
@[simp] theorem setPend_regs (c : Ctx) (p : List Pend) : (c.setPend p).regs = c.regs := by
  unfold Ctx.setPend; split <;> (try split) <;> rfl
@[simp] theorem setPend_sys (c : Ctx) (p : List Pend) : (c.setPend p).sys = c.sys := by
  unfold Ctx.setPend; split <;> (try split) <;> rfl
@[simp] theorem setPend_ctr (c : Ctx) (p : List Pend) : (c.setPend p).ctr = c.ctr := by
  unfold Ctx.setPend; split <;> (try split) <;> rfl
@[simp] theorem setPend_q (c : Ctx) (p : List Pend) : (c.setPend p).q = c.q := by
  unfold Ctx.setPend; split <;> (try split) <;> rfl
@[simp] theorem setPend_iss (c : Ctx) (p : List Pend) : (c.setPend p).iss = c.iss := by
  unfold Ctx.setPend; split <;> (try split) <;> rfl
@[simp] theorem setPend_run (c : Ctx) (p : List Pend) : (c.setPend p).run = c.run := by
  unfold Ctx.setPend; split <;> (try split) <;> rfl

@[simp] theorem write_mem (s : State) (cls kind reg lat : Nat) (v : Wide) : (s.write cls kind reg lat v).mem = s.mem := rfl
@[simp] theorem write_cores (s : State) (cls kind reg lat : Nat) (v : Wide) : (s.write cls kind reg lat v).cores = s.cores := rfl
@[simp] theorem write_dies (s : State) (cls kind reg lat : Nat) (v : Wide) : (s.write cls kind reg lat v).dies = s.dies := rfl
@[simp] theorem write_dev (s : State) (cls kind reg lat : Nat) (v : Wide) : (s.write cls kind reg lat v).dev = s.dev := rfl
theorem write_my (s : State) (cls kind reg lat : Nat) (v : Wide) :
    (s.write cls kind reg lat v).my =
      s.my.setPend (s.my.pend ++ [{ cls := cls, reg := reg, kind := kind, delay := lat, value := v }]) := my_setMy _ _
theorem write_ctx_of_ne (s : State) (cls kind reg lat : Nat) (v : Wide) {j : Nat} (h : j ≠ s.me) :
    (s.write cls kind reg lat v).ctx j = s.ctx j := ctx_setCtx_of_ne _ _ h

/-! Traps and halts (R320, R322) -/

theorem trapTarget_cases (lvl : Nat) (code : TrapCode) (att : Bool) :
    trapTarget lvl code att = 1 ∨ trapTarget lvl code att = 2 ∨ trapTarget lvl code att = 3 := by
  unfold trapTarget; split <;> (try split) <;> simp

@[simp] theorem giveBack_mem (s : State) (l core a b : Nat) : (giveBack s l core a b).mem = s.mem := by
  unfold giveBack; split
  · rfl
  · simp only; split
    · rfl
    · split <;> rfl
@[simp] theorem haltCtx_mem (s : State) (k : Nat) (c : TrapCode) : (haltCtx s k c).mem = s.mem := by
  unfold haltCtx; simp only; split
  · rfl
  · rw [giveBack_mem]; rfl
@[simp] theorem takeTrapAt_mem (s : State) (k : Nat) (code : TrapCode) (v : W64) (b : Bool) :
    (takeTrapAt s k code v b).mem = s.mem := by
  unfold takeTrapAt; simp only; split <;> simp
@[simp] theorem takeTrap_mem (s : State) (t : TrapRec) : (takeTrap s t).mem = s.mem := takeTrapAt_mem ..

/-- A trap below the firmware level leaves the cores, the dies and the device alone. -/
theorem takeTrapAt_frame (s : State) (k : Nat) (code : TrapCode) (v : W64) (b : Bool)
    (h : trapTarget (s.ctx k).lvl code (s.ctx k).dbg.att ≠ 3) :
    (takeTrapAt s k code v b).cores = s.cores ∧ (takeTrapAt s k code v b).dies = s.dies ∧
      (takeTrapAt s k code v b).dev = s.dev ∧ (takeTrapAt s k code v b).out = s.out := by
  unfold takeTrapAt
  simp only [if_neg h]
  exact ⟨rfl, rfl, rfl, rfl⟩

/-! Effects at the end of the bundle, and the counters an instruction draws from -/

theorem atEnd_my (s : State) (fx : EndFx) : (atEnd s fx).my = { s.my with iss := { s.my.iss with fx := s.my.iss.fx ++ [fx] } } :=
  my_setMy _ _
@[simp] theorem atEnd_mem (s : State) (fx : EndFx) : (atEnd s fx).mem = s.mem := rfl
@[simp] theorem takeSeq_fst (s : State) : (takeSeq s).1 = s.my.ctr.seqno := rfl
@[simp] theorem takeSeq_mem (s : State) : (takeSeq s).2.mem = s.mem := rfl
@[simp] theorem takeSr_mem (s : State) : (takeSr s).2.mem = s.mem := rfl
@[simp] theorem takeId_fst (s : State) : (takeId s).1 = s.nextId := rfl

end Sys2Proof.Machine
end

