-- ==== Sys2Proof/Laws/Kept.lean ====
section
/-! SUPPORT. Which operations leave memory and the persist domain alone (`kept_f`), and that every other one keeps their
canonical form (`canon_f`): the shared operations and the words up to the tile words. -/
namespace Sys2Proof.Machine

set_option maxRecDepth 4000

/-- A fold of steps that leave memory alone leaves it alone. -/
theorem foldl_kept {α : Type} (g : State → α → State) (hg : ∀ s x, (g s x).mem = s.mem ∧ (g s x).nv = s.nv) (xs : List α) (s : State) :
    (xs.foldl g s).mem = s.mem ∧ (xs.foldl g s).nv = s.nv :=
  List.foldlRecOn xs g (motive := fun u => u.mem = s.mem ∧ u.nv = s.nv) ⟨rfl, rfl⟩
    (fun u hu x _ => by rw [(hg u x).1, (hg u x).2]; exact hu)
/-- A fold of steps that keep the canonical form keeps it. -/
theorem foldl_canon {α : Type} (g : State → α → State)
    (hg : ∀ s x, Memory.wf s.mem = true ∧ Memory.wf s.nv = true → Memory.wf (g s x).mem = true ∧ Memory.wf (g s x).nv = true)
    (xs : List α) (s : State) (h : Memory.wf s.mem = true ∧ Memory.wf s.nv = true) :
    Memory.wf (xs.foldl g s).mem = true ∧ Memory.wf (xs.foldl g s).nv = true :=
  List.foldlRecOn xs g (motive := fun u => Memory.wf u.mem = true ∧ Memory.wf u.nv = true) h (fun u hu x _ => hg u x hu)
/-- What a mapped result came from. -/
theorem map_ok {α β : Type} {f : α → β} {r : Res α} {t : β} (h : Except.map f r = .ok t) : ∃ x, r = .ok x ∧ f x = t := by
  cases r <;> simp_all [Except.map]
/-- A word run by itself leaves memory alone where its effect and its traps do. -/
theorem complete_kept {s t : State} {r : Res State} (hr : ∀ u, r = .ok u → u.mem = s.mem ∧ u.nv = s.nv)
   (hT : ∀ x, (takeTrap s x).mem = s.mem ∧ (takeTrap s x).nv = s.nv)
   (h : complete s r = .next t) : t.mem = s.mem ∧ t.nv = s.nv := by
  unfold complete at h; grind
/-- Memory left alone stays canonical. -/
theorem canon_of_kept {s t : State} (h : t.mem = s.mem ∧ t.nv = s.nv) (hc : Memory.wf s.mem = true ∧ Memory.wf s.nv = true) :
   Memory.wf t.mem = true ∧ Memory.wf t.nv = true := by rw [h.1, h.2]; exact hc
/-- A word run by itself keeps the canonical form where its effect and its traps do. -/
theorem complete_canon {s t : State} {r : Res State} (hr : ∀ u, r = .ok u → Memory.wf u.mem = true ∧ Memory.wf u.nv = true)
   (hT : ∀ x, Memory.wf (takeTrap s x).mem = true ∧ Memory.wf (takeTrap s x).nv = true)
   (hc : Memory.wf s.mem = true ∧ Memory.wf s.nv = true)
   (h : complete s r = .next t) : Memory.wf t.mem = true ∧ Memory.wf t.nv = true := by
  unfold complete at h; grind
/-- What a bound result came from. -/
theorem bind_ok {α β : Type} {ε : Type} {r : Except ε α} {f : α → Except ε β} {t : β} (h : r.bind f = .ok t) : ∃ x, r = .ok x ∧ f x = .ok t := by
  cases r <;> simp_all [Except.bind]
/-- A check before a result can only trap. -/
theorem trapFirst_ok {α : Type} {c : Option TrapRec} {r : Res α} {t : α} (h : trapFirst c r = .ok t) : r = .ok t := by
  unfold trapFirst at h; grind
theorem kept_State_setCore (s : State) (c : ℕ) (x : CoreSt) : (State.setCore s c x).mem = s.mem ∧ (State.setCore s c x).nv = s.nv := by
  unfold State.setCore
  grind [→ both_ok, → map_ok, trapOf, holdOf, unlessDs.eq_def]
theorem kept_State_setCtx (s : State) (k : ℕ) (c : Ctx) : (State.setCtx s k c).mem = s.mem ∧ (State.setCtx s k c).nv = s.nv := by
  unfold State.setCtx
  grind [→ both_ok, → map_ok, trapOf, holdOf, unlessDs.eq_def]
theorem kept_State_setDie (s : State) (d : ℕ) (x : DieSt) : (State.setDie s d x).mem = s.mem ∧ (State.setDie s d x).nv = s.nv := by
  unfold State.setDie
  grind [→ both_ok, → map_ok, trapOf, holdOf, unlessDs.eq_def]
theorem kept_State_setLaunch (s : State) (l : ℕ) (x : Launch) : (State.setLaunch s l x).mem = s.mem ∧ (State.setLaunch s l x).nv = s.nv := by
  unfold State.setLaunch
  grind [→ both_ok, → map_ok, trapOf, holdOf, unlessDs.eq_def]
theorem kept_State_setMy (s : State) (c : Ctx) : (State.setMy s c).mem = s.mem ∧ (State.setMy s c).nv = s.nv := by
  unfold State.setMy
  grind [kept_State_setCtx, → both_ok, → map_ok, trapOf, holdOf, unlessDs.eq_def]
theorem kept_State_tell (s : State) (m : Message) : (State.tell s m).mem = s.mem ∧ (State.tell s m).nv = s.nv := by
  unfold State.tell
  grind [→ both_ok, → map_ok, trapOf, holdOf, unlessDs.eq_def]
theorem kept_atEnd (s : State) (fx : EndFx) : (atEnd s fx).mem = s.mem ∧ (atEnd s fx).nv = s.nv := by
  unfold atEnd
  grind [kept_State_setMy, → both_ok, → map_ok, trapOf, holdOf, unlessDs.eq_def]
theorem kept_failUnits (s : State) (l : ℕ) (n : ℕ) : (failUnits s l n).mem = s.mem ∧ (failUnits s l n).nv = s.nv := by
  unfold failUnits
  grind [kept_State_setLaunch, → both_ok, → map_ok, trapOf, holdOf, unlessDs.eq_def]
theorem kept_giveBack (s : State) (l : ℕ) (core : ℕ) (a : ℕ) (b : ℕ) : (giveBack s l core a b).mem = s.mem ∧ (giveBack s l core a b).nv = s.nv := by
  unfold giveBack
  grind [kept_failUnits, kept_State_setLaunch, → both_ok, → map_ok, trapOf, holdOf, unlessDs.eq_def]
theorem kept_haltCtx (s : State) (k : ℕ) (cause : TrapCode) : (haltCtx s k cause).mem = s.mem ∧ (haltCtx s k cause).nv = s.nv := by
  unfold haltCtx
  grind [kept_State_setCtx, kept_State_tell, kept_giveBack, kept_failUnits, → both_ok, → map_ok, trapOf, holdOf, unlessDs.eq_def]
theorem kept_takeTrapAt (s : State) (k : ℕ) (code : TrapCode) (tval : W64) (cycle : Bool) : (takeTrapAt s k code tval cycle).mem = s.mem ∧ (takeTrapAt s k code tval cycle).nv = s.nv := by
  unfold takeTrapAt
  grind [kept_State_setCtx, kept_haltCtx, → both_ok, → map_ok, trapOf, holdOf, unlessDs.eq_def]
theorem kept_takeTrap (s : State) (t : TrapRec) : (takeTrap s t).mem = s.mem ∧ (takeTrap s t).nv = s.nv := by
  unfold takeTrap
  grind [kept_takeTrapAt, → both_ok, → map_ok, trapOf, holdOf, unlessDs.eq_def]
theorem kept_doneUnits (s : State) (l : ℕ) (n : ℕ) : (doneUnits s l n).mem = s.mem ∧ (doneUnits s l n).nv = s.nv := by
  unfold doneUnits
  grind [kept_State_setLaunch, → both_ok, → map_ok, trapOf, holdOf, unlessDs.eq_def]
theorem kept_pushEntry (s : State) (w : ℕ) (e : WEntry) : (pushEntry s w e).mem = s.mem ∧ (pushEntry s w e).nv = s.nv := by
  unfold pushEntry
  grind [kept_State_setMy, → both_ok, → map_ok, trapOf, holdOf, unlessDs.eq_def]
theorem kept_putReg (s : State) (cls : ℕ) (kind : ℕ) (reg : ℕ) (lat : ℕ) (v : Wide) {u : _} (h : putReg s cls kind reg lat v = .ok u) : u.mem = s.mem ∧ u.nv = s.nv := by
  unfold putReg at h
  grind [kept_State_setMy, → both_ok, → map_ok, trapOf, holdOf, unlessDs.eq_def]
theorem kept_putC (s : State) (sl : CSlot) (d : ℕ) (lat : ℕ) (v : W64) {u : _} (h : putC s sl d lat v = .ok u) : u.mem = s.mem ∧ u.nv = s.nv := by
  unfold putC at h
  grind [→ kept_putReg, → both_ok, → map_ok, trapOf, holdOf, unlessDs.eq_def]
theorem kept_putE (s : State) (d : ℕ) (lat : ℕ) (v : BitVec 256) {u : _} (h : putE s d lat v = .ok u) : u.mem = s.mem ∧ u.nv = s.nv := by
  unfold putE at h
  grind [→ kept_putReg, → both_ok, → map_ok, trapOf, holdOf, unlessDs.eq_def]
theorem kept_putK (s : State) (sl : VSlot) (d : ℕ) (lat : ℕ) (v : W32) {u : _} (h : putK s sl d lat v = .ok u) : u.mem = s.mem ∧ u.nv = s.nv := by
  unfold putK at h
  grind [→ kept_putReg, → both_ok, → map_ok, trapOf, holdOf, unlessDs.eq_def]
theorem kept_putP (s : State) (d : ℕ) (lat : ℕ) (v : W64) {u : _} (h : putP s d lat v = .ok u) : u.mem = s.mem ∧ u.nv = s.nv := by
  unfold putP at h
  grind [→ kept_putReg, → both_ok, → map_ok, trapOf, holdOf, unlessDs.eq_def]
theorem kept_putS (s : State) (d : ℕ) (lat : ℕ) (v : W64) {u : _} (h : putS s d lat v = .ok u) : u.mem = s.mem ∧ u.nv = s.nv := by
  unfold putS at h
  grind [→ kept_putReg, → both_ok, → map_ok, trapOf, holdOf, unlessDs.eq_def]
theorem kept_putV (s : State) (sl : VSlot) (d : ℕ) (lat : ℕ) (v : Wide) {u : _} (h : putV s sl d lat v = .ok u) : u.mem = s.mem ∧ u.nv = s.nv := by
  unfold putV at h
  grind [→ kept_putReg, → both_ok, → map_ok, trapOf, holdOf, unlessDs.eq_def]
theorem kept_putX (s : State) (d : ℕ) (lat : ℕ) (v : Wide) {u : _} (h : putX s d lat v = .ok u) : u.mem = s.mem ∧ u.nv = s.nv := by
  unfold putX at h
  grind [→ kept_putReg, → both_ok, → map_ok, trapOf, holdOf, unlessDs.eq_def]
theorem kept_takeEntries (s : State) (cls : ℕ) (w : ℕ) (n : ℕ) {u : _} (h : takeEntries s cls w n = .ok u) : u.2.mem = s.mem ∧ u.2.nv = s.nv := by
  unfold takeEntries at h
  grind [kept_State_setMy, → both_ok, → map_ok, trapOf, holdOf, unlessDs.eq_def]
theorem kept_takeId (s : State) : (takeId s).2.mem = s.mem ∧ (takeId s).2.nv = s.nv := by
  unfold takeId
  grind [→ both_ok, → map_ok, trapOf, holdOf, unlessDs.eq_def]
theorem kept_takeSeq (s : State) : (takeSeq s).2.mem = s.mem ∧ (takeSeq s).2.nv = s.nv := by
  unfold takeSeq
  grind [kept_State_setMy, → both_ok, → map_ok, trapOf, holdOf, unlessDs.eq_def]
theorem kept_takeSr (s : State) : (takeSr s).2.mem = s.mem ∧ (takeSr s).2.nv = s.nv := by
  unfold takeSr
  grind [kept_State_setMy, → both_ok, → map_ok, trapOf, holdOf, unlessDs.eq_def]
theorem kept_raiseSource (s : State) (d : ℕ) (k : ℕ) : (raiseSource s d k).mem = s.mem ∧ (raiseSource s d k).nv = s.nv := by
  unfold raiseSource
  grind [kept_State_setDie, foldl_kept, → both_ok, → map_ok, trapOf, holdOf, unlessDs.eq_def]
theorem kept_sampleUnit (s : State) (d : ℕ) (u : ℕ) (src : ℕ) (f : From) (v : W64) : (sampleUnit s d u src f v).mem = s.mem ∧ (sampleUnit s d u src f v).nv = s.nv := by
  unfold sampleUnit
  grind [kept_State_setDie, kept_raiseSource, → both_ok, → map_ok, trapOf, holdOf, unlessDs.eq_def]
theorem kept_sample (s : State) (d : ℕ) (src : ℕ) (f : From) (v : W64) : (sample s d src f v).mem = s.mem ∧ (sample s d src f v).nv = s.nv := by
  unfold sample
  grind [kept_sampleUnit, foldl_kept, → both_ok, → map_ok, trapOf, holdOf, unlessDs.eq_def]
theorem kept_sampleFor (s : State) (k : ℕ) (src : ℕ) (t0 : W64) : (sampleFor s k src t0).mem = s.mem ∧ (sampleFor s k src t0).nv = s.nv := by
  unfold sampleFor
  grind [kept_sample, → both_ok, → map_ok, trapOf, holdOf, unlessDs.eq_def]
theorem kept_setDevReg (s : State) (off : ℕ) (v : W64) : (setDevReg s off v).mem = s.mem ∧ (setDevReg s off v).nv = s.nv := by
  unfold setDevReg
  grind [→ both_ok, → map_ok, trapOf, holdOf, unlessDs.eq_def]
theorem kept_setDieReg (s : State) (d : ℕ) (off : ℕ) (v : W64) : (setDieReg s d off v).mem = s.mem ∧ (setDieReg s d off v).nv = s.nv := by
  unfold setDieReg
  grind [kept_State_setDie, → both_ok, → map_ok, trapOf, holdOf, unlessDs.eq_def]
theorem kept_setPhysAt (s : State) (d : ℕ) (p : ℕ) (x : Phys) : (setPhysAt s d p x).mem = s.mem ∧ (setPhysAt s d p x).nv = s.nv := by
  unfold setPhysAt
  grind [kept_State_setDie, → both_ok, → map_ok, trapOf, holdOf, unlessDs.eq_def]
theorem kept_setRel (s : State) (core : ℕ) (x : Phys) : (setRel s core x).mem = s.mem ∧ (setRel s core x).nv = s.nv := by
  unfold setRel
  grind [kept_setPhysAt, → both_ok, → map_ok, trapOf, holdOf, unlessDs.eq_def]
theorem kept_noteTimes (s : State) (k : ℕ) (p : ℕ) (free : Bool) (read : List (ℕ × ℕ)) : (noteTimes s k p free read).mem = s.mem ∧ (noteTimes s k p free read).nv = s.nv := by
  unfold noteTimes
  grind [kept_State_setCtx, foldl_kept, → both_ok, → map_ok, trapOf, holdOf, unlessDs.eq_def]
theorem kept_raiseFloor (s : State) (k : ℕ) (ps : List ℕ) (sys : Bool) : (raiseFloor s k ps sys).mem = s.mem ∧ (raiseFloor s k ps sys).nv = s.nv := by
  unfold raiseFloor
  grind [kept_State_setCtx, foldl_kept, → both_ok, → map_ok, trapOf, holdOf, unlessDs.eq_def]
/-- Steps that leave memory alone or do nothing. -/
theorem ite_kept {s t : State} {b : Bool} (h : t.mem = s.mem ∧ t.nv = s.nv) : (if b then t else s).mem = s.mem ∧ (if b then t else s).nv = s.nv := by
  cases b <;> simp_all
theorem kept_sampleMisses (s : State) (dies : List ℕ) (f : From) (stamp : ℕ) (part : ℕ) : (sampleMisses s dies f stamp part).mem = s.mem ∧ (sampleMisses s dies f stamp part).nv = s.nv :=
  foldl_kept _ (fun u d => foldl_kept _ (fun w x => ite_kept (kept_sampleUnit ..)) _ u) _ s
theorem kept_askStores (s : State) (core : ℕ) (space : ℕ) (vas : List W64) (f : From) (stamp : ℕ) : (askStores s core space vas f stamp).mem = s.mem ∧ (askStores s core space vas f stamp).nv = s.nv :=
  foldl_kept _ (fun u l => by split <;> simp [kept_sampleMisses]) _ s
theorem kept_noteAbort (s : State) (core : ℕ) (space : ℕ) (va : W64) (seq : W32) : (noteAbort s core space va seq).mem = s.mem ∧ (noteAbort s core space va seq).nv = s.nv := by
  unfold noteAbort
  grind
theorem kept_noteWalk (s : State) (d : ℕ) (space : ℕ) (va : W64) : (noteWalk s d space va).mem = s.mem ∧ (noteWalk s d space va).nv = s.nv := by
  unfold noteWalk
  grind [kept_State_setDie, → both_ok, → map_ok, trapOf, holdOf, unlessDs.eq_def]
theorem kept_noteXl (s : State) (core : ℕ) (space : ℕ) (va : W64) : (noteXl s core space va).mem = s.mem ∧ (noteXl s core space va).nv = s.nv := by
  unfold noteXl
  grind [kept_noteWalk, kept_State_setCore, kept_State_setDie, kept_sample, kept_sampleMisses, → both_ok, → map_ok, trapOf, holdOf, unlessDs.eq_def]
theorem kept_noteFetch (s : State) (k : ℕ) (addr : W64) (n : ℕ) : (noteFetch s k addr n).mem = s.mem ∧ (noteFetch s k addr n).nv = s.nv := by
  unfold noteFetch
  grind [kept_noteXl, kept_askStores, → both_ok, → map_ok, trapOf, holdOf, unlessDs.eq_def]
theorem kept_noteFill (s : State) (id : ℕ) : (noteFill s id).mem = s.mem ∧ (noteFill s id).nv = s.nv := by
  unfold noteFill
  grind [kept_atEnd, → both_ok, → map_ok, trapOf, holdOf, unlessDs.eq_def]
theorem kept_saWord (lat : ℕ) (d : BitVec 6) (a : BitVec 6) (b : BitVec 6) (w : BitVec 2) (op : ℕ → ℕ → ℕ → ℕ) (s : State) {u : _} (h : saWord lat d a b w op s = .ok u) : u.mem = s.mem ∧ u.nv = s.nv := by
  unfold saWord at h
  grind [→ kept_putS, → trapFirst_ok, → both_ok, → map_ok, trapOf, holdOf, unlessDs.eq_def]
theorem kept_sbWord (d : BitVec 6) (a : BitVec 6) (imm : BitVec 8) (op : W64 → W64 → W64) (s : State) {u : _} (h : sbWord d a imm op s = .ok u) : u.mem = s.mem ∧ u.nv = s.nv := by
  unfold sbWord at h
  grind [→ kept_putS, → trapFirst_ok, → both_ok, → map_ok, trapOf, holdOf, unlessDs.eq_def]
theorem kept_spillWord (s : State) (cls : ℕ) (id : ℕ) (v : Wide) (wide : Bool) {u : _} (h : spillWord s cls id v wide = .ok u) : u.mem = s.mem ∧ u.nv = s.nv := by
  unfold spillWord at h
  grind [kept_atEnd, → both_ok, → map_ok, trapOf, holdOf, unlessDs.eq_def]
theorem kept_setBranch (s : State) (target : Option W64) (bubble : Bool) : (setBranch s target bubble).mem = s.mem ∧ (setBranch s target bubble).nv = s.nv := by
  unfold setBranch
  grind [kept_State_setMy, → both_ok, → map_ok, trapOf, holdOf, unlessDs.eq_def]
theorem kept_condBranch (s : State) (a : BitVec 6) (hint : BitVec 1) (disp : BitVec 13) (p : W64 → Bool) {u : _} (h : condBranch s a hint disp p = .ok u) : u.mem = s.mem ∧ u.nv = s.nv := by
  unfold condBranch at h
  grind [kept_setBranch, → both_ok, → map_ok, trapOf, holdOf, unlessDs.eq_def]
theorem kept_doBgez (a : BitVec 6) (hint : BitVec 1) (disp : BitVec 13) (s : State) {u : _} (h : doBgez a hint disp s = .ok u) : u.mem = s.mem ∧ u.nv = s.nv := by
  unfold doBgez at h
  grind [→ kept_condBranch, → both_ok, → map_ok, trapOf, holdOf, unlessDs.eq_def]
theorem kept_doBlz (a : BitVec 6) (hint : BitVec 1) (disp : BitVec 13) (s : State) {u : _} (h : doBlz a hint disp s = .ok u) : u.mem = s.mem ∧ u.nv = s.nv := by
  unfold doBlz at h
  grind [→ kept_condBranch, → both_ok, → map_ok, trapOf, holdOf, unlessDs.eq_def]
theorem kept_doBnz (a : BitVec 6) (hint : BitVec 1) (disp : BitVec 13) (s : State) {u : _} (h : doBnz a hint disp s = .ok u) : u.mem = s.mem ∧ u.nv = s.nv := by
  unfold doBnz at h
  grind [→ kept_condBranch, → both_ok, → map_ok, trapOf, holdOf, unlessDs.eq_def]
theorem kept_doBr (_hint : BitVec 1) (disp : BitVec 13) (s : State) {u : _} (h : doBr _hint disp s = .ok u) : u.mem = s.mem ∧ u.nv = s.nv := by
  unfold doBr at h
  grind [kept_setBranch, → both_ok, → map_ok, trapOf, holdOf, unlessDs.eq_def]
theorem kept_doBrk (code : BitVec 16) (s : State) {u : _} (h : doBrk code s = .ok u) : u.mem = s.mem ∧ u.nv = s.nv := by
  unfold doBrk at h
  grind [→ both_ok, → map_ok, trapOf, holdOf, unlessDs.eq_def]
theorem kept_doBz (a : BitVec 6) (hint : BitVec 1) (disp : BitVec 13) (s : State) {u : _} (h : doBz a hint disp s = .ok u) : u.mem = s.mem ∧ u.nv = s.nv := by
  unfold doBz at h
  grind [→ kept_condBranch, → both_ok, → map_ok, trapOf, holdOf, unlessDs.eq_def]
theorem kept_doCall (_hint : BitVec 1) (disp : BitVec 13) (s : State) {u : _} (h : doCall _hint disp s = .ok u) : u.mem = s.mem ∧ u.nv = s.nv := by
  unfold doCall at h
  grind [→ kept_putS, kept_setBranch, → both_ok, → map_ok, trapOf, holdOf, unlessDs.eq_def]
theorem kept_doExit (s : State) {u : _} (h : doExit s = .ok u) : u.mem = s.mem ∧ u.nv = s.nv := by
  unfold doExit at h
  grind [kept_atEnd, → both_ok, → map_ok, trapOf, holdOf, unlessDs.eq_def]
theorem kept_doFrame (s : State) {u : _} (h : doFrame s = .ok u) : u.mem = s.mem ∧ u.nv = s.nv := by
  unfold doFrame at h
  grind [kept_atEnd, → both_ok, → map_ok, trapOf, holdOf, unlessDs.eq_def]
theorem kept_doFwcall (service : BitVec 16) (s : State) {u : _} (h : doFwcall service s = .ok u) : u.mem = s.mem ∧ u.nv = s.nv := by
  unfold doFwcall at h
  grind [kept_atEnd, → both_ok, → map_ok, trapOf, holdOf, unlessDs.eq_def]
theorem kept_doIdle (s : State) {u : _} (h : doIdle s = .ok u) : u.mem = s.mem ∧ u.nv = s.nv := by
  unfold doIdle at h
  grind [→ both_ok, → map_ok, trapOf, holdOf, unlessDs.eq_def]
theorem kept_jumpReg (s : State) (a : BitVec 6) (link : Bool) {u : _} (h : jumpReg s a link = .ok u) : u.mem = s.mem ∧ u.nv = s.nv := by
  unfold jumpReg at h
  grind [→ kept_putS, kept_setBranch, → trapFirst_ok, → both_ok, → map_ok, trapOf, holdOf, unlessDs.eq_def]
theorem kept_doJlr (a : BitVec 6) (s : State) {u : _} (h : doJlr a s = .ok u) : u.mem = s.mem ∧ u.nv = s.nv := by
  unfold doJlr at h
  grind [→ kept_jumpReg, → both_ok, → map_ok, trapOf, holdOf, unlessDs.eq_def]
theorem kept_doJr (a : BitVec 6) (s : State) {u : _} (h : doJr a s = .ok u) : u.mem = s.mem ∧ u.nv = s.nv := by
  unfold doJr at h
  grind [→ kept_jumpReg, → both_ok, → map_ok, trapOf, holdOf, unlessDs.eq_def]
theorem kept_doLexit (level : BitVec 3) (s : State) {u : _} (h : doLexit level s = .ok u) : u.mem = s.mem ∧ u.nv = s.nv := by
  unfold doLexit at h
  grind [kept_atEnd, → both_ok, → map_ok, trapOf, holdOf, unlessDs.eq_def]
theorem kept_doLoop (level : BitVec 3) (a : BitVec 6) (body : BitVec 11) (s : State) {u : _} (h : doLoop level a body s = .ok u) : u.mem = s.mem ∧ u.nv = s.nv := by
  unfold doLoop at h
  grind [kept_atEnd, → trapFirst_ok, → both_ok, → map_ok, trapOf, holdOf, unlessDs.eq_def]
theorem kept_doMfs (d : BitVec 6) (reg : BitVec 12) (s : State) {u : _} (h : doMfs d reg s = .ok u) : u.mem = s.mem ∧ u.nv = s.nv := by
  unfold doMfs at h
  grind [→ kept_putS, → both_ok, → map_ok, trapOf, holdOf, unlessDs.eq_def]
theorem kept_doMts (a : BitVec 6) (reg : BitVec 12) (s : State) {u : _} (h : doMts a reg s = .ok u) : u.mem = s.mem ∧ u.nv = s.nv := by
  unfold doMts at h
  grind [kept_atEnd, → trapFirst_ok, → both_ok, → map_ok, trapOf, holdOf, unlessDs.eq_def]
theorem kept_doTrap (code : BitVec 16) (s : State) {u : _} (h : doTrap code s = .ok u) : u.mem = s.mem ∧ u.nv = s.nv := by
  unfold doTrap at h
  grind [→ both_ok, → map_ok, trapOf, holdOf, unlessDs.eq_def]
theorem kept_doTret (s : State) {u : _} (h : doTret s = .ok u) : u.mem = s.mem ∧ u.nv = s.nv := by
  unfold doTret at h
  grind [kept_atEnd, → both_ok, → map_ok, trapOf, holdOf, unlessDs.eq_def]
theorem kept_doWait (ld : BitVec 5) (st : BitVec 5) (cp : BitVec 5) (tl : BitVec 5) (s : State) {u : _} (h : doWait ld st cp tl s = .ok u) : u.mem = s.mem ∧ u.nv = s.nv := by
  unfold doWait at h
  grind [kept_raiseFloor, → both_ok, → map_ok, trapOf, holdOf, unlessDs.eq_def]
theorem kept_execBgez (a : BitVec 6) (hint : BitVec 1) (disp : BitVec 13) (s : State) {u : _} (h : execBgez a hint disp s = .next u) : u.mem = s.mem ∧ u.nv = s.nv := by
  exact complete_kept (fun _ hu => kept_doBgez _ _ _ _ hu) (fun x => kept_takeTrap s x) h
theorem kept_execBlz (a : BitVec 6) (hint : BitVec 1) (disp : BitVec 13) (s : State) {u : _} (h : execBlz a hint disp s = .next u) : u.mem = s.mem ∧ u.nv = s.nv := by
  exact complete_kept (fun _ hu => kept_doBlz _ _ _ _ hu) (fun x => kept_takeTrap s x) h
theorem kept_execBnz (a : BitVec 6) (hint : BitVec 1) (disp : BitVec 13) (s : State) {u : _} (h : execBnz a hint disp s = .next u) : u.mem = s.mem ∧ u.nv = s.nv := by
  exact complete_kept (fun _ hu => kept_doBnz _ _ _ _ hu) (fun x => kept_takeTrap s x) h
theorem kept_execBr (hint : BitVec 1) (disp : BitVec 13) (s : State) {u : _} (h : execBr hint disp s = .next u) : u.mem = s.mem ∧ u.nv = s.nv := by
  exact complete_kept (fun _ hu => kept_doBr _ _ _ hu) (fun x => kept_takeTrap s x) h
theorem kept_execBrk (code : BitVec 16) (s : State) {u : _} (h : execBrk code s = .next u) : u.mem = s.mem ∧ u.nv = s.nv := by
  exact complete_kept (fun _ hu => kept_doBrk _ _ hu) (fun x => kept_takeTrap s x) h
theorem kept_execBz (a : BitVec 6) (hint : BitVec 1) (disp : BitVec 13) (s : State) {u : _} (h : execBz a hint disp s = .next u) : u.mem = s.mem ∧ u.nv = s.nv := by
  exact complete_kept (fun _ hu => kept_doBz _ _ _ _ hu) (fun x => kept_takeTrap s x) h
theorem kept_execCall (hint : BitVec 1) (disp : BitVec 13) (s : State) {u : _} (h : execCall hint disp s = .next u) : u.mem = s.mem ∧ u.nv = s.nv := by
  exact complete_kept (fun _ hu => kept_doCall _ _ _ hu) (fun x => kept_takeTrap s x) h
theorem kept_execExit (s : State) {u : _} (h : execExit s = .next u) : u.mem = s.mem ∧ u.nv = s.nv := by
  exact complete_kept (fun _ hu => kept_doExit _ hu) (fun x => kept_takeTrap s x) h
theorem kept_execFrame (s : State) {u : _} (h : execFrame s = .next u) : u.mem = s.mem ∧ u.nv = s.nv := by
  exact complete_kept (fun _ hu => kept_doFrame _ hu) (fun x => kept_takeTrap s x) h
theorem kept_execFwcall (service : BitVec 16) (s : State) {u : _} (h : execFwcall service s = .next u) : u.mem = s.mem ∧ u.nv = s.nv := by
  exact complete_kept (fun _ hu => kept_doFwcall _ _ hu) (fun x => kept_takeTrap s x) h
theorem kept_execIdle (s : State) {u : _} (h : execIdle s = .next u) : u.mem = s.mem ∧ u.nv = s.nv := by
  exact complete_kept (fun _ hu => kept_doIdle _ hu) (fun x => kept_takeTrap s x) h
theorem kept_execJlr (a : BitVec 6) (s : State) {u : _} (h : execJlr a s = .next u) : u.mem = s.mem ∧ u.nv = s.nv := by
  exact complete_kept (fun _ hu => kept_doJlr _ _ hu) (fun x => kept_takeTrap s x) h
theorem kept_execJr (a : BitVec 6) (s : State) {u : _} (h : execJr a s = .next u) : u.mem = s.mem ∧ u.nv = s.nv := by
  exact complete_kept (fun _ hu => kept_doJr _ _ hu) (fun x => kept_takeTrap s x) h
theorem kept_execLexit (level : BitVec 3) (s : State) {u : _} (h : execLexit level s = .next u) : u.mem = s.mem ∧ u.nv = s.nv := by
  exact complete_kept (fun _ hu => kept_doLexit _ _ hu) (fun x => kept_takeTrap s x) h
theorem kept_execLoop (level : BitVec 3) (a : BitVec 6) (body : BitVec 11) (s : State) {u : _} (h : execLoop level a body s = .next u) : u.mem = s.mem ∧ u.nv = s.nv := by
  exact complete_kept (fun _ hu => kept_doLoop _ _ _ _ hu) (fun x => kept_takeTrap s x) h
theorem kept_execMfs (d : BitVec 6) (reg : BitVec 12) (s : State) {u : _} (h : execMfs d reg s = .next u) : u.mem = s.mem ∧ u.nv = s.nv := by
  exact complete_kept (fun _ hu => kept_doMfs _ _ _ hu) (fun x => kept_takeTrap s x) h
theorem kept_execMts (a : BitVec 6) (reg : BitVec 12) (s : State) {u : _} (h : execMts a reg s = .next u) : u.mem = s.mem ∧ u.nv = s.nv := by
  exact complete_kept (fun _ hu => kept_doMts _ _ _ hu) (fun x => kept_takeTrap s x) h
theorem kept_execTrap (code : BitVec 16) (s : State) {u : _} (h : execTrap code s = .next u) : u.mem = s.mem ∧ u.nv = s.nv := by
  exact complete_kept (fun _ hu => kept_doTrap _ _ hu) (fun x => kept_takeTrap s x) h
theorem kept_execTret (s : State) {u : _} (h : execTret s = .next u) : u.mem = s.mem ∧ u.nv = s.nv := by
  exact complete_kept (fun _ hu => kept_doTret _ hu) (fun x => kept_takeTrap s x) h
theorem kept_execWait (ld : BitVec 5) (st : BitVec 5) (cp : BitVec 5) (tl : BitVec 5) (s : State) {u : _} (h : execWait ld st cp tl s = .next u) : u.mem = s.mem ∧ u.nv = s.nv := by
  exact complete_kept (fun _ hu => kept_doWait _ _ _ _ _ hu) (fun x => kept_takeTrap s x) h
theorem kept_addFences (s : State) (k : ℕ) (fs : List Fence) : (addFences s k fs).mem = s.mem ∧ (addFences s k fs).nv = s.nv := by
  unfold addFences
  grind [kept_State_setCtx, kept_raiseFloor, → both_ok, → map_ok, trapOf, holdOf, unlessDs.eq_def]
theorem kept_noteOob (s : State) (ps : List Part) : (noteOob s ps).mem = s.mem ∧ (noteOob s ps).nv = s.nv := by
  unfold noteOob
  grind [kept_atEnd, → both_ok, → map_ok, trapOf, holdOf, unlessDs.eq_def]
theorem kept_notePages (s : State) (ps : List Part) : (notePages s ps).mem = s.mem ∧ (notePages s ps).nv = s.nv := by
  unfold notePages
  grind [kept_noteXl, foldl_kept, → both_ok, → map_ok, trapOf, holdOf, unlessDs.eq_def]
theorem kept_memoryLoad (s : State) (cls : ℕ) (q : ℕ) (align : ℕ) (sext : ℕ) (us : List (Option W64 × ℕ)) {u : _} (h : memoryLoad s cls q align sext us = .ok u) : u.mem = s.mem ∧ u.nv = s.nv := by
  unfold memoryLoad at h
  grind [kept_notePages, kept_noteOob, kept_State_setMy, kept_atEnd, → both_ok, → map_ok, trapOf, holdOf, unlessDs.eq_def]
theorem kept_memoryStore (s : State) (cls : ℕ) (align : ℕ) (us : List (W64 × List Byte)) {u : _} (h : memoryStore s cls align us = .ok u) : u.mem = s.mem ∧ u.nv = s.nv := by
  unfold memoryStore at h
  grind [kept_takeSeq, kept_notePages, kept_noteOob, kept_State_setMy, → both_ok, → map_ok, trapOf, holdOf, unlessDs.eq_def]
theorem canon_settleCore (s : State) (hc : Memory.wf s.mem = true ∧ Memory.wf s.nv = true) : Memory.wf (settleCore s).mem = true ∧ Memory.wf (settleCore s).nv = true := by
  unfold settleCore
  exact ⟨wf_foldl _ (fun m x hm => wf_memWriteCells _ hm) _ hc.1, hc.2⟩
theorem kept_startAtomic (s : State) (cls : ℕ) (op : ℕ) (q : ℕ) (scope : ℕ) (order : ℕ) (va : W64) {u : _} (h : startAtomic s cls op q scope order va = .ok u) : u.mem = s.mem ∧ u.nv = s.nv := by
  unfold startAtomic at h
  grind [→ kept_takeEntries, kept_notePages, kept_noteOob, kept_State_setMy, kept_atEnd, kept_addFences, → both_ok, → map_ok, trapOf, holdOf, unlessDs.eq_def]
theorem kept_windowLoad (s : State) (cls : ℕ) (q : ℕ) (off : ℕ) (n : ℕ) (sext : ℕ) (va : W64) {u : _} (h : windowLoad s cls q off n sext va = .ok u) : u.mem = s.mem ∧ u.nv = s.nv := by
  unfold windowLoad at h
  grind [kept_State_setMy, kept_atEnd, → both_ok, → map_ok, trapOf, holdOf, unlessDs.eq_def]
theorem kept_startLoad (s : State) (cls : ℕ) (q : ℕ) (align : ℕ) (sext : ℕ) (us : List (Option W64 × ℕ)) {u : _} (h : startLoad s cls q align sext us = .ok u) : u.mem = s.mem ∧ u.nv = s.nv := by
  unfold startLoad at h
  grind [→ kept_memoryLoad, → kept_windowLoad, → both_ok, → map_ok, trapOf, holdOf, unlessDs.eq_def]
theorem kept_windowStore (s : State) (cls : ℕ) (off : ℕ) (va : W64) (bs : List Byte) {u : _} (h : windowStore s cls off va bs = .ok u) : u.mem = s.mem ∧ u.nv = s.nv := by
  unfold windowStore at h
  grind [kept_takeSeq, kept_State_setMy, → both_ok, → map_ok, trapOf, holdOf, unlessDs.eq_def]
theorem kept_startStore (s : State) (cls : ℕ) (align : ℕ) (us : List (W64 × List Byte)) {u : _} (h : startStore s cls align us = .ok u) : u.mem = s.mem ∧ u.nv = s.nv := by
  unfold startStore at h
  grind [→ kept_memoryStore, → kept_windowStore, → both_ok, → map_ok, trapOf, holdOf, unlessDs.eq_def]
theorem canon_pbarDone (s : State) (k : ℕ) (msord : W64) (cur : ℕ) (hc : Memory.wf s.mem = true ∧ Memory.wf s.nv = true) : Memory.wf (pbarDone s k msord cur).mem = true ∧ Memory.wf (pbarDone s k msord cur).nv = true := by
  unfold pbarDone
  have hw : ∀ (m : List Host.Cell) k bs, Memory.wf m = true → Memory.wf (memWrite m k bs) = true := fun m k bs h => wf_memWrite bs k h
  generalize recordSlot s (s.ctx k) = r
  grind [kept_State_setCtx]
theorem kept_pbarWord (s : State) (sl : CSlot) {u : _} (h : pbarWord s sl = .ok u) : u.mem = s.mem ∧ u.nv = s.nv := by
  unfold pbarWord at h
  grind [kept_atEnd, → both_ok, → map_ok, trapOf, holdOf, unlessDs.eq_def]
theorem kept_addReport (s : State) (k : ℕ) (r : Report) : (addReport s k r).mem = s.mem ∧ (addReport s k r).nv = s.nv := by
  unfold addReport
  grind [kept_State_setCtx, → both_ok, → map_ok, trapOf, holdOf, unlessDs.eq_def]
theorem kept_putWrite (s : State) (w : WriteRec) : (putWrite s w).mem = s.mem ∧ (putWrite s w).nv = s.nv := by
  unfold putWrite
  grind [→ both_ok, → map_ok, trapOf, holdOf, unlessDs.eq_def]
theorem kept_raiseClock (s : State) (d : ℕ) (o : ℕ) (n : ℕ) : (raiseClock s d o n).mem = s.mem ∧ (raiseClock s d o n).nv = s.nv := by
  unfold raiseClock
  grind [kept_State_setDie, → both_ok, → map_ok, trapOf, holdOf, unlessDs.eq_def]
theorem canon_foldOne (s : State) (w : WriteRec) (hc : Memory.wf s.mem = true ∧ Memory.wf s.nv = true) : Memory.wf (foldOne s w).mem = true ∧ Memory.wf (foldOne s w).nv = true := by
  unfold foldOne
  split
  · exact ⟨wf_memWriteCells _ hc.1, hc.2⟩
  · exact hc
theorem canon_settle (s : State) (hc : Memory.wf s.mem = true ∧ Memory.wf s.nv = true) : Memory.wf (settle s).mem = true ∧ Memory.wf (settle s).nv = true := by
  unfold settle
  grind [canon_foldOne, canon_settleCore, foldl_canon, → both_ok, → map_ok, trapOf, holdOf, unlessDs.eq_def]
theorem kept_tick (s : State) : (tick s).2.mem = s.mem ∧ (tick s).2.nv = s.nv := by
  unfold tick
  grind [→ both_ok, → map_ok, trapOf, holdOf, unlessDs.eq_def]
theorem canon_applyOn (s : State) (w : WriteRec) (d : ℕ) (hc : Memory.wf s.mem = true ∧ Memory.wf s.nv = true) : Memory.wf (applyOn s w d).mem = true ∧ Memory.wf (applyOn s w d).nv = true := by
  unfold applyOn
  grind [kept_tick, kept_raiseClock, canon_settle, kept_putWrite, → both_ok, → map_ok, trapOf, holdOf, unlessDs.eq_def]
theorem kept_wake (s : State) (k : ℕ) : (wake s k).mem = s.mem ∧ (wake s k).nv = s.nv := by
  unfold wake
  grind [kept_State_setCtx, → both_ok, → map_ok, trapOf, holdOf, unlessDs.eq_def]
theorem kept_arriveEntry (s : State) (l : LoadRec) (st : QState) (data : Wide) (faddr : W64) : (arriveEntry s l st data faddr).mem = s.mem ∧ (arriveEntry s l st data faddr).nv = s.nv := by
  unfold arriveEntry
  grind [kept_sampleFor, kept_State_setCtx, kept_wake, → both_ok, → map_ok, trapOf, holdOf, unlessDs.eq_def]
theorem kept_dropHeld (s : State) (k : Option ℕ) (d : ℕ) (lines : List ℕ) : (dropHeld s k d lines).mem = s.mem ∧ (dropHeld s k d lines).nv = s.nv := by
  unfold dropHeld
  grind [→ both_ok, → map_ok, trapOf, holdOf, unlessDs.eq_def]
theorem kept_meetPoison (s : State) (w : WriteRec) : (meetPoison s w).1.mem = s.mem ∧ (meetPoison s w).1.nv = s.nv := by
  unfold meetPoison
  grind [kept_noteAbort, → both_ok, → map_ok, trapOf, holdOf, unlessDs.eq_def]
theorem kept_failSwb (s : State) (w : WriteRec) : (failSwb s w).mem = s.mem ∧ (failSwb s w).nv = s.nv := by
  unfold failSwb
  grind [kept_State_setCtx, → both_ok, → map_ok, trapOf, holdOf, unlessDs.eq_def]
theorem kept_leaveEntry (s : State) (w : WriteRec) : (leaveEntry s w).mem = s.mem ∧ (leaveEntry s w).nv = s.nv := by
  unfold leaveEntry
  grind [kept_State_setCtx, → both_ok, → map_ok, trapOf, holdOf, unlessDs.eq_def]
theorem kept_stampWrite (s : State) (w : WriteRec) (atHome : Bool) : (stampWrite s w atHome).mem = s.mem ∧ (stampWrite s w atHome).nv = s.nv := by
  unfold stampWrite
  grind [kept_tick, kept_raiseClock, kept_putWrite, foldl_kept, → both_ok, → map_ok, trapOf, holdOf, unlessDs.eq_def]
theorem kept_writeBackTo (s : State) (to_ : WriteRec → ℕ) (p : WriteRec → Bool) : (writeBackTo s to_ p).mem = s.mem ∧ (writeBackTo s to_ p).nv = s.nv := by
  unfold writeBackTo
  grind [kept_meetPoison, kept_leaveEntry, kept_stampWrite, kept_failSwb, foldl_kept, → both_ok, → map_ok, trapOf, holdOf, unlessDs.eq_def]
theorem kept_writeBack (s : State) (p : WriteRec → Bool) : (writeBack s p).mem = s.mem ∧ (writeBack s p).nv = s.nv := by
  unfold writeBack
  grind [kept_writeBackTo, → both_ok, → map_ok, trapOf, holdOf, unlessDs.eq_def]
theorem kept_meetLines (s : State) (w : WriteRec) (own : Option ℕ) (also : WriteRec → Bool) : (meetLines s w own also).1.mem = s.mem ∧ (meetLines s w own also).1.nv = s.nv := by
  unfold meetLines
  grind [kept_writeBack, kept_meetPoison, kept_dropHeld, → both_ok, → map_ok, trapOf, holdOf, unlessDs.eq_def]
theorem kept_dieWrite (s : State) (w : WriteRec) : (dieWrite s w).mem = s.mem ∧ (dieWrite s w).nv = s.nv := by
  unfold dieWrite
  grind [kept_meetLines, kept_stampWrite, → both_ok, → map_ok, trapOf, holdOf, unlessDs.eq_def]
theorem kept_failBad (s : State) (w : WriteRec) : (failBad s w).mem = s.mem ∧ (failBad s w).nv = s.nv := by
  unfold failBad
  grind [kept_State_setCtx, → both_ok, → map_ok, trapOf, holdOf, unlessDs.eq_def]
theorem kept_flushWrites (s : State) (k : ℕ) : (flushWrites s k).mem = s.mem ∧ (flushWrites s k).nv = s.nv := by
  unfold flushWrites
  grind [kept_writeBack, → both_ok, → map_ok, trapOf, holdOf, unlessDs.eq_def]
theorem kept_holdLine (s : State) (k : ℕ) (i : ℕ) (va : W64) : (holdLine s k i va).mem = s.mem ∧ (holdLine s k i va).nv = s.nv := by
  unfold holdLine
  grind [kept_State_setCtx, → both_ok, → map_ok, trapOf, holdOf, unlessDs.eq_def]
theorem kept_holdLines (s : State) (k : ℕ) (space : ℕ) (vas : List W64) : (holdLines s k space vas).mem = s.mem ∧ (holdLines s k space vas).nv = s.nv := by
  unfold holdLines
  grind [kept_holdLine, foldl_kept, → both_ok, → map_ok, trapOf, holdOf, unlessDs.eq_def]
theorem kept_noteObserved (s : State) (k : ℕ) (id : ℕ) (obs : List ℕ) : (noteObserved s k id obs).mem = s.mem ∧ (noteObserved s k id obs).nv = s.nv := by
  unfold noteObserved
  grind [kept_State_setCtx, → both_ok, → map_ok, trapOf, holdOf, unlessDs.eq_def]
theorem kept_noteSaw (s : State) (k : ℕ) (path : ℕ) (seq : ℕ) (obs : List ℕ) : (noteSaw s k path seq obs).mem = s.mem ∧ (noteSaw s k path seq obs).nv = s.nv := by
  unfold noteSaw
  grind [kept_State_setCtx, → both_ok, → map_ok, trapOf, holdOf, unlessDs.eq_def]
theorem kept_passDie (s : State) (w : WriteRec) : (passDie s w).mem = s.mem ∧ (passDie s w).nv = s.nv := by
  unfold passDie
  grind [kept_meetLines, kept_tick, kept_putWrite, kept_holdLine, kept_stampWrite, kept_failBad, → both_ok, → map_ok, trapOf, holdOf, unlessDs.eq_def]
theorem canon_passStage (s : State) (w : WriteRec) (hc : Memory.wf s.mem = true ∧ Memory.wf s.nv = true) : Memory.wf (passStage s w).mem = true ∧ Memory.wf (passStage s w).nv = true := by
  unfold passStage
  grind [canon_settle, kept_passDie, kept_tick, kept_putWrite, → both_ok, → map_ok, trapOf, holdOf, unlessDs.eq_def]
theorem canon_performAtomic (s : State) (l : LoadRec) (op : ℕ) (key : ℕ) (leaf : W64) (v : W64) (e : W64) (hc : Memory.wf s.mem = true ∧ Memory.wf s.nv = true) : Memory.wf (performAtomic s l op key leaf v e).mem = true ∧ Memory.wf (performAtomic s l op key leaf v e).nv = true := by
  unfold performAtomic
  grind [kept_noteAbort, kept_askStores, kept_arriveEntry, kept_dropHeld, kept_noteTimes, kept_noteObserved, kept_stampWrite, canon_settle, wf_memWrite, wf_memWriteCells, wf_filter, foldl_canon, → both_ok, → map_ok, trapOf, holdOf, unlessDs.eq_def]
theorem kept_performRead (s : State) (l : LoadRec) (cells : List (Option (ℕ × W64))) (sext : ℕ) : (performRead s l cells sext).mem = s.mem ∧ (performRead s l cells sext).nv = s.nv := by
  unfold performRead
  grind [kept_noteAbort, kept_askStores, kept_arriveEntry, kept_noteObserved, kept_noteTimes, kept_holdLines, → both_ok, → map_ok, trapOf, holdOf, unlessDs.eq_def]
theorem kept_countError (s : State) (d : ℕ) (source : ℕ) (hard : Bool) : (countError s d source hard).mem = s.mem ∧ (countError s d source hard).nv = s.nv := by
  unfold countError
  grind [kept_setDieReg, kept_raiseSource, → both_ok, → map_ok, trapOf, holdOf, unlessDs.eq_def]
theorem canon_unitStore (s : State) (x : Xl) (die : ℕ) (space : ℕ) (va : W64) (sys : Bool) (bs : List Byte) (hc : Memory.wf s.mem = true ∧ Memory.wf s.nv = true) {u : _} (h : unitStore s x die space va sys bs = .ok u) : Memory.wf u.mem = true ∧ Memory.wf u.nv = true := by
  unfold unitStore at h
  grind [kept_takeId, canon_settle, kept_dieWrite, → both_ok, → map_ok, trapOf, holdOf, unlessDs.eq_def]
theorem canon_dieStore (s : State) (d : ℕ) (space : ℕ) (va : W64) (bs : List Byte) (hc : Memory.wf s.mem = true ∧ Memory.wf s.nv = true) {u : _} (h : dieStore s d space va bs = .ok u) : Memory.wf u.mem = true ∧ Memory.wf u.nv = true := by
  unfold dieStore at h
  grind [→ canon_unitStore, → bind_ok, → both_ok, → map_ok, trapOf, holdOf, unlessDs.eq_def]
theorem canon_putBlocks (put : State → W64 → List Byte → Except XErr State)
    (hp : ∀ s va bs t, put s va bs = .ok t → Memory.wf s.mem = true ∧ Memory.wf s.nv = true → Memory.wf t.mem = true ∧ Memory.wf t.nv = true)
    (s : State) (fuel : ℕ) (va : W64) (bs : List Byte) (hc : Memory.wf s.mem = true ∧ Memory.wf s.nv = true) {u : State}
    (h : putBlocks put s fuel va bs = .ok u) : Memory.wf u.mem = true ∧ Memory.wf u.nv = true := by
  induction fuel generalizing s va bs with
  | zero => grind [putBlocks]
  | succ n ih =>
    rw [putBlocks] at h
    grind [→ bind_ok]
theorem canon_dieBlocks (s : State) (d : ℕ) (space : ℕ) (va : W64) (bs : List Byte) (hc : Memory.wf s.mem = true ∧ Memory.wf s.nv = true) {u : _} (h : dieBlocks s d space va bs = .ok u) : Memory.wf u.mem = true ∧ Memory.wf u.nv = true := by
  unfold dieBlocks at h
  exact canon_putBlocks _ (fun _ _ _ _ h1 h2 => canon_dieStore _ _ _ _ _ h2 h1) _ _ _ _ hc h
theorem kept_setTrace (s : State) (d : ℕ) (i : ℕ) (t : TraceSes) : (setTrace s d i t).mem = s.mem ∧ (setTrace s d i t).nv = s.nv := by
  unfold setTrace
  grind [kept_State_setDie, → both_ok, → map_ok, trapOf, holdOf, unlessDs.eq_def]
theorem canon_traceBlocks (s : State) (d : ℕ) (t : TraceSes) (bs : List Byte) (hc : Memory.wf s.mem = true ∧ Memory.wf s.nv = true) {u : _} (h : traceBlocks s d t bs = .ok u) : Memory.wf u.mem = true ∧ Memory.wf u.nv = true := by
  unfold traceBlocks at h
  grind [→ canon_dieBlocks, → bind_ok]
theorem canon_putTrace (s : State) (d : ℕ) (i : ℕ) (bs : List Byte) (hc : Memory.wf s.mem = true ∧ Memory.wf s.nv = true) : Memory.wf (putTrace s d i bs).mem = true ∧ Memory.wf (putTrace s d i bs).nv = true := by
  unfold putTrace
  grind [→ canon_traceBlocks, kept_setTrace, → both_ok, → map_ok, trapOf, holdOf, unlessDs.eq_def]
theorem canon_endTrace (s : State) (d : ℕ) (i : ℕ) (reason : ℕ) (hc : Memory.wf s.mem = true ∧ Memory.wf s.nv = true) : Memory.wf (endTrace s d i reason).mem = true ∧ Memory.wf (endTrace s d i reason).nv = true := by
  unfold endTrace
  grind [canon_putTrace, kept_raiseSource, kept_setTrace, → both_ok, → map_ok, trapOf, holdOf, unlessDs.eq_def]
theorem canon_traceInto (s : State) (d : ℕ) (i : ℕ) (bs : List Byte) (hc : Memory.wf s.mem = true ∧ Memory.wf s.nv = true) : Memory.wf (traceInto s d i bs).mem = true ∧ Memory.wf (traceInto s d i bs).nv = true := by
  unfold traceInto
  grind [canon_endTrace, canon_putTrace, → both_ok, → map_ok, trapOf, holdOf, unlessDs.eq_def]
theorem canon_traceAll (s : State) (d : ℕ) (type : ℕ) (launch : ℕ) (bs : List Byte) (hc : Memory.wf s.mem = true ∧ Memory.wf s.nv = true) : Memory.wf (traceAll s d type launch bs).mem = true ∧ Memory.wf (traceAll s d type launch bs).nv = true := by
  unfold traceAll
  grind [canon_traceInto, foldl_canon, → both_ok, → map_ok, trapOf, holdOf, unlessDs.eq_def]
theorem canon_logRecord (s : State) (d : ℕ) (source : ℕ) (key : ℕ) (vaddr : W64) (seq : W32) (lcore : ℕ) (hc : Memory.wf s.mem = true ∧ Memory.wf s.nv = true) : Memory.wf (logRecord s d source key vaddr seq lcore).mem = true ∧ Memory.wf (logRecord s d source key vaddr seq lcore).nv = true := by
  unfold logRecord
  grind [kept_State_tell, kept_State_setDie, kept_countError, kept_raiseSource, canon_traceAll, → both_ok, → map_ok, trapOf, holdOf, unlessDs.eq_def]
theorem canon_abortLink (s : State) (core : ℕ) (key : ℕ) (va : W64) (seq : W32) (hc : Memory.wf s.mem = true ∧ Memory.wf s.nv = true) : Memory.wf (abortLink s core key va seq).mem = true ∧ Memory.wf (abortLink s core key va seq).nv = true := by
  unfold abortLink
  grind [canon_logRecord, → both_ok, → map_ok, trapOf, holdOf, unlessDs.eq_def]
theorem canon_endTracesOf (s : State) (d : ℕ) (l : ℕ) (reason : ℕ) (hc : Memory.wf s.mem = true ∧ Memory.wf s.nv = true) : Memory.wf (endTracesOf s d l reason).mem = true ∧ Memory.wf (endTracesOf s d l reason).nv = true := by
  unfold endTracesOf
  grind [canon_endTrace, foldl_canon, → both_ok, → map_ok, trapOf, holdOf, unlessDs.eq_def]
theorem canon_endTracesEvery (s : State) (l : ℕ) (reason : ℕ) (hc : Memory.wf s.mem = true ∧ Memory.wf s.nv = true) : Memory.wf (endTracesEvery s l reason).mem = true ∧ Memory.wf (endTracesEvery s l reason).nv = true := by
  unfold endTracesEvery
  grind [canon_endTracesOf, foldl_canon, → both_ok, → map_ok, trapOf, holdOf, unlessDs.eq_def]
theorem canon_logError (s : State) (d : ℕ) (source : ℕ) (key : ℕ) (vaddr : W64) (seq : W32) (lcore : ℕ) (hc : Memory.wf s.mem = true ∧ Memory.wf s.nv = true) : Memory.wf (logError s d source key vaddr seq lcore).mem = true ∧ Memory.wf (logError s d source key vaddr seq lcore).nv = true := by
  unfold logError
  grind [canon_logRecord, → both_ok, → map_ok, trapOf, holdOf, unlessDs.eq_def]
theorem kept_clearLost (s : State) (d : ℕ) (p : ℕ) (is : List ℕ) : (clearLost s d p is).mem = s.mem ∧ (clearLost s d p is).nv = s.nv := by
  unfold clearLost
  exact kept_setPhysAt ..
theorem canon_lostSnapshot (s : State) (k : ℕ) (lvl : ℕ) (hc : Memory.wf s.mem = true ∧ Memory.wf s.nv = true) : Memory.wf (lostSnapshot s k lvl).mem = true ∧ Memory.wf (lostSnapshot s k lvl).nv = true := by
  unfold lostSnapshot
  grind [kept_clearLost, canon_traceInto, kept_setRel, foldl_canon, → both_ok, → map_ok, trapOf, holdOf, unlessDs.eq_def]
theorem canon_traceLaunch (s : State) (l : ℕ) (sub : ℕ) (hc : Memory.wf s.mem = true ∧ Memory.wf s.nv = true) : Memory.wf (traceLaunch s l sub).mem = true ∧ Memory.wf (traceLaunch s l sub).nv = true := by
  unfold traceLaunch
  grind [canon_traceAll, foldl_canon, → both_ok, → map_ok, trapOf, holdOf, unlessDs.eq_def]
theorem kept_bindStash (s : State) (idx : ℕ) (n : ℕ) (va : W64) : (bindStash s idx n va).mem = s.mem ∧ (bindStash s idx n va).nv = s.nv := by
  unfold bindStash
  grind [kept_State_setMy, foldl_kept, → both_ok, → map_ok, trapOf, holdOf, unlessDs.eq_def]
theorem canon_placeSteps (s : State) (hc : Memory.wf s.mem = true ∧ Memory.wf s.nv = true) : Memory.wf (placeSteps s).mem = true ∧ Memory.wf (placeSteps s).nv = true := by
  unfold placeSteps
  grind [canon_settle, kept_writeBackTo, → both_ok, → map_ok, trapOf, holdOf, unlessDs.eq_def]
theorem canon_endStep (s : State) (k : ℕ) (hc : Memory.wf s.mem = true ∧ Memory.wf s.nv = true) : Memory.wf (endStep s k).mem = true ∧ Memory.wf (endStep s k).nv = true := by
  unfold endStep
  grind [kept_State_setCtx, canon_placeSteps, kept_doneUnits, → both_ok, → map_ok, trapOf, holdOf, unlessDs.eq_def]
theorem canon_controlFx (s : State) (fx : List EndFx) (hc : Memory.wf s.mem = true ∧ Memory.wf s.nv = true) : Memory.wf (controlFx s fx).mem = true ∧ Memory.wf (controlFx s fx).nv = true := by
  unfold controlFx
  grind [canon_endStep, kept_State_setMy, kept_haltCtx, foldl_canon]
theorem kept_mtsEffect (s : State) (n : ℕ) (v : W64) : (mtsEffect s n v).mem = s.mem ∧ (mtsEffect s n v).nv = s.nv := by
  unfold mtsEffect
  grind [kept_State_setCore, kept_State_setMy, → both_ok, → map_ok, trapOf, holdOf, unlessDs.eq_def]
theorem kept_stashDiscard (s : State) (k : ℕ) (p : ℕ → Bool) : (stashDiscard s k p).mem = s.mem ∧ (stashDiscard s k p).nv = s.nv := by
  unfold stashDiscard
  grind [→ both_ok, → map_ok, trapOf, holdOf, unlessDs.eq_def]
theorem kept_stashRelease (s : State) (k : ℕ) (p : ℕ → Bool) : (stashRelease s k p).mem = s.mem ∧ (stashRelease s k p).nv = s.nv := by
  unfold stashRelease
  grind [kept_writeBack, → both_ok, → map_ok, trapOf, holdOf, unlessDs.eq_def]
theorem canon_endFx (s : State) (fx : EndFx) (hc : Memory.wf s.mem = true ∧ Memory.wf s.nv = true) : Memory.wf (endFx s fx).mem = true ∧ Memory.wf (endFx s fx).nv = true := by
  have e1 := fun k p => kept_stashRelease s k p
  have e2 := fun k p => kept_stashDiscard s k p
  unfold endFx
  dsimp only
  cases fx <;> grind [kept_State_setMy, kept_mtsEffect, kept_bindStash, kept_State_setCore, canon_pbarDone]
theorem kept_updateRemote (s : State) (k : ℕ) : (updateRemote s k).mem = s.mem ∧ (updateRemote s k).nv = s.nv := by
  unfold updateRemote
  grind [kept_State_setCtx, → both_ok, → map_ok, trapOf, holdOf, unlessDs.eq_def]
theorem canon_finishBundle (s : State) (mask : BitVec 8) (hc : Memory.wf s.mem = true ∧ Memory.wf s.nv = true) : Memory.wf (finishBundle s mask).mem = true ∧ Memory.wf (finishBundle s mask).nv = true := by
  have e1 := fun u fx hu => canon_controlFx u fx hu
  have e2 := fun u k => kept_updateRemote u k
  have e3 := fun u d x f v => kept_sample u d x f v
  have e4 := fun (xs : List Nat) (u : State) hu => foldl_canon (fun (s : State) l => lostSnapshot s s.me l) (fun s l h => canon_lostSnapshot s s.me l h) xs u hu
  have e5 := fun (xs : List EndFx) (u : State) hu => foldl_canon endFx (fun s x h => canon_endFx s x h) xs u hu
  unfold finishBundle
  grind [kept_State_setMy]
theorem canon_notePlaced (s : State) (l : ℕ) (lo : ℕ) (hi : ℕ) (die : ℕ) (hc : Memory.wf s.mem = true ∧ Memory.wf s.nv = true) : Memory.wf (notePlaced s l lo hi die).mem = true ∧ Memory.wf (notePlaced s l lo hi die).nv = true := by
  unfold notePlaced
  grind [kept_takeId, canon_placeSteps, kept_State_setLaunch, → both_ok, → map_ok, trapOf, holdOf, unlessDs.eq_def]
theorem canon_moveShare (s : State) (k : ℕ) (a : ℕ) (b : ℕ) (hc : Memory.wf s.mem = true ∧ Memory.wf s.nv = true) : Memory.wf (moveShare s k a b).mem = true ∧ Memory.wf (moveShare s k a b).nv = true := by
  unfold moveShare
  grind [wf_memWrite, wf_memWriteCells, wf_filter, → both_ok, → map_ok, trapOf, holdOf, unlessDs.eq_def]
theorem canon_captureShare (s : State) (k : ℕ) (hc : Memory.wf s.mem = true ∧ Memory.wf s.nv = true) : Memory.wf (captureShare s k).mem = true ∧ Memory.wf (captureShare s k).nv = true := by
  unfold captureShare
  grind [canon_settle, kept_writeBack, canon_moveShare, kept_State_setCtx, → both_ok, → map_ok, trapOf, holdOf, unlessDs.eq_def]
theorem canon_clearSlot (s : State) (space : ℕ) (e : ℕ × ℕ) (hc : Memory.wf s.mem = true ∧ Memory.wf s.nv = true) : Memory.wf (clearSlot s space e).mem = true ∧ Memory.wf (clearSlot s space e).nv = true := by
  unfold clearSlot
  grind [wf_memWrite, wf_memWriteCells, wf_filter, → both_ok, → map_ok, trapOf, holdOf, unlessDs.eq_def]
theorem kept_freeSlotsOf (s : State) (k : ℕ) : (freeSlotsOf s k).mem = s.mem ∧ (freeSlotsOf s k).nv = s.nv := by
  unfold freeSlotsOf
  grind [→ both_ok, → map_ok, trapOf, holdOf, unlessDs.eq_def]
theorem canon_clearSlots (s : State) (k : ℕ) (hc : Memory.wf s.mem = true ∧ Memory.wf s.nv = true) : Memory.wf (clearSlots s k).mem = true ∧ Memory.wf (clearSlots s k).nv = true := by
  unfold clearSlots
  grind [kept_freeSlotsOf, canon_clearSlot, foldl_canon, → both_ok, → map_ok, trapOf, holdOf, unlessDs.eq_def]
theorem canon_evictShares (s : State) (core : ℕ) (h : Share) (k : ℕ) (hc : Memory.wf s.mem = true ∧ Memory.wf s.nv = true) : Memory.wf (evictShares s core h k).mem = true ∧ Memory.wf (evictShares s core h k).nv = true := by
  unfold evictShares
  grind [canon_captureShare, foldl_canon, → both_ok, → map_ok, trapOf, holdOf, unlessDs.eq_def]
theorem canon_localWrite (s : State) (k : ℕ) (o : ℕ) (bs : List Byte) (hc : Memory.wf s.mem = true ∧ Memory.wf s.nv = true) : Memory.wf (localWrite s k o bs).mem = true ∧ Memory.wf (localWrite s k o bs).nv = true := by
  unfold localWrite
  grind [wf_memWrite, wf_memWriteCells, wf_filter, → both_ok, → map_ok, trapOf, holdOf, unlessDs.eq_def]
theorem canon_restoreShare (s : State) (k : ℕ) (core : ℕ) (hc : Memory.wf s.mem = true ∧ Memory.wf s.nv = true) : Memory.wf (restoreShare s k core).mem = true ∧ Memory.wf (restoreShare s k core).nv = true := by
  unfold restoreShare
  grind [canon_captureShare, canon_evictShares, kept_State_setCtx, canon_moveShare, kept_State_setCore, → both_ok, → map_ok, trapOf, holdOf, unlessDs.eq_def]
theorem kept_endCtx (s : State) (ctx : ℕ) : (endCtx s ctx).mem = s.mem ∧ (endCtx s ctx).nv = s.nv := by
  unfold endCtx
  grind [kept_State_setLaunch, kept_State_setCtx, → both_ok, → map_ok, trapOf, holdOf, unlessDs.eq_def]
theorem kept_dropSeatSteals (s : State) (core : ℕ) (seat : ℕ) : (dropSeatSteals s core seat).mem = s.mem ∧ (dropSeatSteals s core seat).nv = s.nv := by
  unfold dropSeatSteals
  grind [→ both_ok, → map_ok, trapOf, holdOf, unlessDs.eq_def]
theorem kept_forgetLog (s : State) (core : ℕ) (k : ℕ) : (forgetLog s core k).mem = s.mem ∧ (forgetLog s core k).nv = s.nv := by
  unfold forgetLog
  grind [kept_setRel, → both_ok, → map_ok, trapOf, holdOf, unlessDs.eq_def]
theorem canon_takeBank (s : State) (core : ℕ) (bank : ℕ) (k : ℕ) (dom : ℕ) (hc : Memory.wf s.mem = true ∧ Memory.wf s.nv = true) : Memory.wf (takeBank s core bank k dom).mem = true ∧ Memory.wf (takeBank s core bank k dom).nv = true := by
  unfold takeBank
  grind [canon_clearSlots, kept_forgetLog, kept_State_setCtx, kept_State_setCore, → both_ok, → map_ok, trapOf, holdOf, unlessDs.eq_def]
theorem canon_startBank (s : State) (core : ℕ) (bank : ℕ) (k : ℕ) (run : Run) (msord : W64) (entry : W64) (start : ℕ) (f : Ctx → Ctx) (hc : Memory.wf s.mem = true ∧ Memory.wf s.nv = true) : Memory.wf (startBank s core bank k run msord entry start f).mem = true ∧ Memory.wf (startBank s core bank k run msord entry start f).nv = true := by
  unfold startBank
  grind [canon_evictShares, canon_settle, kept_writeBack, canon_takeBank, kept_dropSeatSteals, kept_raiseFloor, kept_State_setCtx, kept_State_setCore, → both_ok, → map_ok, trapOf, holdOf, unlessDs.eq_def]
theorem canon_doSpawned (s : State) (core : ℕ) (bank : ℕ) (args : Wide) (entry : W64) (hc : Memory.wf s.mem = true ∧ Memory.wf s.nv = true) : Memory.wf (doSpawned s core bank args entry).mem = true ∧ Memory.wf (doSpawned s core bank args entry).nv = true := by
  unfold doSpawned
  grind [canon_startBank, kept_endCtx, → both_ok, → map_ok, trapOf, holdOf, unlessDs.eq_def]
theorem kept_cutWalkers (s : State) (l : ℕ) : (cutWalkers s l).mem = s.mem ∧ (cutWalkers s l).nv = s.nv := by
  unfold cutWalkers
  grind [kept_failUnits, kept_State_setCtx, foldl_kept, → both_ok, → map_ok, trapOf, holdOf, unlessDs.eq_def]
theorem kept_discardHeld (s : State) (l : ℕ) : (discardHeld s l).mem = s.mem ∧ (discardHeld s l).nv = s.nv := by
  unfold discardHeld
  grind [→ both_ok, → map_ok, trapOf, holdOf, unlessDs.eq_def]
theorem kept_unqueue (s : State) (l : ℕ) : (unqueue s l).mem = s.mem ∧ (unqueue s l).nv = s.nv := by
  unfold unqueue
  grind [→ both_ok, → map_ok, trapOf, holdOf, unlessDs.eq_def]
theorem kept_cancelLaunch (s : State) (l : ℕ) : (cancelLaunch s l).mem = s.mem ∧ (cancelLaunch s l).nv = s.nv := by
  unfold cancelLaunch
  grind [kept_unqueue, kept_State_setLaunch, kept_discardHeld, kept_cutWalkers, kept_failUnits, → both_ok, → map_ok, trapOf, holdOf, unlessDs.eq_def]
theorem kept_cancelItem (s : State) (level : ℕ) (ident : ℕ) : (cancelItem s level ident).mem = s.mem ∧ (cancelItem s level ident).nv = s.nv := by
  unfold cancelItem
  grind [kept_cancelLaunch, foldl_kept, → both_ok, → map_ok, trapOf, holdOf, unlessDs.eq_def]
theorem kept_endCmd (s : State) (k : ℕ) (x : Cmd) : (endCmd s k x).mem = s.mem ∧ (endCmd s k x).nv = s.nv := by
  unfold endCmd
  grind [kept_State_setCtx, kept_addReport, kept_wake, kept_sampleFor, → both_ok, → map_ok, trapOf, holdOf, unlessDs.eq_def]
theorem canon_execCrossDieApply (id : ℕ) (die : ℕ) (s : State) (hc : Memory.wf s.mem = true ∧ Memory.wf s.nv = true) {u : _} (h : execCrossDieApply id die s = .next u) : Memory.wf u.mem = true ∧ Memory.wf u.nv = true := by
  unfold execCrossDieApply at h
  grind [canon_applyOn, → both_ok, → map_ok, trapOf, holdOf, unlessDs.eq_def]
theorem canon_execLoadQueueArrival (id : ℕ) (s : State) (hc : Memory.wf s.mem = true ∧ Memory.wf s.nv = true) {u : _} (h : execLoadQueueArrival id s = .next u) : Memory.wf u.mem = true ∧ Memory.wf u.nv = true := by
  unfold execLoadQueueArrival at h
  grind [kept_arriveEntry, canon_abortLink, kept_performRead, canon_settle, kept_writeBack, canon_performAtomic, → both_ok, → map_ok, trapOf, holdOf, unlessDs.eq_def]
theorem canon_execPbarCompletion (ctx : ℕ) (s : State) (hc : Memory.wf s.mem = true ∧ Memory.wf s.nv = true) {u : _} (h : execPbarCompletion ctx s = .next u) : Memory.wf u.mem = true ∧ Memory.wf u.nv = true := by
  unfold execPbarCompletion at h
  grind [canon_pbarDone, → both_ok, → map_ok, trapOf, holdOf, unlessDs.eq_def]
theorem canon_execPersistArrival (id : ℕ) (s : State) (hc : Memory.wf s.mem = true ∧ Memory.wf s.nv = true) {u : _} (h : execPersistArrival id s = .next u) : Memory.wf u.mem = true ∧ Memory.wf u.nv = true := by
  unfold execPersistArrival at h
  have hw : ∀ cs, Memory.wf (memWriteCells s.nv cs) = true := fun cs => wf_memWriteCells cs hc.2
  grind [kept_putWrite, canon_settle]
theorem canon_execStashWriteback (ctx : ℕ) (index : ℕ) (s : State) (hc : Memory.wf s.mem = true ∧ Memory.wf s.nv = true) {u : _} (h : execStashWriteback ctx index s = .next u) : Memory.wf u.mem = true ∧ Memory.wf u.nv = true := by
  unfold execStashWriteback at h
  grind [canon_settle, kept_writeBackTo, → both_ok, → map_ok, trapOf, holdOf, unlessDs.eq_def]
theorem canon_execStoreCompletion (id : ℕ) (s : State) (hc : Memory.wf s.mem = true ∧ Memory.wf s.nv = true) {u : _} (h : execStoreCompletion id s = .next u) : Memory.wf u.mem = true ∧ Memory.wf u.nv = true := by
  unfold execStoreCompletion at h
  grind [kept_State_setCtx, kept_addReport, canon_settle, kept_wake, kept_sampleFor, → both_ok, → map_ok, trapOf, holdOf, unlessDs.eq_def]
theorem kept_putCmd (s : State) (k : ℕ) (x : Cmd) : (putCmd s k x).mem = s.mem ∧ (putCmd s k x).nv = s.nv := by
  unfold putCmd
  grind [kept_State_setCtx, → both_ok, → map_ok, trapOf, holdOf, unlessDs.eq_def]
theorem canon_execSwbCompletion (ctx : ℕ) (seq : W32) (s : State) (hc : Memory.wf s.mem = true ∧ Memory.wf s.nv = true) {u : _} (h : execSwbCompletion ctx seq s = .next u) : Memory.wf u.mem = true ∧ Memory.wf u.nv = true := by
  unfold execSwbCompletion at h
  grind [kept_endCmd, canon_settle, kept_writeBack, kept_putCmd, → both_ok, → map_ok, trapOf, holdOf, unlessDs.eq_def]
theorem canon_execWriteStagePass (id : ℕ) (s : State) (hc : Memory.wf s.mem = true ∧ Memory.wf s.nv = true) {u : _} (h : execWriteStagePass id s = .next u) : Memory.wf u.mem = true ∧ Memory.wf u.nv = true := by
  unfold execWriteStagePass at h
  grind [canon_passStage, canon_abortLink, kept_putWrite, → both_ok, → map_ok, trapOf, holdOf, unlessDs.eq_def]
theorem kept_addPathFence (s : State) (k : ℕ) (f : PathFence) : (addPathFence s k f).mem = s.mem ∧ (addPathFence s k f).nv = s.nv := by
  unfold addPathFence
  grind [kept_State_setCtx, kept_raiseFloor, foldl_kept, → both_ok, → map_ok, trapOf, holdOf, unlessDs.eq_def]
theorem kept_atWord (op : ℕ) (sl : CSlot) (base : BitVec 4) (q : BitVec 3) (scope : BitVec 3) (order : BitVec 2) (disp : BitVec 9) (s : State) {u : _} (h : atWord op sl base q scope order disp s = .ok u) : u.mem = s.mem ∧ u.nv = s.nv := by
  unfold atWord at h
  grind [kept_flushWrites, → kept_startAtomic, → both_ok, → map_ok, trapOf, holdOf, unlessDs.eq_def]
theorem kept_doAadd (sl : CSlot) (base : BitVec 4) (q : BitVec 3) (scope : BitVec 3) (order : BitVec 2) (disp : BitVec 9) (s : State) {u : _} (h : doAadd sl base q scope order disp s = .ok u) : u.mem = s.mem ∧ u.nv = s.nv := by
  unfold doAadd at h
  grind [→ kept_atWord, → both_ok, → map_ok, trapOf, holdOf, unlessDs.eq_def]
theorem kept_doAand (sl : CSlot) (base : BitVec 4) (q : BitVec 3) (scope : BitVec 3) (order : BitVec 2) (disp : BitVec 9) (s : State) {u : _} (h : doAand sl base q scope order disp s = .ok u) : u.mem = s.mem ∧ u.nv = s.nv := by
  unfold doAand at h
  grind [→ kept_atWord, → both_ok, → map_ok, trapOf, holdOf, unlessDs.eq_def]
theorem kept_doAcas (sl : CSlot) (base : BitVec 4) (q : BitVec 3) (scope : BitVec 3) (order : BitVec 2) (disp : BitVec 9) (s : State) {u : _} (h : doAcas sl base q scope order disp s = .ok u) : u.mem = s.mem ∧ u.nv = s.nv := by
  unfold doAcas at h
  grind [→ kept_atWord, → both_ok, → map_ok, trapOf, holdOf, unlessDs.eq_def]
theorem kept_doAfadd (sl : CSlot) (base : BitVec 4) (q : BitVec 3) (scope : BitVec 3) (order : BitVec 2) (disp : BitVec 9) (s : State) {u : _} (h : doAfadd sl base q scope order disp s = .ok u) : u.mem = s.mem ∧ u.nv = s.nv := by
  unfold doAfadd at h
  grind [→ kept_atWord, → both_ok, → map_ok, trapOf, holdOf, unlessDs.eq_def]
theorem kept_doAmax (sl : CSlot) (base : BitVec 4) (q : BitVec 3) (scope : BitVec 3) (order : BitVec 2) (disp : BitVec 9) (s : State) {u : _} (h : doAmax sl base q scope order disp s = .ok u) : u.mem = s.mem ∧ u.nv = s.nv := by
  unfold doAmax at h
  grind [→ kept_atWord, → both_ok, → map_ok, trapOf, holdOf, unlessDs.eq_def]
theorem kept_doAmaxn (sl : CSlot) (base : BitVec 4) (q : BitVec 3) (scope : BitVec 3) (order : BitVec 2) (disp : BitVec 9) (s : State) {u : _} (h : doAmaxn sl base q scope order disp s = .ok u) : u.mem = s.mem ∧ u.nv = s.nv := by
  unfold doAmaxn at h
  grind [→ kept_atWord, → both_ok, → map_ok, trapOf, holdOf, unlessDs.eq_def]
theorem kept_doAmin (sl : CSlot) (base : BitVec 4) (q : BitVec 3) (scope : BitVec 3) (order : BitVec 2) (disp : BitVec 9) (s : State) {u : _} (h : doAmin sl base q scope order disp s = .ok u) : u.mem = s.mem ∧ u.nv = s.nv := by
  unfold doAmin at h
  grind [→ kept_atWord, → both_ok, → map_ok, trapOf, holdOf, unlessDs.eq_def]
theorem kept_doAminn (sl : CSlot) (base : BitVec 4) (q : BitVec 3) (scope : BitVec 3) (order : BitVec 2) (disp : BitVec 9) (s : State) {u : _} (h : doAminn sl base q scope order disp s = .ok u) : u.mem = s.mem ∧ u.nv = s.nv := by
  unfold doAminn at h
  grind [→ kept_atWord, → both_ok, → map_ok, trapOf, holdOf, unlessDs.eq_def]
theorem kept_doAor (sl : CSlot) (base : BitVec 4) (q : BitVec 3) (scope : BitVec 3) (order : BitVec 2) (disp : BitVec 9) (s : State) {u : _} (h : doAor sl base q scope order disp s = .ok u) : u.mem = s.mem ∧ u.nv = s.nv := by
  unfold doAor at h
  grind [→ kept_atWord, → both_ok, → map_ok, trapOf, holdOf, unlessDs.eq_def]
theorem kept_doAxch (sl : CSlot) (base : BitVec 4) (q : BitVec 3) (scope : BitVec 3) (order : BitVec 2) (disp : BitVec 9) (s : State) {u : _} (h : doAxch sl base q scope order disp s = .ok u) : u.mem = s.mem ∧ u.nv = s.nv := by
  unfold doAxch at h
  grind [→ kept_atWord, → both_ok, → map_ok, trapOf, holdOf, unlessDs.eq_def]
theorem kept_doCadd (sl : CSlot) (d : BitVec 4) (a : BitVec 4) (imm : BitVec 13) (s : State) {u : _} (h : doCadd sl d a imm s = .ok u) : u.mem = s.mem ∧ u.nv = s.nv := by
  unfold doCadd at h
  grind [→ kept_putC, → both_ok, → map_ok, trapOf, holdOf, unlessDs.eq_def]
theorem kept_doCget (sl : CSlot) (d : BitVec 4) (file : BitVec 3) (idx : BitVec 6) (lane : BitVec 4) (s : State) {u : _} (h : doCget sl d file idx lane s = .ok u) : u.mem = s.mem ∧ u.nv = s.nv := by
  unfold doCget at h
  grind [→ kept_putC, → both_ok, → map_ok, trapOf, holdOf, unlessDs.eq_def]
theorem kept_doCli (sl : CSlot) (d : BitVec 4) (a : BitVec 4) (imm : BitVec 13) (s : State) {u : _} (h : doCli sl d a imm s = .ok u) : u.mem = s.mem ∧ u.nv = s.nv := by
  unfold doCli at h
  grind [→ kept_putC, → both_ok, → map_ok, trapOf, holdOf, unlessDs.eq_def]
theorem kept_doCnop (_sl : CSlot) (s : State) {u : _} (h : doCnop _sl s = .ok u) : u.mem = s.mem ∧ u.nv = s.nv := by
  unfold doCnop at h
  grind [→ both_ok, → map_ok, trapOf, holdOf, unlessDs.eq_def]
theorem kept_doCstr (sl : CSlot) (d : BitVec 4) (level : BitVec 3) (sreg : BitVec 6) (s : State) {u : _} (h : doCstr sl d level sreg s = .ok u) : u.mem = s.mem ∧ u.nv = s.nv := by
  unfold doCstr at h
  grind [kept_atEnd, → both_ok, → map_ok, trapOf, holdOf, unlessDs.eq_def]
theorem kept_doFence (_sl : CSlot) (scope : BitVec 3) (order : BitVec 2) (s : State) {u : _} (h : doFence _sl scope order s = .ok u) : u.mem = s.mem ∧ u.nv = s.nv := by
  unfold doFence at h
  grind [kept_addFences, kept_flushWrites, → both_ok, → map_ok, trapOf, holdOf, unlessDs.eq_def]
theorem kept_doFencex (_sl : CSlot) (from_ : BitVec 3) (to_ : BitVec 3) (scope : BitVec 3) (s : State) {u : _} (h : doFencex _sl from_ to_ scope s = .ok u) : u.mem = s.mem ∧ u.nv = s.nv := by
  unfold doFencex at h
  grind [kept_flushWrites, kept_addPathFence, → both_ok, → map_ok, trapOf, holdOf, unlessDs.eq_def]
theorem kept_ldWord (sl : CSlot) (base : BitVec 4) (q : BitVec 3) (disp : BitVec 14) (n : ℕ) (align : ℕ) (sext : ℕ) (s : State) {u : _} (h : ldWord sl base q disp n align sext s = .ok u) : u.mem = s.mem ∧ u.nv = s.nv := by
  unfold ldWord at h
  grind [→ kept_startLoad, → both_ok, → map_ok, trapOf, holdOf, unlessDs.eq_def]
theorem kept_doLd64 (sl : CSlot) (base : BitVec 4) (q : BitVec 3) (disp : BitVec 14) (s : State) {u : _} (h : doLd64 sl base q disp s = .ok u) : u.mem = s.mem ∧ u.nv = s.nv := by
  unfold doLd64 at h
  grind [→ kept_ldWord, → both_ok, → map_ok, trapOf, holdOf, unlessDs.eq_def]
theorem kept_doLdi16 (sl : CSlot) (base : BitVec 4) (q : BitVec 3) (disp : BitVec 14) (s : State) {u : _} (h : doLdi16 sl base q disp s = .ok u) : u.mem = s.mem ∧ u.nv = s.nv := by
  unfold doLdi16 at h
  grind [→ kept_ldWord, → both_ok, → map_ok, trapOf, holdOf, unlessDs.eq_def]
theorem kept_doLdi32 (sl : CSlot) (base : BitVec 4) (q : BitVec 3) (disp : BitVec 14) (s : State) {u : _} (h : doLdi32 sl base q disp s = .ok u) : u.mem = s.mem ∧ u.nv = s.nv := by
  unfold doLdi32 at h
  grind [→ kept_ldWord, → both_ok, → map_ok, trapOf, holdOf, unlessDs.eq_def]
theorem kept_doLdi8 (sl : CSlot) (base : BitVec 4) (q : BitVec 3) (disp : BitVec 14) (s : State) {u : _} (h : doLdi8 sl base q disp s = .ok u) : u.mem = s.mem ∧ u.nv = s.nv := by
  unfold doLdi8 at h
  grind [→ kept_ldWord, → both_ok, → map_ok, trapOf, holdOf, unlessDs.eq_def]
theorem kept_doLdn16 (sl : CSlot) (base : BitVec 4) (q : BitVec 3) (disp : BitVec 14) (s : State) {u : _} (h : doLdn16 sl base q disp s = .ok u) : u.mem = s.mem ∧ u.nv = s.nv := by
  unfold doLdn16 at h
  grind [→ kept_ldWord, → both_ok, → map_ok, trapOf, holdOf, unlessDs.eq_def]
theorem kept_doLdn32 (sl : CSlot) (base : BitVec 4) (q : BitVec 3) (disp : BitVec 14) (s : State) {u : _} (h : doLdn32 sl base q disp s = .ok u) : u.mem = s.mem ∧ u.nv = s.nv := by
  unfold doLdn32 at h
  grind [→ kept_ldWord, → both_ok, → map_ok, trapOf, holdOf, unlessDs.eq_def]
theorem kept_doLdn8 (sl : CSlot) (base : BitVec 4) (q : BitVec 3) (disp : BitVec 14) (s : State) {u : _} (h : doLdn8 sl base q disp s = .ok u) : u.mem = s.mem ∧ u.nv = s.nv := by
  unfold doLdn8 at h
  grind [→ kept_ldWord, → both_ok, → map_ok, trapOf, holdOf, unlessDs.eq_def]
theorem kept_doPbar (sl : CSlot) (s : State) {u : _} (h : doPbar sl s = .ok u) : u.mem = s.mem ∧ u.nv = s.nv := by
  unfold doPbar at h
  grind [→ kept_pbarWord, → both_ok, → map_ok, trapOf, holdOf, unlessDs.eq_def]
theorem kept_stWord (sl : CSlot) (base : BitVec 4) (w : BitVec 3) (disp : BitVec 14) (n : ℕ) (align : ℕ) (s : State) {u : _} (h : stWord sl base w disp n align s = .ok u) : u.mem = s.mem ∧ u.nv = s.nv := by
  unfold stWord at h
  grind [→ kept_takeEntries, → kept_startStore, → both_ok, → map_ok, trapOf, holdOf, unlessDs.eq_def]
theorem kept_doSt16 (sl : CSlot) (base : BitVec 4) (w : BitVec 3) (disp : BitVec 14) (s : State) {u : _} (h : doSt16 sl base w disp s = .ok u) : u.mem = s.mem ∧ u.nv = s.nv := by
  unfold doSt16 at h
  grind [→ kept_stWord, → both_ok, → map_ok, trapOf, holdOf, unlessDs.eq_def]
theorem kept_doSt32 (sl : CSlot) (base : BitVec 4) (w : BitVec 3) (disp : BitVec 14) (s : State) {u : _} (h : doSt32 sl base w disp s = .ok u) : u.mem = s.mem ∧ u.nv = s.nv := by
  unfold doSt32 at h
  grind [→ kept_stWord, → both_ok, → map_ok, trapOf, holdOf, unlessDs.eq_def]
theorem kept_doSt64 (sl : CSlot) (base : BitVec 4) (w : BitVec 3) (disp : BitVec 14) (s : State) {u : _} (h : doSt64 sl base w disp s = .ok u) : u.mem = s.mem ∧ u.nv = s.nv := by
  unfold doSt64 at h
  grind [→ kept_stWord, → both_ok, → map_ok, trapOf, holdOf, unlessDs.eq_def]
theorem kept_doSt8 (sl : CSlot) (base : BitVec 4) (w : BitVec 3) (disp : BitVec 14) (s : State) {u : _} (h : doSt8 sl base w disp s = .ok u) : u.mem = s.mem ∧ u.nv = s.nv := by
  unfold doSt8 at h
  grind [→ kept_stWord, → both_ok, → map_ok, trapOf, holdOf, unlessDs.eq_def]
theorem kept_doVld (sl : CSlot) (base : BitVec 4) (q : BitVec 3) (disp : BitVec 14) (s : State) {u : _} (h : doVld sl base q disp s = .ok u) : u.mem = s.mem ∧ u.nv = s.nv := by
  unfold doVld at h
  grind [→ kept_ldWord, → both_ok, → map_ok, trapOf, holdOf, unlessDs.eq_def]
theorem kept_doVldg (sl : CSlot) (base : BitVec 4) (q : BitVec 3) (w : BitVec 2) (sc : BitVec 2) (s : State) {u : _} (h : doVldg sl base q w sc s = .ok u) : u.mem = s.mem ∧ u.nv = s.nv := by
  unfold doVldg at h
  grind [→ kept_takeEntries, → kept_startLoad, → both_ok, → map_ok, trapOf, holdOf, unlessDs.eq_def]
theorem kept_doVlds (sl : CSlot) (base : BitVec 4) (a : BitVec 4) (q : BitVec 3) (s : State) {u : _} (h : doVlds sl base a q s = .ok u) : u.mem = s.mem ∧ u.nv = s.nv := by
  unfold doVlds at h
  grind [→ kept_startLoad, → both_ok, → map_ok, trapOf, holdOf, unlessDs.eq_def]
theorem kept_doVst (sl : CSlot) (base : BitVec 4) (w : BitVec 3) (disp : BitVec 14) (s : State) {u : _} (h : doVst sl base w disp s = .ok u) : u.mem = s.mem ∧ u.nv = s.nv := by
  unfold doVst at h
  grind [→ kept_stWord, → both_ok, → map_ok, trapOf, holdOf, unlessDs.eq_def]
theorem kept_laneStore (cls : ℕ) (s : State) (s1 : State) (data : Wide) (as : List (Option W64)) {u : State} (h : laneStore cls s s1 data as = .ok u) : u.mem = s1.mem ∧ u.nv = s1.nv := by
  unfold laneStore at h
  grind [→ kept_memoryStore, → both_ok]
theorem kept_doVstm (sl : CSlot) (base : BitVec 4) (wd : BitVec 2) (wi : BitVec 2) (sc : BitVec 2) (s : State) {u : _} (h : doVstm sl base wd wi sc s = .ok u) : u.mem = s.mem ∧ u.nv = s.nv := by
  unfold doVstm at h
  grind [→ kept_takeEntries, → kept_laneStore, → both_ok, → map_ok, trapOf, holdOf, unlessDs.eq_def]
theorem kept_doVsts (sl : CSlot) (base : BitVec 4) (a : BitVec 4) (w : BitVec 2) (s : State) {u : _} (h : doVsts sl base a w s = .ok u) : u.mem = s.mem ∧ u.nv = s.nv := by
  unfold doVsts at h
  grind [→ kept_takeEntries, → kept_laneStore, → both_ok, → map_ok, trapOf, holdOf, unlessDs.eq_def]
theorem kept_execAadd (sl : CSlot) (base : BitVec 4) (q : BitVec 3) (scope : BitVec 3) (order : BitVec 2) (disp : BitVec 9) (s : State) {u : _} (h : execAadd sl base q scope order disp s = .next u) : u.mem = s.mem ∧ u.nv = s.nv := by
  exact complete_kept (fun _ hu => kept_doAadd _ _ _ _ _ _ _ hu) (fun x => kept_takeTrap s x) h
theorem kept_execAand (sl : CSlot) (base : BitVec 4) (q : BitVec 3) (scope : BitVec 3) (order : BitVec 2) (disp : BitVec 9) (s : State) {u : _} (h : execAand sl base q scope order disp s = .next u) : u.mem = s.mem ∧ u.nv = s.nv := by
  exact complete_kept (fun _ hu => kept_doAand _ _ _ _ _ _ _ hu) (fun x => kept_takeTrap s x) h
theorem kept_execAcas (sl : CSlot) (base : BitVec 4) (q : BitVec 3) (scope : BitVec 3) (order : BitVec 2) (disp : BitVec 9) (s : State) {u : _} (h : execAcas sl base q scope order disp s = .next u) : u.mem = s.mem ∧ u.nv = s.nv := by
  exact complete_kept (fun _ hu => kept_doAcas _ _ _ _ _ _ _ hu) (fun x => kept_takeTrap s x) h
theorem kept_execAfadd (sl : CSlot) (base : BitVec 4) (q : BitVec 3) (scope : BitVec 3) (order : BitVec 2) (disp : BitVec 9) (s : State) {u : _} (h : execAfadd sl base q scope order disp s = .next u) : u.mem = s.mem ∧ u.nv = s.nv := by
  exact complete_kept (fun _ hu => kept_doAfadd _ _ _ _ _ _ _ hu) (fun x => kept_takeTrap s x) h
theorem kept_execAmax (sl : CSlot) (base : BitVec 4) (q : BitVec 3) (scope : BitVec 3) (order : BitVec 2) (disp : BitVec 9) (s : State) {u : _} (h : execAmax sl base q scope order disp s = .next u) : u.mem = s.mem ∧ u.nv = s.nv := by
  exact complete_kept (fun _ hu => kept_doAmax _ _ _ _ _ _ _ hu) (fun x => kept_takeTrap s x) h
theorem kept_execAmaxn (sl : CSlot) (base : BitVec 4) (q : BitVec 3) (scope : BitVec 3) (order : BitVec 2) (disp : BitVec 9) (s : State) {u : _} (h : execAmaxn sl base q scope order disp s = .next u) : u.mem = s.mem ∧ u.nv = s.nv := by
  exact complete_kept (fun _ hu => kept_doAmaxn _ _ _ _ _ _ _ hu) (fun x => kept_takeTrap s x) h
theorem kept_execAmin (sl : CSlot) (base : BitVec 4) (q : BitVec 3) (scope : BitVec 3) (order : BitVec 2) (disp : BitVec 9) (s : State) {u : _} (h : execAmin sl base q scope order disp s = .next u) : u.mem = s.mem ∧ u.nv = s.nv := by
  exact complete_kept (fun _ hu => kept_doAmin _ _ _ _ _ _ _ hu) (fun x => kept_takeTrap s x) h
theorem kept_execAminn (sl : CSlot) (base : BitVec 4) (q : BitVec 3) (scope : BitVec 3) (order : BitVec 2) (disp : BitVec 9) (s : State) {u : _} (h : execAminn sl base q scope order disp s = .next u) : u.mem = s.mem ∧ u.nv = s.nv := by
  exact complete_kept (fun _ hu => kept_doAminn _ _ _ _ _ _ _ hu) (fun x => kept_takeTrap s x) h
theorem kept_execAor (sl : CSlot) (base : BitVec 4) (q : BitVec 3) (scope : BitVec 3) (order : BitVec 2) (disp : BitVec 9) (s : State) {u : _} (h : execAor sl base q scope order disp s = .next u) : u.mem = s.mem ∧ u.nv = s.nv := by
  exact complete_kept (fun _ hu => kept_doAor _ _ _ _ _ _ _ hu) (fun x => kept_takeTrap s x) h
theorem kept_execAxch (sl : CSlot) (base : BitVec 4) (q : BitVec 3) (scope : BitVec 3) (order : BitVec 2) (disp : BitVec 9) (s : State) {u : _} (h : execAxch sl base q scope order disp s = .next u) : u.mem = s.mem ∧ u.nv = s.nv := by
  exact complete_kept (fun _ hu => kept_doAxch _ _ _ _ _ _ _ hu) (fun x => kept_takeTrap s x) h
theorem kept_execCadd (sl : CSlot) (d : BitVec 4) (a : BitVec 4) (imm : BitVec 13) (s : State) {u : _} (h : execCadd sl d a imm s = .next u) : u.mem = s.mem ∧ u.nv = s.nv := by
  exact complete_kept (fun _ hu => kept_doCadd _ _ _ _ _ hu) (fun x => kept_takeTrap s x) h
theorem kept_execCget (sl : CSlot) (d : BitVec 4) (file : BitVec 3) (idx : BitVec 6) (lane : BitVec 4) (s : State) {u : _} (h : execCget sl d file idx lane s = .next u) : u.mem = s.mem ∧ u.nv = s.nv := by
  exact complete_kept (fun _ hu => kept_doCget _ _ _ _ _ _ hu) (fun x => kept_takeTrap s x) h
theorem kept_execCli (sl : CSlot) (d : BitVec 4) (a : BitVec 4) (imm : BitVec 13) (s : State) {u : _} (h : execCli sl d a imm s = .next u) : u.mem = s.mem ∧ u.nv = s.nv := by
  exact complete_kept (fun _ hu => kept_doCli _ _ _ _ _ hu) (fun x => kept_takeTrap s x) h
theorem kept_execCnop (sl : CSlot) (s : State) {u : _} (h : execCnop sl s = .next u) : u.mem = s.mem ∧ u.nv = s.nv := by
  exact complete_kept (fun _ hu => kept_doCnop _ _ hu) (fun x => kept_takeTrap s x) h
theorem kept_execCstr (sl : CSlot) (d : BitVec 4) (level : BitVec 3) (sreg : BitVec 6) (s : State) {u : _} (h : execCstr sl d level sreg s = .next u) : u.mem = s.mem ∧ u.nv = s.nv := by
  exact complete_kept (fun _ hu => kept_doCstr _ _ _ _ _ hu) (fun x => kept_takeTrap s x) h
theorem kept_execFence (sl : CSlot) (scope : BitVec 3) (order : BitVec 2) (s : State) {u : _} (h : execFence sl scope order s = .next u) : u.mem = s.mem ∧ u.nv = s.nv := by
  exact complete_kept (fun _ hu => kept_doFence _ _ _ _ hu) (fun x => kept_takeTrap s x) h
theorem kept_execFencex (sl : CSlot) (from_ : BitVec 3) (to_ : BitVec 3) (scope : BitVec 3) (s : State) {u : _} (h : execFencex sl from_ to_ scope s = .next u) : u.mem = s.mem ∧ u.nv = s.nv := by
  exact complete_kept (fun _ hu => kept_doFencex _ _ _ _ _ hu) (fun x => kept_takeTrap s x) h
theorem kept_execLd64 (sl : CSlot) (base : BitVec 4) (q : BitVec 3) (disp : BitVec 14) (s : State) {u : _} (h : execLd64 sl base q disp s = .next u) : u.mem = s.mem ∧ u.nv = s.nv := by
  exact complete_kept (fun _ hu => kept_doLd64 _ _ _ _ _ hu) (fun x => kept_takeTrap s x) h
theorem kept_execLdi16 (sl : CSlot) (base : BitVec 4) (q : BitVec 3) (disp : BitVec 14) (s : State) {u : _} (h : execLdi16 sl base q disp s = .next u) : u.mem = s.mem ∧ u.nv = s.nv := by
  exact complete_kept (fun _ hu => kept_doLdi16 _ _ _ _ _ hu) (fun x => kept_takeTrap s x) h
theorem kept_execLdi32 (sl : CSlot) (base : BitVec 4) (q : BitVec 3) (disp : BitVec 14) (s : State) {u : _} (h : execLdi32 sl base q disp s = .next u) : u.mem = s.mem ∧ u.nv = s.nv := by
  exact complete_kept (fun _ hu => kept_doLdi32 _ _ _ _ _ hu) (fun x => kept_takeTrap s x) h
theorem kept_execLdi8 (sl : CSlot) (base : BitVec 4) (q : BitVec 3) (disp : BitVec 14) (s : State) {u : _} (h : execLdi8 sl base q disp s = .next u) : u.mem = s.mem ∧ u.nv = s.nv := by
  exact complete_kept (fun _ hu => kept_doLdi8 _ _ _ _ _ hu) (fun x => kept_takeTrap s x) h
theorem kept_execLdn16 (sl : CSlot) (base : BitVec 4) (q : BitVec 3) (disp : BitVec 14) (s : State) {u : _} (h : execLdn16 sl base q disp s = .next u) : u.mem = s.mem ∧ u.nv = s.nv := by
  exact complete_kept (fun _ hu => kept_doLdn16 _ _ _ _ _ hu) (fun x => kept_takeTrap s x) h
theorem kept_execLdn32 (sl : CSlot) (base : BitVec 4) (q : BitVec 3) (disp : BitVec 14) (s : State) {u : _} (h : execLdn32 sl base q disp s = .next u) : u.mem = s.mem ∧ u.nv = s.nv := by
  exact complete_kept (fun _ hu => kept_doLdn32 _ _ _ _ _ hu) (fun x => kept_takeTrap s x) h
theorem kept_execLdn8 (sl : CSlot) (base : BitVec 4) (q : BitVec 3) (disp : BitVec 14) (s : State) {u : _} (h : execLdn8 sl base q disp s = .next u) : u.mem = s.mem ∧ u.nv = s.nv := by
  exact complete_kept (fun _ hu => kept_doLdn8 _ _ _ _ _ hu) (fun x => kept_takeTrap s x) h
theorem kept_execPbar (sl : CSlot) (s : State) {u : _} (h : execPbar sl s = .next u) : u.mem = s.mem ∧ u.nv = s.nv := by
  exact complete_kept (fun _ hu => kept_doPbar _ _ hu) (fun x => kept_takeTrap s x) h
theorem kept_execSt16 (sl : CSlot) (base : BitVec 4) (w : BitVec 3) (disp : BitVec 14) (s : State) {u : _} (h : execSt16 sl base w disp s = .next u) : u.mem = s.mem ∧ u.nv = s.nv := by
  exact complete_kept (fun _ hu => kept_doSt16 _ _ _ _ _ hu) (fun x => kept_takeTrap s x) h
theorem kept_execSt32 (sl : CSlot) (base : BitVec 4) (w : BitVec 3) (disp : BitVec 14) (s : State) {u : _} (h : execSt32 sl base w disp s = .next u) : u.mem = s.mem ∧ u.nv = s.nv := by
  exact complete_kept (fun _ hu => kept_doSt32 _ _ _ _ _ hu) (fun x => kept_takeTrap s x) h
theorem kept_execSt64 (sl : CSlot) (base : BitVec 4) (w : BitVec 3) (disp : BitVec 14) (s : State) {u : _} (h : execSt64 sl base w disp s = .next u) : u.mem = s.mem ∧ u.nv = s.nv := by
  exact complete_kept (fun _ hu => kept_doSt64 _ _ _ _ _ hu) (fun x => kept_takeTrap s x) h
theorem kept_execSt8 (sl : CSlot) (base : BitVec 4) (w : BitVec 3) (disp : BitVec 14) (s : State) {u : _} (h : execSt8 sl base w disp s = .next u) : u.mem = s.mem ∧ u.nv = s.nv := by
  exact complete_kept (fun _ hu => kept_doSt8 _ _ _ _ _ hu) (fun x => kept_takeTrap s x) h
theorem kept_execVld (sl : CSlot) (base : BitVec 4) (q : BitVec 3) (disp : BitVec 14) (s : State) {u : _} (h : execVld sl base q disp s = .next u) : u.mem = s.mem ∧ u.nv = s.nv := by
  exact complete_kept (fun _ hu => kept_doVld _ _ _ _ _ hu) (fun x => kept_takeTrap s x) h
theorem kept_execVldg (sl : CSlot) (base : BitVec 4) (q : BitVec 3) (w : BitVec 2) (sc : BitVec 2) (s : State) {u : _} (h : execVldg sl base q w sc s = .next u) : u.mem = s.mem ∧ u.nv = s.nv := by
  exact complete_kept (fun _ hu => kept_doVldg _ _ _ _ _ _ hu) (fun x => kept_takeTrap s x) h
theorem kept_execVlds (sl : CSlot) (base : BitVec 4) (a : BitVec 4) (q : BitVec 3) (s : State) {u : _} (h : execVlds sl base a q s = .next u) : u.mem = s.mem ∧ u.nv = s.nv := by
  exact complete_kept (fun _ hu => kept_doVlds _ _ _ _ _ hu) (fun x => kept_takeTrap s x) h
theorem kept_execVst (sl : CSlot) (base : BitVec 4) (w : BitVec 3) (disp : BitVec 14) (s : State) {u : _} (h : execVst sl base w disp s = .next u) : u.mem = s.mem ∧ u.nv = s.nv := by
  exact complete_kept (fun _ hu => kept_doVst _ _ _ _ _ hu) (fun x => kept_takeTrap s x) h
theorem kept_execVstm (sl : CSlot) (base : BitVec 4) (wd : BitVec 2) (wi : BitVec 2) (sc : BitVec 2) (s : State) {u : _} (h : execVstm sl base wd wi sc s = .next u) : u.mem = s.mem ∧ u.nv = s.nv := by
  exact complete_kept (fun _ hu => kept_doVstm _ _ _ _ _ _ hu) (fun x => kept_takeTrap s x) h
theorem kept_execVsts (sl : CSlot) (base : BitVec 4) (a : BitVec 4) (w : BitVec 2) (s : State) {u : _} (h : execVsts sl base a w s = .next u) : u.mem = s.mem ∧ u.nv = s.nv := by
  exact complete_kept (fun _ hu => kept_doVsts _ _ _ _ _ hu) (fun x => kept_takeTrap s x) h
theorem kept_startCmd (s : State) (cls : ℕ) (path : ℕ) (ctr : ℕ) (op : CmdOp) (dur : Bool) : (startCmd s cls path ctr op dur).mem = s.mem ∧ (startCmd s cls path ctr op dur).nv = s.nv := by
  unfold startCmd
  grind [kept_takeSeq, kept_State_setMy, → both_ok, → map_ok, trapOf, holdOf, unlessDs.eq_def]
theorem kept_doColl (sl : CSlot) (base : BitVec 4) (op : BitVec 3) (s : State) {u : _} (h : doColl sl base op s = .ok u) : u.mem = s.mem ∧ u.nv = s.nv := by
  unfold doColl at h
  grind [kept_startCmd, → both_ok, → map_ok, trapOf, holdOf, unlessDs.eq_def]
theorem kept_doPref (_sl : CSlot) (_base : BitVec 4) (_disp : BitVec 14) (s : State) {u : _} (h : doPref _sl _base _disp s = .ok u) : u.mem = s.mem ∧ u.nv = s.nv := by
  unfold doPref at h
  grind [→ both_ok, → map_ok, trapOf, holdOf, unlessDs.eq_def]
theorem kept_withTiles (s : State) (f : Tiles → Tiles) : (withTiles s f).mem = s.mem ∧ (withTiles s f).nv = s.nv := by
  unfold withTiles
  grind [kept_State_setMy, → both_ok, → map_ok, trapOf, holdOf, unlessDs.eq_def]
theorem kept_doRpush (sl : CSlot) (slot : BitVec 8) (ring : BitVec 3) (s : State) {u : _} (h : doRpush sl slot ring s = .ok u) : u.mem = s.mem ∧ u.nv = s.nv := by
  unfold doRpush at h
  grind [kept_startCmd, kept_withTiles, → both_ok, → map_ok, trapOf, holdOf, unlessDs.eq_def]
theorem kept_doSinv (sl : CSlot) (base : BitVec 4) (n : BitVec 8) (discard : BitVec 1) (s : State) {u : _} (h : doSinv sl base n discard s = .ok u) : u.mem = s.mem ∧ u.nv = s.nv := by
  unfold doSinv at h
  grind [kept_atEnd, → both_ok, → map_ok, trapOf, holdOf, unlessDs.eq_def]
theorem kept_doSmap (sl : CSlot) (base : BitVec 4) (a : BitVec 4) (n : BitVec 8) (s : State) {u : _} (h : doSmap sl base a n s = .ok u) : u.mem = s.mem ∧ u.nv = s.nv := by
  unfold doSmap at h
  grind [kept_atEnd, → both_ok, → map_ok, trapOf, holdOf, unlessDs.eq_def]
theorem kept_doSwb (sl : CSlot) (base : BitVec 4) (n : BitVec 8) (s : State) {u : _} (h : doSwb sl base n s = .ok u) : u.mem = s.mem ∧ u.nv = s.nv := by
  unfold doSwb at h
  grind [kept_startCmd, → both_ok, → map_ok, trapOf, holdOf, unlessDs.eq_def]
theorem kept_tileMove (sl : CSlot) (base : BitVec 4) (slot : BitVec 8) (i : Instr) (bad : ℕ → ℕ → Bool → Bool → Bool) (op : ℕ → ℕ → CmdOp) (s : State) {u : _} (h : tileMove sl base slot i bad op s = .ok u) : u.mem = s.mem ∧ u.nv = s.nv := by
  unfold tileMove at h
  grind [kept_startCmd, kept_withTiles, → both_ok, → map_ok, trapOf, holdOf, unlessDs.eq_def]
theorem kept_doTcvt (sl : CSlot) (base : BitVec 4) (slot : BitVec 8) (rnd : BitVec 2) (s : State) {u : _} (h : doTcvt sl base slot rnd s = .ok u) : u.mem = s.mem ∧ u.nv = s.nv := by
  unfold doTcvt at h
  grind [kept_takeSr, → kept_tileMove, → both_ok, → map_ok, trapOf, holdOf, unlessDs.eq_def]
theorem kept_doTfree (sl : CSlot) (slot : BitVec 8) (s : State) {u : _} (h : doTfree sl slot s = .ok u) : u.mem = s.mem ∧ u.nv = s.nv := by
  unfold doTfree at h
  grind [kept_atEnd, → both_ok, → map_ok, trapOf, holdOf, unlessDs.eq_def]
theorem kept_doTgath (sl : CSlot) (base : BitVec 4) (a : BitVec 4) (slot : BitVec 8) (w : BitVec 2) (s : State) {u : _} (h : doTgath sl base a slot w s = .ok u) : u.mem = s.mem ∧ u.nv = s.nv := by
  unfold doTgath at h
  grind [→ kept_takeEntries, kept_startCmd, kept_withTiles, → both_ok, → map_ok, trapOf, holdOf, unlessDs.eq_def]
theorem kept_doTloadRing (sl : CSlot) (base : BitVec 4) (a : BitVec 4) (ring : BitVec 3) (pitched : BitVec 1) (s : State) {u : _} (h : doTloadRing sl base a ring pitched s = .ok u) : u.mem = s.mem ∧ u.nv = s.nv := by
  unfold doTloadRing at h
  grind [kept_startCmd, kept_withTiles, → both_ok, → map_ok, trapOf, holdOf, unlessDs.eq_def]
theorem kept_doTloadSlot (sl : CSlot) (base : BitVec 4) (a : BitVec 4) (slot : BitVec 8) (pitched : BitVec 1) (s : State) {u : _} (h : doTloadSlot sl base a slot pitched s = .ok u) : u.mem = s.mem ∧ u.nv = s.nv := by
  unfold doTloadSlot at h
  grind [kept_startCmd, kept_withTiles, → both_ok, → map_ok, trapOf, holdOf, unlessDs.eq_def]
theorem kept_tstoreWord (sl : CSlot) (base : BitVec 4) (a : BitVec 4) (slot : BitVec 8) (pitched : BitVec 1) (dur : Bool) (i : Instr) (s : State) {u : _} (h : tstoreWord sl base a slot pitched dur i s = .ok u) : u.mem = s.mem ∧ u.nv = s.nv := by
  unfold tstoreWord at h
  grind [kept_startCmd, kept_withTiles, → both_ok, → map_ok, trapOf, holdOf, unlessDs.eq_def]
theorem kept_doTstore (sl : CSlot) (base : BitVec 4) (a : BitVec 4) (slot : BitVec 8) (pitched : BitVec 1) (s : State) {u : _} (h : doTstore sl base a slot pitched s = .ok u) : u.mem = s.mem ∧ u.nv = s.nv := by
  unfold doTstore at h
  grind [→ kept_tstoreWord, → both_ok, → map_ok, trapOf, holdOf, unlessDs.eq_def]
theorem kept_doTstoreDur (sl : CSlot) (base : BitVec 4) (a : BitVec 4) (slot : BitVec 8) (pitched : BitVec 1) (s : State) {u : _} (h : doTstoreDur sl base a slot pitched s = .ok u) : u.mem = s.mem ∧ u.nv = s.nv := by
  unfold doTstoreDur at h
  grind [→ kept_tstoreWord, → both_ok, → map_ok, trapOf, holdOf, unlessDs.eq_def]
theorem kept_doTtrn (sl : CSlot) (base : BitVec 4) (slot : BitVec 8) (s : State) {u : _} (h : doTtrn sl base slot s = .ok u) : u.mem = s.mem ∧ u.nv = s.nv := by
  unfold doTtrn at h
  grind [→ kept_tileMove, → both_ok, → map_ok, trapOf, holdOf, unlessDs.eq_def]
theorem kept_doTzero (sl : CSlot) (slot : BitVec 8) (s : State) {u : _} (h : doTzero sl slot s = .ok u) : u.mem = s.mem ∧ u.nv = s.nv := by
  unfold doTzero at h
  grind [kept_startCmd, kept_withTiles, → both_ok, → map_ok, trapOf, holdOf, unlessDs.eq_def]
theorem kept_winWord (sl : CSlot) (base : BitVec 4) (a : BitVec 4) (n : BitVec 12) (get : Bool) (op : W64 → W64 → ℕ → CmdOp) (s : State) {u : _} (h : winWord sl base a n get op s = .ok u) : u.mem = s.mem ∧ u.nv = s.nv := by
  unfold winWord at h
  grind [kept_startCmd, kept_State_setMy, → both_ok, → map_ok, trapOf, holdOf, unlessDs.eq_def]
theorem kept_doWadd (sl : CSlot) (base : BitVec 4) (a : BitVec 4) (n : BitVec 12) (int : BitVec 1) (s : State) {u : _} (h : doWadd sl base a n int s = .ok u) : u.mem = s.mem ∧ u.nv = s.nv := by
  unfold doWadd at h
  grind [→ kept_winWord, → both_ok, → map_ok, trapOf, holdOf, unlessDs.eq_def]
theorem kept_doWget (sl : CSlot) (base : BitVec 4) (a : BitVec 4) (n : BitVec 12) (s : State) {u : _} (h : doWget sl base a n s = .ok u) : u.mem = s.mem ∧ u.nv = s.nv := by
  unfold doWget at h
  grind [→ kept_winWord, → both_ok, → map_ok, trapOf, holdOf, unlessDs.eq_def]
theorem kept_doWput (sl : CSlot) (base : BitVec 4) (a : BitVec 4) (n : BitVec 12) (s : State) {u : _} (h : doWput sl base a n s = .ok u) : u.mem = s.mem ∧ u.nv = s.nv := by
  unfold doWput at h
  grind [→ kept_winWord, → both_ok, → map_ok, trapOf, holdOf, unlessDs.eq_def]
theorem kept_execColl (sl : CSlot) (base : BitVec 4) (op : BitVec 3) (s : State) {u : _} (h : execColl sl base op s = .next u) : u.mem = s.mem ∧ u.nv = s.nv := by
  exact complete_kept (fun _ hu => kept_doColl _ _ _ _ hu) (fun x => kept_takeTrap s x) h
theorem kept_execPref (sl : CSlot) (base : BitVec 4) (disp : BitVec 14) (s : State) {u : _} (h : execPref sl base disp s = .next u) : u.mem = s.mem ∧ u.nv = s.nv := by
  exact complete_kept (fun _ hu => kept_doPref _ _ _ _ hu) (fun x => kept_takeTrap s x) h
theorem kept_execRpush (sl : CSlot) (slot : BitVec 8) (ring : BitVec 3) (s : State) {u : _} (h : execRpush sl slot ring s = .next u) : u.mem = s.mem ∧ u.nv = s.nv := by
  exact complete_kept (fun _ hu => kept_doRpush _ _ _ _ hu) (fun x => kept_takeTrap s x) h
theorem kept_execSinv (sl : CSlot) (base : BitVec 4) (n : BitVec 8) (discard : BitVec 1) (s : State) {u : _} (h : execSinv sl base n discard s = .next u) : u.mem = s.mem ∧ u.nv = s.nv := by
  exact complete_kept (fun _ hu => kept_doSinv _ _ _ _ _ hu) (fun x => kept_takeTrap s x) h
theorem kept_execSmap (sl : CSlot) (base : BitVec 4) (a : BitVec 4) (n : BitVec 8) (s : State) {u : _} (h : execSmap sl base a n s = .next u) : u.mem = s.mem ∧ u.nv = s.nv := by
  exact complete_kept (fun _ hu => kept_doSmap _ _ _ _ _ hu) (fun x => kept_takeTrap s x) h
theorem kept_execSwb (sl : CSlot) (base : BitVec 4) (n : BitVec 8) (s : State) {u : _} (h : execSwb sl base n s = .next u) : u.mem = s.mem ∧ u.nv = s.nv := by
  exact complete_kept (fun _ hu => kept_doSwb _ _ _ _ hu) (fun x => kept_takeTrap s x) h
theorem kept_execTcvt (sl : CSlot) (base : BitVec 4) (slot : BitVec 8) (rnd : BitVec 2) (s : State) {u : _} (h : execTcvt sl base slot rnd s = .next u) : u.mem = s.mem ∧ u.nv = s.nv := by
  exact complete_kept (fun _ hu => kept_doTcvt _ _ _ _ _ hu) (fun x => kept_takeTrap s x) h
theorem kept_execTfree (sl : CSlot) (slot : BitVec 8) (s : State) {u : _} (h : execTfree sl slot s = .next u) : u.mem = s.mem ∧ u.nv = s.nv := by
  exact complete_kept (fun _ hu => kept_doTfree _ _ _ hu) (fun x => kept_takeTrap s x) h
theorem kept_execTgath (sl : CSlot) (base : BitVec 4) (a : BitVec 4) (slot : BitVec 8) (w : BitVec 2) (s : State) {u : _} (h : execTgath sl base a slot w s = .next u) : u.mem = s.mem ∧ u.nv = s.nv := by
  exact complete_kept (fun _ hu => kept_doTgath _ _ _ _ _ _ hu) (fun x => kept_takeTrap s x) h
theorem kept_execTloadRing (sl : CSlot) (base : BitVec 4) (a : BitVec 4) (ring : BitVec 3) (pitched : BitVec 1) (s : State) {u : _} (h : execTloadRing sl base a ring pitched s = .next u) : u.mem = s.mem ∧ u.nv = s.nv := by
  exact complete_kept (fun _ hu => kept_doTloadRing _ _ _ _ _ _ hu) (fun x => kept_takeTrap s x) h
theorem kept_execTloadSlot (sl : CSlot) (base : BitVec 4) (a : BitVec 4) (slot : BitVec 8) (pitched : BitVec 1) (s : State) {u : _} (h : execTloadSlot sl base a slot pitched s = .next u) : u.mem = s.mem ∧ u.nv = s.nv := by
  exact complete_kept (fun _ hu => kept_doTloadSlot _ _ _ _ _ _ hu) (fun x => kept_takeTrap s x) h
theorem kept_execTstore (sl : CSlot) (base : BitVec 4) (a : BitVec 4) (slot : BitVec 8) (pitched : BitVec 1) (s : State) {u : _} (h : execTstore sl base a slot pitched s = .next u) : u.mem = s.mem ∧ u.nv = s.nv := by
  exact complete_kept (fun _ hu => kept_doTstore _ _ _ _ _ _ hu) (fun x => kept_takeTrap s x) h
theorem kept_execTstoreDur (sl : CSlot) (base : BitVec 4) (a : BitVec 4) (slot : BitVec 8) (pitched : BitVec 1) (s : State) {u : _} (h : execTstoreDur sl base a slot pitched s = .next u) : u.mem = s.mem ∧ u.nv = s.nv := by
  exact complete_kept (fun _ hu => kept_doTstoreDur _ _ _ _ _ _ hu) (fun x => kept_takeTrap s x) h
theorem kept_execTtrn (sl : CSlot) (base : BitVec 4) (slot : BitVec 8) (s : State) {u : _} (h : execTtrn sl base slot s = .next u) : u.mem = s.mem ∧ u.nv = s.nv := by
  exact complete_kept (fun _ hu => kept_doTtrn _ _ _ _ hu) (fun x => kept_takeTrap s x) h
theorem kept_execTzero (sl : CSlot) (slot : BitVec 8) (s : State) {u : _} (h : execTzero sl slot s = .next u) : u.mem = s.mem ∧ u.nv = s.nv := by
  exact complete_kept (fun _ hu => kept_doTzero _ _ _ hu) (fun x => kept_takeTrap s x) h
theorem kept_execWadd (sl : CSlot) (base : BitVec 4) (a : BitVec 4) (n : BitVec 12) (int : BitVec 1) (s : State) {u : _} (h : execWadd sl base a n int s = .next u) : u.mem = s.mem ∧ u.nv = s.nv := by
  exact complete_kept (fun _ hu => kept_doWadd _ _ _ _ _ _ hu) (fun x => kept_takeTrap s x) h
theorem kept_execWget (sl : CSlot) (base : BitVec 4) (a : BitVec 4) (n : BitVec 12) (s : State) {u : _} (h : execWget sl base a n s = .next u) : u.mem = s.mem ∧ u.nv = s.nv := by
  exact complete_kept (fun _ hu => kept_doWget _ _ _ _ _ hu) (fun x => kept_takeTrap s x) h
theorem kept_execWput (sl : CSlot) (base : BitVec 4) (a : BitVec 4) (n : BitVec 12) (s : State) {u : _} (h : execWput sl base a n s = .next u) : u.mem = s.mem ∧ u.nv = s.nv := by
  exact complete_kept (fun _ hu => kept_doWput _ _ _ _ _ hu) (fun x => kept_takeTrap s x) h
theorem kept_noteRead (s : State) (k : ℕ) (path : ℕ) (core : ℕ) (lvl : ℕ) (seq : ℕ) (free : Bool) (va : W64) (n : ℕ) : (noteRead s k path core lvl seq free va n).mem = s.mem ∧ (noteRead s k path core lvl seq free va n).nv = s.nv := by
  unfold noteRead
  grind [kept_noteAbort, kept_askStores, kept_noteXl, kept_noteSaw, kept_noteTimes, → both_ok, → map_ok, trapOf, holdOf, unlessDs.eq_def]
theorem kept_notePiece (s : State) (k : ℕ) (x : Cmd) (p : Piece) : (notePiece s k x p).mem = s.mem ∧ (notePiece s k x p).nv = s.nv := by
  unfold notePiece
  grind [kept_noteRead, foldl_kept, → both_ok, → map_ok, trapOf, holdOf, unlessDs.eq_def]
theorem kept_onTiles (s : State) (k : ℕ) (f : Tiles → Tiles) : (onTiles s k f).mem = s.mem ∧ (onTiles s k f).nv = s.nv := by
  unfold onTiles
  grind [kept_State_setCtx, → both_ok, → map_ok, trapOf, holdOf, unlessDs.eq_def]
theorem kept_putChunk (s : State) (k : ℕ) (x : Cmd) (xl : Xl) (va : W64) (bs : List Byte) (cuff : Option W64) : (putChunk s k x xl va bs cuff).mem = s.mem ∧ (putChunk s k x xl va bs cuff).nv = s.nv := by
  unfold putChunk
  grind [→ both_ok, → map_ok, trapOf, holdOf, unlessDs.eq_def]
theorem kept_putRuns (s : State) (k : ℕ) (x : Cmd) (xl : Xl) (page : W64) (cuff : Option W64) (done : ℕ) (a7 : List (W64 × List Byte)) : (putRuns s k x xl page cuff done a7).1.mem = s.mem ∧ (putRuns s k x xl page cuff done a7).1.nv = s.nv := by
  induction a7 generalizing s done with
  | nil => exact ⟨rfl, rfl⟩
  | cons p r ih => obtain ⟨va, bs⟩ := p; unfold putRuns; grind [kept_putChunk]
theorem kept_readSource (s : State) (k : ℕ) (x : Cmd) (n : ℕ) : (readSource s k x n).mem = s.mem ∧ (readSource s k x n).nv = s.nv := by
  unfold readSource
  grind [kept_putCmd, → both_ok, → map_ok, trapOf, holdOf, unlessDs.eq_def]
theorem kept_writeChunk (s : State) (k : ℕ) (x : Cmd) (need : Need5) (okLeaf : W64 → Bool) (runs : List (W64 × List Byte)) (cuff : Option W64) : (writeChunk s k x need okLeaf runs cuff).mem = s.mem ∧ (writeChunk s k x need okLeaf runs cuff).nv = s.nv := by
  unfold writeChunk
  grind [kept_noteAbort, kept_putCmd, kept_putRuns, kept_addReport, → both_ok, → map_ok, trapOf, holdOf, unlessDs.eq_def]
theorem canon_tileChunk (s : State) (k : ℕ) (x : Cmd) (hc : Memory.wf s.mem = true ∧ Memory.wf s.nv = true) : Memory.wf (tileChunk s k x).mem = true ∧ Memory.wf (tileChunk s k x).nv = true := by
  unfold tileChunk
  grind [kept_putCmd, kept_notePiece, canon_localWrite, kept_readSource, kept_writeChunk, kept_noteXl, foldl_canon, → both_ok, → map_ok, trapOf, holdOf, unlessDs.eq_def]
theorem canon_tileComplete (s : State) (k : ℕ) (x : Cmd) (hc : Memory.wf s.mem = true ∧ Memory.wf s.nv = true) : Memory.wf (tileComplete s k x).mem = true ∧ Memory.wf (tileComplete s k x).nv = true := by
  unfold tileComplete
  grind [kept_endCmd, kept_onTiles, kept_putCmd, canon_localWrite, → both_ok, → map_ok, trapOf, holdOf, unlessDs.eq_def]
theorem canon_acceptRecord (s : State) (q : ℕ) (r : LaunchRec) (ps : List Pool) (image : Option MicroImage) (hc : Memory.wf s.mem = true ∧ Memory.wf s.nv = true) : Memory.wf (acceptRecord s q r ps image).2.mem = true ∧ Memory.wf (acceptRecord s q r ps image).2.nv = true := by
  unfold acceptRecord
  grind [kept_State_setLaunch, canon_notePlaced, foldl_canon, → both_ok, → map_ok, trapOf, holdOf, unlessDs.eq_def]
theorem kept_noteWalks (s : State) (d : ℕ) (space : ℕ) (vas : List W64) : (noteWalks s d space vas).mem = s.mem ∧ (noteWalks s d space vas).nv = s.nv := by
  unfold noteWalks
  grind [kept_noteAbort, kept_noteXl, foldl_kept, → both_ok, → map_ok, trapOf, holdOf, unlessDs.eq_def]
theorem canon_offerRecord (s : State) (d : ℕ) (q : ℕ) (va : W64) (hc : Memory.wf s.mem = true ∧ Memory.wf s.nv = true) : Memory.wf (offerRecord s d q va).2.mem = true ∧ Memory.wf (offerRecord s d q va).2.nv = true := by
  unfold offerRecord
  grind [canon_acceptRecord, kept_noteWalks, → both_ok, → map_ok, trapOf, holdOf, unlessDs.eq_def]
theorem kept_kOp (sl : VSlot) (d : BitVec 5) (a : BitVec 5) (b : BitVec 5) (op : W32 → W32 → W32) (s : State) {u : _} (h : kOp sl d a b op s = .ok u) : u.mem = s.mem ∧ u.nv = s.nv := by
  unfold kOp at h
  grind [→ kept_putK, → both_ok, → map_ok, trapOf, holdOf, unlessDs.eq_def]
theorem kept_vBin (sl : VSlot) (fmt : BitVec 4) (d : BitVec 5) (a : BitVec 5) (b : BitVec 5) (k : BitVec 2) (lat : ℕ) (op : ℕ → ℕ → ℕ) (s : State) {u : _} (h : vBin sl fmt d a b k lat op s = .ok u) : u.mem = s.mem ∧ u.nv = s.nv := by
  unfold vBin at h
  grind [→ kept_putV, → trapFirst_ok, → both_ok, → map_ok, trapOf, holdOf, unlessDs.eq_def]
theorem kept_vBits (sl : VSlot) (d : BitVec 5) (a : BitVec 5) (b : BitVec 5) (k : BitVec 2) (op : ℕ → ℕ → ℕ) (s : State) {u : _} (h : vBits sl d a b k op s = .ok u) : u.mem = s.mem ∧ u.nv = s.nv := by
  unfold vBits at h
  grind [→ kept_vBin, → both_ok, → map_ok, trapOf, holdOf, unlessDs.eq_def]
theorem kept_vCmp (sl : VSlot) (fmt : BitVec 4) (d : BitVec 5) (a : BitVec 5) (b : BitVec 5) (k : BitVec 2) (rel : ℕ → ℕ → Bool) (s : State) {u : _} (h : vCmp sl fmt d a b k rel s = .ok u) : u.mem = s.mem ∧ u.nv = s.nv := by
  unfold vCmp at h
  grind [→ kept_putK, → trapFirst_ok, → both_ok, → map_ok, trapOf, holdOf, unlessDs.eq_def]
theorem kept_vImm (sl : VSlot) (fmt : BitVec 4) (d : BitVec 5) (a : BitVec 5) (lat : ℕ) (op : ℕ → ℕ) (s : State) {u : _} (h : vImm sl fmt d a lat op s = .ok u) : u.mem = s.mem ∧ u.nv = s.nv := by
  unfold vImm at h
  grind [→ kept_putV, → trapFirst_ok, → both_ok, → map_ok, trapOf, holdOf, unlessDs.eq_def]
theorem kept_vReduce (sl : VSlot) (fmt : BitVec 4) (d : BitVec 5) (a : BitVec 5) (k : BitVec 2) (ident : ℕ) (op : ℕ → ℕ → ℕ) (s : State) {u : _} (h : vReduce sl fmt d a k ident op s = .ok u) : u.mem = s.mem ∧ u.nv = s.nv := by
  unfold vReduce at h
  grind [→ kept_putV, → trapFirst_ok, → both_ok, → map_ok, trapOf, holdOf, unlessDs.eq_def]
theorem kept_vTri (sl : VSlot) (fmt : BitVec 4) (d : BitVec 5) (a : BitVec 5) (b : BitVec 5) (k : BitVec 2) (lat : ℕ) (op : ℕ → ℕ → ℕ → ℕ) (s : State) {u : _} (h : vTri sl fmt d a b k lat op s = .ok u) : u.mem = s.mem ∧ u.nv = s.nv := by
  unfold vTri at h
  grind [→ kept_putV, → trapFirst_ok, → both_ok, → map_ok, trapOf, holdOf, unlessDs.eq_def]
theorem kept_vUn (sl : VSlot) (fmt : BitVec 4) (d : BitVec 5) (a : BitVec 5) (k : BitVec 2) (lat : ℕ) (op : ℕ → ℕ) (s : State) {u : _} (h : vUn sl fmt d a k lat op s = .ok u) : u.mem = s.mem ∧ u.nv = s.nv := by
  unfold vUn at h
  grind [→ kept_putV, → trapFirst_ok, → both_ok, → map_ok, trapOf, holdOf, unlessDs.eq_def]
theorem kept_sendBar (s : State) (m : BarMsg) : (sendBar s m).mem = s.mem ∧ (sendBar s m).nv = s.nv := by
  unfold sendBar
  grind [→ both_ok, → map_ok, trapOf, holdOf, unlessDs.eq_def]
theorem kept_doBarArr (id : BitVec 11) (scope : BitVec 3) (s : State) {u : _} (h : doBarArr id scope s = .ok u) : u.mem = s.mem ∧ u.nv = s.nv := by
  unfold doBarArr at h
  grind [kept_sendBar, kept_State_setMy, → both_ok, → map_ok, trapOf, holdOf, unlessDs.eq_def]
theorem kept_doBarInit (id : BitVec 11) (scope : BitVec 3) (a : BitVec 4) (s : State) {u : _} (h : doBarInit id scope a s = .ok u) : u.mem = s.mem ∧ u.nv = s.nv := by
  unfold doBarInit at h
  grind [kept_sendBar, → both_ok, → map_ok, trapOf, holdOf, unlessDs.eq_def]
theorem kept_doBarTst (id : BitVec 11) (scope : BitVec 3) (q : BitVec 3) (s : State) {u : _} (h : doBarTst id scope q s = .ok u) : u.mem = s.mem ∧ u.nv = s.nv := by
  unfold doBarTst at h
  grind [kept_atEnd, → both_ok, → map_ok, trapOf, holdOf, unlessDs.eq_def]
theorem kept_passed (s : State) (r : BarRec) : (passed s r).mem = s.mem ∧ (passed s r).nv = s.nv := by
  unfold passed
  grind [kept_raiseFloor, kept_State_setMy, → both_ok, → map_ok, trapOf, holdOf, unlessDs.eq_def]
theorem kept_doBarWait (id : BitVec 11) (scope : BitVec 3) (s : State) {u : _} (h : doBarWait id scope s = .ok u) : u.mem = s.mem ∧ u.nv = s.nv := by
  unfold doBarWait at h
  grind [kept_passed, kept_State_setMy, → both_ok, → map_ok, trapOf, holdOf, unlessDs.eq_def]
theorem canon_doSpawn (t : BitVec 3) (a : BitVec 4) (b : BitVec 4) (s : State) (hc : Memory.wf s.mem = true ∧ Memory.wf s.nv = true) {u : _} (h : doSpawn t a b s = .ok u) : Memory.wf u.mem = true ∧ Memory.wf u.nv = true := by
  unfold doSpawn at h
  grind [canon_doSpawned, → both_ok, → map_ok, trapOf, holdOf, unlessDs.eq_def]
theorem kept_doXget (d : BitVec 4) (file : BitVec 3) (idx : BitVec 6) (lane : BitVec 4) (s : State) {u : _} (h : doXget d file idx lane s = .ok u) : u.mem = s.mem ∧ u.nv = s.nv := by
  unfold doXget at h
  grind [→ kept_putX, → trapFirst_ok, → both_ok, → map_ok, trapOf, holdOf, unlessDs.eq_def]
theorem canon_forceCore (s : State) (k : ℕ) (hc : Memory.wf s.mem = true ∧ Memory.wf s.nv = true) : Memory.wf (forceCore s k).mem = true ∧ Memory.wf (forceCore s k).nv = true := by
  unfold forceCore
  grind [canon_passStage, foldl_canon, → both_ok, → map_ok, trapOf, holdOf, unlessDs.eq_def]
theorem canon_doXlsc (e : BitVec 4) (x : BitVec 4) (imm : BitVec 14) (s : State) (hc : Memory.wf s.mem = true ∧ Memory.wf s.nv = true) {u : _} (h : doXlsc e x imm s = .ok u) : Memory.wf u.mem = true ∧ Memory.wf u.nv = true := by
  unfold doXlsc at h
  grind [canon_forceCore, → kept_putE, kept_noteOob, → both_ok, → map_ok, trapOf, holdOf, unlessDs.eq_def]
theorem kept_doXmov (fmt : BitVec 4) (d : BitVec 4) (a : BitVec 4) (b : BitVec 4) (s : State) {u : _} (h : doXmov fmt d a b s = .ok u) : u.mem = s.mem ∧ u.nv = s.nv := by
  unfold doXmov at h
  grind [→ kept_putX, → kept_putE, → both_ok, → map_ok, trapOf, holdOf, unlessDs.eq_def]
theorem kept_doXmxs (fmt : BitVec 4) (a : BitVec 4) (b : BitVec 4) (e : BitVec 4) (s : State) {u : _} (h : doXmxs fmt a b e s = .ok u) : u.mem = s.mem ∧ u.nv = s.nv := by
  unfold doXmxs at h
  grind [→ kept_putE, → both_ok, → map_ok, trapOf, holdOf, unlessDs.eq_def]
theorem kept_doXnop (s : State) {u : _} (h : doXnop s = .ok u) : u.mem = s.mem ∧ u.nv = s.nv := by
  unfold doXnop at h
  grind [→ both_ok, → map_ok, trapOf, holdOf, unlessDs.eq_def]
theorem kept_doXpack (fmt : BitVec 4) (d : BitVec 4) (a : BitVec 4) (b : BitVec 4) (e : BitVec 4) (rnd : BitVec 2) (s : State) {u : _} (h : doXpack fmt d a b e rnd s = .ok u) : u.mem = s.mem ∧ u.nv = s.nv := by
  unfold doXpack at h
  grind [kept_takeSr, → kept_putX, → kept_putE, → both_ok, → map_ok, trapOf, holdOf, unlessDs.eq_def]
theorem kept_doXrot (fmt : BitVec 4) (d : BitVec 4) (a : BitVec 4) (b : BitVec 4) (s : State) {u : _} (h : doXrot fmt d a b s = .ok u) : u.mem = s.mem ∧ u.nv = s.nv := by
  unfold doXrot at h
  grind [→ kept_putX, → kept_putE, → both_ok, → map_ok, trapOf, holdOf, unlessDs.eq_def]
theorem kept_doXscal (fmt : BitVec 4) (d : BitVec 4) (a : BitVec 4) (b : BitVec 4) (e : BitVec 4) (rnd : BitVec 2) (s : State) {u : _} (h : doXscal fmt d a b e rnd s = .ok u) : u.mem = s.mem ∧ u.nv = s.nv := by
  unfold doXscal at h
  grind [kept_takeSr, → kept_putX, → both_ok, → map_ok, trapOf, holdOf, unlessDs.eq_def]
theorem kept_doXshuf (fmt : BitVec 4) (d : BitVec 4) (a : BitVec 4) (b : BitVec 4) (s : State) {u : _} (h : doXshuf fmt d a b s = .ok u) : u.mem = s.mem ∧ u.nv = s.nv := by
  unfold doXshuf at h
  grind [→ kept_putX, → both_ok, → map_ok, trapOf, holdOf, unlessDs.eq_def]
theorem canon_doXssc (e : BitVec 4) (x : BitVec 4) (imm : BitVec 14) (s : State) (hc : Memory.wf s.mem = true ∧ Memory.wf s.nv = true) {u : _} (h : doXssc e x imm s = .ok u) : Memory.wf u.mem = true ∧ Memory.wf u.nv = true := by
  unfold doXssc at h
  grind [kept_noteOob, canon_forceCore, wf_memWrite, wf_memWriteCells, wf_filter, → both_ok, → map_ok, trapOf, holdOf, unlessDs.eq_def]
theorem kept_doXunpk (fmt : BitVec 4) (d : BitVec 4) (a : BitVec 4) (b : BitVec 4) (e : BitVec 4) (s : State) {u : _} (h : doXunpk fmt d a b e s = .ok u) : u.mem = s.mem ∧ u.nv = s.nv := by
  unfold doXunpk at h
  grind [→ kept_putX, → both_ok, → map_ok, trapOf, holdOf, unlessDs.eq_def]
theorem kept_doXuzp (fmt : BitVec 4) (d : BitVec 4) (a : BitVec 4) (b : BitVec 4) (s : State) {u : _} (h : doXuzp fmt d a b s = .ok u) : u.mem = s.mem ∧ u.nv = s.nv := by
  unfold doXuzp at h
  grind [→ kept_putX, → both_ok, → map_ok, trapOf, holdOf, unlessDs.eq_def]
theorem kept_doXzip (fmt : BitVec 4) (d : BitVec 4) (a : BitVec 4) (b : BitVec 4) (s : State) {u : _} (h : doXzip fmt d a b s = .ok u) : u.mem = s.mem ∧ u.nv = s.nv := by
  unfold doXzip at h
  grind [→ kept_putX, → both_ok, → map_ok, trapOf, holdOf, unlessDs.eq_def]
theorem kept_doYield (s : State) {u : _} (h : doYield s = .ok u) : u.mem = s.mem ∧ u.nv = s.nv := by
  unfold doYield at h
  grind [kept_atEnd, → both_ok, → map_ok, trapOf, holdOf, unlessDs.eq_def]
theorem kept_execBarArr (id : BitVec 11) (scope : BitVec 3) (s : State) {u : _} (h : execBarArr id scope s = .next u) : u.mem = s.mem ∧ u.nv = s.nv := by
  exact complete_kept (fun _ hu => kept_doBarArr _ _ _ hu) (fun x => kept_takeTrap s x) h
theorem kept_execBarInit (id : BitVec 11) (scope : BitVec 3) (a : BitVec 4) (s : State) {u : _} (h : execBarInit id scope a s = .next u) : u.mem = s.mem ∧ u.nv = s.nv := by
  exact complete_kept (fun _ hu => kept_doBarInit _ _ _ _ hu) (fun x => kept_takeTrap s x) h
theorem kept_execBarTst (id : BitVec 11) (scope : BitVec 3) (q : BitVec 3) (s : State) {u : _} (h : execBarTst id scope q s = .next u) : u.mem = s.mem ∧ u.nv = s.nv := by
  exact complete_kept (fun _ hu => kept_doBarTst _ _ _ _ hu) (fun x => kept_takeTrap s x) h
theorem kept_execBarWait (id : BitVec 11) (scope : BitVec 3) (s : State) {u : _} (h : execBarWait id scope s = .next u) : u.mem = s.mem ∧ u.nv = s.nv := by
  exact complete_kept (fun _ hu => kept_doBarWait _ _ _ hu) (fun x => kept_takeTrap s x) h
theorem canon_execSpawn (t : BitVec 3) (a : BitVec 4) (b : BitVec 4) (s : State) (hc : Memory.wf s.mem = true ∧ Memory.wf s.nv = true) {u : _} (h : execSpawn t a b s = .next u) : Memory.wf u.mem = true ∧ Memory.wf u.nv = true := by
  exact complete_canon (fun _ hu => canon_doSpawn _ _ _ _ hc hu) (fun x => by rw [(kept_takeTrap s x).1, (kept_takeTrap s x).2]; exact hc) hc h
theorem kept_execXget (d : BitVec 4) (file : BitVec 3) (idx : BitVec 6) (lane : BitVec 4) (s : State) {u : _} (h : execXget d file idx lane s = .next u) : u.mem = s.mem ∧ u.nv = s.nv := by
  exact complete_kept (fun _ hu => kept_doXget _ _ _ _ _ hu) (fun x => kept_takeTrap s x) h
theorem canon_execXlsc (e : BitVec 4) (x : BitVec 4) (imm : BitVec 14) (s : State) (hc : Memory.wf s.mem = true ∧ Memory.wf s.nv = true) {u : _} (h : execXlsc e x imm s = .next u) : Memory.wf u.mem = true ∧ Memory.wf u.nv = true := by
  exact complete_canon (fun _ hu => canon_doXlsc _ _ _ _ hc hu) (fun x => canon_of_kept (kept_takeTrap s x) hc) hc h
theorem kept_execXmov (fmt : BitVec 4) (d : BitVec 4) (a : BitVec 4) (b : BitVec 4) (s : State) {u : _} (h : execXmov fmt d a b s = .next u) : u.mem = s.mem ∧ u.nv = s.nv := by
  exact complete_kept (fun _ hu => kept_doXmov _ _ _ _ _ hu) (fun x => kept_takeTrap s x) h
theorem kept_execXmxs (fmt : BitVec 4) (a : BitVec 4) (b : BitVec 4) (e : BitVec 4) (s : State) {u : _} (h : execXmxs fmt a b e s = .next u) : u.mem = s.mem ∧ u.nv = s.nv := by
  exact complete_kept (fun _ hu => kept_doXmxs _ _ _ _ _ hu) (fun x => kept_takeTrap s x) h
theorem kept_execXnop (s : State) {u : _} (h : execXnop s = .next u) : u.mem = s.mem ∧ u.nv = s.nv := by
  exact complete_kept (fun _ hu => kept_doXnop _ hu) (fun x => kept_takeTrap s x) h
theorem kept_execXpack (fmt : BitVec 4) (d : BitVec 4) (a : BitVec 4) (b : BitVec 4) (e : BitVec 4) (rnd : BitVec 2) (s : State) {u : _} (h : execXpack fmt d a b e rnd s = .next u) : u.mem = s.mem ∧ u.nv = s.nv := by
  exact complete_kept (fun _ hu => kept_doXpack _ _ _ _ _ _ _ hu) (fun x => kept_takeTrap s x) h
theorem kept_execXrot (fmt : BitVec 4) (d : BitVec 4) (a : BitVec 4) (b : BitVec 4) (s : State) {u : _} (h : execXrot fmt d a b s = .next u) : u.mem = s.mem ∧ u.nv = s.nv := by
  exact complete_kept (fun _ hu => kept_doXrot _ _ _ _ _ hu) (fun x => kept_takeTrap s x) h
theorem kept_execXscal (fmt : BitVec 4) (d : BitVec 4) (a : BitVec 4) (b : BitVec 4) (e : BitVec 4) (rnd : BitVec 2) (s : State) {u : _} (h : execXscal fmt d a b e rnd s = .next u) : u.mem = s.mem ∧ u.nv = s.nv := by
  exact complete_kept (fun _ hu => kept_doXscal _ _ _ _ _ _ _ hu) (fun x => kept_takeTrap s x) h
theorem kept_execXshuf (fmt : BitVec 4) (d : BitVec 4) (a : BitVec 4) (b : BitVec 4) (s : State) {u : _} (h : execXshuf fmt d a b s = .next u) : u.mem = s.mem ∧ u.nv = s.nv := by
  exact complete_kept (fun _ hu => kept_doXshuf _ _ _ _ _ hu) (fun x => kept_takeTrap s x) h
theorem canon_execXssc (e : BitVec 4) (x : BitVec 4) (imm : BitVec 14) (s : State) (hc : Memory.wf s.mem = true ∧ Memory.wf s.nv = true) {u : _} (h : execXssc e x imm s = .next u) : Memory.wf u.mem = true ∧ Memory.wf u.nv = true := by
  exact complete_canon (fun _ hu => canon_doXssc _ _ _ _ hc hu) (fun x => canon_of_kept (kept_takeTrap s x) hc) hc h
theorem kept_execXunpk (fmt : BitVec 4) (d : BitVec 4) (a : BitVec 4) (b : BitVec 4) (e : BitVec 4) (s : State) {u : _} (h : execXunpk fmt d a b e s = .next u) : u.mem = s.mem ∧ u.nv = s.nv := by
  exact complete_kept (fun _ hu => kept_doXunpk _ _ _ _ _ _ hu) (fun x => kept_takeTrap s x) h
theorem kept_execXuzp (fmt : BitVec 4) (d : BitVec 4) (a : BitVec 4) (b : BitVec 4) (s : State) {u : _} (h : execXuzp fmt d a b s = .next u) : u.mem = s.mem ∧ u.nv = s.nv := by
  exact complete_kept (fun _ hu => kept_doXuzp _ _ _ _ _ hu) (fun x => kept_takeTrap s x) h
theorem kept_execXzip (fmt : BitVec 4) (d : BitVec 4) (a : BitVec 4) (b : BitVec 4) (s : State) {u : _} (h : execXzip fmt d a b s = .next u) : u.mem = s.mem ∧ u.nv = s.nv := by
  exact complete_kept (fun _ hu => kept_doXzip _ _ _ _ _ hu) (fun x => kept_takeTrap s x) h
theorem kept_execYield (s : State) {u : _} (h : execYield s = .next u) : u.mem = s.mem ∧ u.nv = s.nv := by
  exact complete_kept (fun _ hu => kept_doYield _ hu) (fun x => kept_takeTrap s x) h
theorem kept_setBarrier (s : State) (home : ℕ) (bar : ℕ) (b : Barrier) : (setBarrier s home bar b).mem = s.mem ∧ (setBarrier s home bar b).nv = s.nv := by
  unfold setBarrier
  grind [kept_State_setCore, → both_ok, → map_ok, trapOf, holdOf, unlessDs.eq_def]
theorem kept_takeBar (s : State) (id : ℕ) : (takeBar s id).mem = s.mem ∧ (takeBar s id).nv = s.nv := by
  unfold takeBar
  grind [→ both_ok, → map_ok, trapOf, holdOf, unlessDs.eq_def]
theorem kept_wakeCore (s : State) (core : ℕ) : (wakeCore s core).mem = s.mem ∧ (wakeCore s core).nv = s.nv := by
  unfold wakeCore
  grind [kept_wake, → both_ok, → map_ok, trapOf, holdOf, unlessDs.eq_def]
theorem kept_execBarrierArrivalMessage (id : ℕ) (s : State) {u : _} (h : execBarrierArrivalMessage id s = .next u) : u.mem = s.mem ∧ u.nv = s.nv := by
  unfold execBarrierArrivalMessage at h
  grind [kept_takeBar, kept_sendBar, kept_setBarrier, kept_wakeCore, foldl_kept, → both_ok, → map_ok, trapOf, holdOf, unlessDs.eq_def]
theorem kept_execBarrierCompletionMessage (id : ℕ) (s : State) {u : _} (h : execBarrierCompletionMessage id s = .next u) : u.mem = s.mem ∧ u.nv = s.nv := by
  unfold execBarrierCompletionMessage at h
  grind [kept_takeBar, kept_wake, kept_State_setCtx, → both_ok, → map_ok, trapOf, holdOf, unlessDs.eq_def]
theorem kept_execBarrierInitMessage (id : ℕ) (s : State) {u : _} (h : execBarrierInitMessage id s = .next u) : u.mem = s.mem ∧ u.nv = s.nv := by
  unfold execBarrierInitMessage at h
  grind [kept_takeBar, kept_sendBar, kept_setBarrier, → both_ok, → map_ok, trapOf, holdOf, unlessDs.eq_def]
theorem kept_execBarrierReply (id : ℕ) (s : State) {u : _} (h : execBarrierReply id s = .next u) : u.mem = s.mem ∧ u.nv = s.nv := by
  unfold execBarrierReply at h
  grind [kept_takeBar, kept_State_setCtx, kept_wake, → both_ok, → map_ok, trapOf, holdOf, unlessDs.eq_def]
theorem kept_doCancel (sl : CSlot) (base : BitVec 4) (level : BitVec 3) (s : State) {u : _} (h : doCancel sl base level s = .ok u) : u.mem = s.mem ∧ u.nv = s.nv := by
  unfold doCancel at h
  grind [kept_cancelItem, → both_ok, → map_ok, trapOf, holdOf, unlessDs.eq_def]
theorem kept_reserveAnswer (s : State) (q : ℕ) (kind : LoadKind) (needs : List Need) (va : W64) : (reserveAnswer s q kind needs va).mem = s.mem ∧ (reserveAnswer s q kind needs va).nv = s.nv := by
  unfold reserveAnswer
  grind [kept_atEnd, → both_ok, → map_ok, trapOf, holdOf, unlessDs.eq_def]
theorem kept_doCnt (sl : CSlot) (base : BitVec 4) (q : BitVec 3) (level : BitVec 3) (kind : BitVec 1) (s : State) {u : _} (h : doCnt sl base q level kind s = .ok u) : u.mem = s.mem ∧ u.nv = s.nv := by
  unfold doCnt at h
  grind [kept_reserveAnswer, → both_ok, → map_ok, trapOf, holdOf, unlessDs.eq_def]
theorem kept_doEnq (sl : CSlot) (base : BitVec 4) (q : BitVec 3) (lq : BitVec 6) (s : State) {u : _} (h : doEnq sl base q lq s = .ok u) : u.mem = s.mem ∧ u.nv = s.nv := by
  unfold doEnq at h
  grind [kept_flushWrites, kept_notePages, kept_reserveAnswer, → bind_ok, → both_ok, → map_ok, trapOf, holdOf, unlessDs.eq_def]
theorem kept_doMcall (routine : BitVec 10) (nocorr : BitVec 1) (limc : BitVec 1) (e5 : BitVec 1) (ceil : BitVec 2) (start : BitVec 2) (s : State) {u : _} (h : doMcall routine nocorr limc e5 ceil start s = .ok u) : u.mem = s.mem ∧ u.nv = s.nv := by
  unfold doMcall at h
  grind [kept_takeSr, kept_startCmd, kept_takeId, kept_State_setMy, kept_State_setCore, → both_ok, → map_ok, trapOf, holdOf, unlessDs.eq_def]
theorem kept_doMget (p : BitVec 3) (a : BitVec 6) (s : State) {u : _} (h : doMget p a s = .ok u) : u.mem = s.mem ∧ u.nv = s.nv := by
  unfold doMget at h
  grind [→ kept_putP, → trapFirst_ok, → both_ok, → map_ok, trapOf, holdOf, unlessDs.eq_def]
theorem kept_doMnop (s : State) {u : _} (h : doMnop s = .ok u) : u.mem = s.mem ∧ u.nv = s.nv := by
  unfold doMnop at h
  grind [→ both_ok, → map_ok, trapOf, holdOf, unlessDs.eq_def]
theorem kept_doMset (p : BitVec 3) (imm : BitVec 19) (s : State) {u : _} (h : doMset p imm s = .ok u) : u.mem = s.mem ∧ u.nv = s.nv := by
  unfold doMset at h
  grind [→ kept_putP, → both_ok, → map_ok, trapOf, holdOf, unlessDs.eq_def]
theorem kept_doMseth (s : State) {u : _} (h : doMseth s = .ok u) : u.mem = s.mem ∧ u.nv = s.nv := by
  unfold doMseth at h
  have key : ∀ (xs : List Nat) (r : Res State), (∀ v, r = .ok v → v.mem = s.mem ∧ v.nv = s.nv) →
      ∀ v, xs.foldl (fun (r : Res State) n => match r with
        | .error e => .error e
        | .ok s1 => putP s1 n 1 (fget 0 s.my.regs.p n)) r = .ok v → v.mem = s.mem ∧ v.nv = s.nv := by
    intro xs
    induction xs with
    | nil => intro r hr v hv; exact hr v hv
    | cons n xs ih =>
      intro r hr v hv
      refine ih _ ?_ v hv
      intro v' hv'
      cases r with
      | error e => simp at hv'
      | ok s1 =>
        have h1 := hr s1 rfl
        have h2 := kept_putP _ _ _ _ hv'
        exact ⟨h2.1.trans h1.1, h2.2.trans h1.2⟩
  exact key _ _ (fun v hv => by cases hv; exact ⟨rfl, rfl⟩) u h
theorem kept_execCancel (sl : CSlot) (base : BitVec 4) (level : BitVec 3) (s : State) {u : _} (h : execCancel sl base level s = .next u) : u.mem = s.mem ∧ u.nv = s.nv := by
  exact complete_kept (fun _ hu => kept_doCancel _ _ _ _ hu) (fun x => kept_takeTrap s x) h
theorem kept_execCnt (sl : CSlot) (base : BitVec 4) (q : BitVec 3) (level : BitVec 3) (kind : BitVec 1) (s : State) {u : _} (h : execCnt sl base q level kind s = .next u) : u.mem = s.mem ∧ u.nv = s.nv := by
  exact complete_kept (fun _ hu => kept_doCnt _ _ _ _ _ _ hu) (fun x => kept_takeTrap s x) h
theorem kept_execEnq (sl : CSlot) (base : BitVec 4) (q : BitVec 3) (lq : BitVec 6) (s : State) {u : _} (h : execEnq sl base q lq s = .next u) : u.mem = s.mem ∧ u.nv = s.nv := by
  exact complete_kept (fun _ hu => kept_doEnq _ _ _ _ _ hu) (fun x => kept_takeTrap s x) h
theorem kept_execMcall (routine : BitVec 10) (nocorr : BitVec 1) (limc : BitVec 1) (e5 : BitVec 1) (ceil : BitVec 2) (start : BitVec 2) (s : State) {u : _} (h : execMcall routine nocorr limc e5 ceil start s = .next u) : u.mem = s.mem ∧ u.nv = s.nv := by
  exact complete_kept (fun _ hu => kept_doMcall _ _ _ _ _ _ _ hu) (fun x => kept_takeTrap s x) h
theorem kept_execMget (p : BitVec 3) (a : BitVec 6) (s : State) {u : _} (h : execMget p a s = .next u) : u.mem = s.mem ∧ u.nv = s.nv := by
  exact complete_kept (fun _ hu => kept_doMget _ _ _ hu) (fun x => kept_takeTrap s x) h
theorem kept_execMnop (s : State) {u : _} (h : execMnop s = .next u) : u.mem = s.mem ∧ u.nv = s.nv := by
  exact complete_kept (fun _ hu => kept_doMnop _ hu) (fun x => kept_takeTrap s x) h
theorem kept_execMset (p : BitVec 3) (imm : BitVec 19) (s : State) {u : _} (h : execMset p imm s = .next u) : u.mem = s.mem ∧ u.nv = s.nv := by
  exact complete_kept (fun _ hu => kept_doMset _ _ _ hu) (fun x => kept_takeTrap s x) h
theorem kept_execMseth (s : State) {u : _} (h : execMseth s = .next u) : u.mem = s.mem ∧ u.nv = s.nv := by
  exact complete_kept (fun _ hu => kept_doMseth _ hu) (fun x => kept_takeTrap s x) h
theorem kept_drainDest (s : State) (k : ℕ) (d : DrainRec) (x : TileState) : (drainDest s k d x).mem = s.mem ∧ (drainDest s k d x).nv = s.nv := by
  unfold drainDest
  grind [kept_onTiles, → both_ok, → map_ok, trapOf, holdOf, unlessDs.eq_def]
theorem kept_endMatrix (s : State) (k : ℕ) (seq : W32) : (endMatrix s k seq).mem = s.mem ∧ (endMatrix s k seq).nv = s.nv := by
  unfold endMatrix
  grind [kept_endCmd, → both_ok, → map_ok, trapOf, holdOf, unlessDs.eq_def]
theorem kept_clearRun (s : State) (core : ℕ) (r : ArrayRun) : (clearRun s core r).mem = s.mem ∧ (clearRun s core r).nv = s.nv := by
  unfold clearRun
  grind [kept_drainDest, kept_onTiles, kept_sampleFor, kept_endMatrix, kept_State_setCore, foldl_kept, → both_ok, → map_ok, trapOf, holdOf, unlessDs.eq_def]
theorem kept_abortCalls (s : State) (k : ℕ) : (abortCalls s k).mem = s.mem ∧ (abortCalls s k).nv = s.nv := by
  unfold abortCalls
  grind [kept_clearRun, kept_State_setCtx, kept_State_setCore, kept_endMatrix, foldl_kept, → both_ok, → map_ok, trapOf, holdOf, unlessDs.eq_def]
theorem kept_addEvidence (s : State) (core : ℕ) (j : ℕ) : (addEvidence s core j).mem = s.mem ∧ (addEvidence s core j).nv = s.nv := by
  unfold addEvidence
  grind [kept_setRel, → both_ok, → map_ok, trapOf, holdOf, unlessDs.eq_def]
theorem kept_bumpDt (s : State) (k : ℕ) (i : ℕ) (f : W64 → W64) : (bumpDt s k i f).mem = s.mem ∧ (bumpDt s k i f).nv = s.nv := by
  unfold bumpDt
  grind [kept_State_setCtx, → both_ok, → map_ok, trapOf, holdOf, unlessDs.eq_def]
theorem kept_putRun (s : State) (core : ℕ) (r : ArrayRun) : (putRun s core r).mem = s.mem ∧ (putRun s core r).nv = s.nv := by
  unfold putRun
  grind [kept_State_setCore, → both_ok, → map_ok, trapOf, holdOf, unlessDs.eq_def]
theorem kept_putStep (s : State) (core : ℕ) (r : ArrayRun) (st : StepRec) : (putStep s core r st).mem = s.mem ∧ (putStep s core r st).nv = s.nv := by
  unfold putStep
  grind [kept_putRun, → both_ok, → map_ok, trapOf, holdOf, unlessDs.eq_def]
theorem kept_stepDone1 (s : State) (core : ℕ) (r : ArrayRun) (st : StepRec) : (stepDone1 s core r st).mem = s.mem ∧ (stepDone1 s core r st).nv = s.nv := by
  unfold stepDone1
  grind [kept_putStep, kept_putRun, kept_State_setCtx, → both_ok, → map_ok, trapOf, holdOf, unlessDs.eq_def]
theorem kept_commitStep (s : State) (core : ℕ) (r : ArrayRun) (st : StepRec) (x : StepRes) (rung : ℕ) (climb : Bool) (ds8 : Bool) (limit : Bool) : (commitStep s core r st x rung climb ds8 limit).mem = s.mem ∧ (commitStep s core r st x rung climb ds8 limit).nv = s.nv := by
  unfold commitStep
  grind [kept_State_setCore, kept_bumpDt, kept_stepDone1, → both_ok, → map_ok, trapOf, holdOf, unlessDs.eq_def]
theorem kept_evidenceOf (s : State) (core : ℕ) (v : Verdict) : (evidenceOf s core v).1.mem = s.mem ∧ (evidenceOf s core v).1.nv = s.nv := by
  unfold evidenceOf
  grind [kept_addEvidence, → both_ok, → map_ok, trapOf, holdOf, unlessDs.eq_def]
theorem canon_logCheck (s : State) (core : ℕ) (r : ArrayRun) (kind : ℕ) (rung : ℕ) (row : ℕ) (col : ℕ) (lines : ℕ) (pcol : ℕ) (hc : Memory.wf s.mem = true ∧ Memory.wf s.nv = true) : Memory.wf (logCheck s core r kind rung row col lines pcol).mem = true ∧ Memory.wf (logCheck s core r kind rung row col lines pcol).nv = true := by
  unfold logCheck
  grind [kept_setRel, kept_raiseSource, canon_traceAll, → both_ok, → map_ok, trapOf, holdOf, unlessDs.eq_def]
theorem kept_stopRun (s : State) (core : ℕ) (r : ArrayRun) (reason : ℕ) (idx : ℕ) (rung : ℕ) (row : ℕ) (col : ℕ) (status : ℕ) : (stopRun s core r reason idx rung row col status).mem = s.mem ∧ (stopRun s core r reason idx rung row col status).nv = s.nv := by
  unfold stopRun
  grind [kept_putRun, → both_ok, → map_ok, trapOf, holdOf, unlessDs.eq_def]
theorem kept_upsetStep (s : State) (core : ℕ) (first : ℕ) (x : StepRes) : (upsetStep s core first x).1.mem = s.mem ∧ (upsetStep s core first x).1.nv = s.nv := by
  unfold upsetStep
  grind [kept_State_setCore, → both_ok, → map_ok, trapOf, holdOf, unlessDs.eq_def]
theorem canon_decideAttempt (s : State) (core : ℕ) (r : ArrayRun) (st : StepRec) (x0 : StepRes) (rung : ℕ) (climb : Bool) (ds8 : Bool) (hc : Memory.wf s.mem = true ∧ Memory.wf s.nv = true) : Memory.wf (decideAttempt s core r st x0 rung climb ds8).mem = true ∧ Memory.wf (decideAttempt s core r st x0 rung climb ds8).nv = true := by
  unfold decideAttempt
  grind [kept_upsetStep, kept_State_setCore, kept_putStep, kept_bumpDt, kept_stopRun, canon_logCheck, kept_commitStep, kept_evidenceOf, → both_ok, → map_ok, trapOf, holdOf, unlessDs.eq_def]
theorem kept_noteWeights (s : State) (k : ℕ) (core : ℕ) (lvl : ℕ) (seq : ℕ) (free : Bool) (rs : List (W64 × ℕ × ℕ)) : (noteWeights s k core lvl seq free rs).mem = s.mem ∧ (noteWeights s k core lvl seq free rs).nv = s.nv := by
  unfold noteWeights
  grind [kept_noteRead, foldl_kept, → both_ok, → map_ok, trapOf, holdOf, unlessDs.eq_def]
theorem canon_attemptMmv (s : State) (core : ℕ) (r : ArrayRun) (st : StepRec) (w : ℕ) (P : W64) (fmt : ℕ) (gl : Bool) (hc : Memory.wf s.mem = true ∧ Memory.wf s.nv = true) : Memory.wf (attemptMmv s core r st w P fmt gl).mem = true ∧ Memory.wf (attemptMmv s core r st w P fmt gl).nv = true := by
  unfold attemptMmv
  grind [kept_stopRun, kept_noteWeights, kept_putRun, canon_decideAttempt, → both_ok, → map_ok, trapOf, holdOf, unlessDs.eq_def]
theorem canon_attemptStrm (s : State) (core : ℕ) (r : ArrayRun) (st : StepRec) (p : Plane) (hc : Memory.wf s.mem = true ∧ Memory.wf s.nv = true) : Memory.wf (attemptStrm s core r st p).mem = true ∧ Memory.wf (attemptStrm s core r st p).nv = true := by
  unfold attemptStrm
  grind [kept_stopRun, canon_decideAttempt, → both_ok, → map_ok, trapOf, holdOf, unlessDs.eq_def]
theorem canon_attempt (s : State) (core : ℕ) (hc : Memory.wf s.mem = true ∧ Memory.wf s.nv = true) : Memory.wf (attempt s core).mem = true ∧ Memory.wf (attempt s core).nv = true := by
  unfold attempt
  grind [canon_attemptMmv, canon_attemptStrm, → both_ok, → map_ok, trapOf, holdOf, unlessDs.eq_def]
theorem canon_drainWrite (s : State) (core : ℕ) (r : ArrayRun) (d : DrainRec) (b : ℕ) (ps : List (ℕ × ℕ)) (hc : Memory.wf s.mem = true ∧ Memory.wf s.nv = true) : Memory.wf (drainWrite s core r d b ps).mem = true ∧ Memory.wf (drainWrite s core r d b ps).nv = true := by
  unfold drainWrite
  grind [canon_localWrite, kept_drainDest, kept_State_setCore, → both_ok, → map_ok, trapOf, holdOf, unlessDs.eq_def]
theorem canon_drainFinish (s : State) (core : ℕ) (hc : Memory.wf s.mem = true ∧ Memory.wf s.nv = true) : Memory.wf (drainFinish s core).mem = true ∧ Memory.wf (drainFinish s core).nv = true := by
  unfold drainFinish
  grind [kept_putRun, canon_drainWrite, kept_evidenceOf, canon_logCheck, kept_State_setCore, kept_stopRun, kept_drainDest, → both_ok, → map_ok, trapOf, holdOf, unlessDs.eq_def]
theorem kept_enterIdx (s : State) (core : ℕ) (r : ArrayRun) (i : ℕ) : (enterIdx s core r i).mem = s.mem ∧ (enterIdx s core r i).nv = s.nv := by
  unfold enterIdx
  split
  · exact kept_stopRun ..
  · split
    · exact kept_stopRun ..
    · exact kept_putRun ..
theorem kept_reloadRun (s : State) (core : ℕ) (r : ArrayRun) : (reloadRun s core r).mem = s.mem ∧ (reloadRun s core r).nv = s.nv := by
  unfold reloadRun
  grind [kept_stopRun, kept_putRun, kept_onTiles, → both_ok, → map_ok, trapOf, holdOf, unlessDs.eq_def]
theorem kept_startCall (s : State) (core : ℕ) : (startCall s core).mem = s.mem ∧ (startCall s core).nv = s.nv := by
  unfold startCall
  grind [kept_State_setCore, kept_putRun, kept_State_setCtx, kept_enterIdx, kept_stopRun, → both_ok, → map_ok, trapOf, holdOf, unlessDs.eq_def]
theorem kept_doMabort (s : State) {u : _} (h : doMabort s = .ok u) : u.mem = s.mem ∧ u.nv = s.nv := by
  unfold doMabort at h
  grind [kept_abortCalls, → both_ok, → map_ok, trapOf, holdOf, unlessDs.eq_def]
theorem microStep_kept {s t : State} {f : Nat → ArrayRun → MicroRes}
    (hf : ∀ core r x, f core r = .ok (some x) → x.1.mem = s.mem ∧ x.1.nv = s.nv)
    (h : microStep s f = .next t) : t.mem = s.mem ∧ t.nv = s.nv := by
  unfold microStep at h
  repeat' split at h
  all_goals cases h
  all_goals first
    | exact ⟨rfl, rfl⟩
    | exact kept_reloadRun ..
    | exact kept_stopRun ..
    | (next hx => exact hf _ _ _ hx)
    | (next hx _ _ _ => exact ⟨(kept_enterIdx ..).1.trans (hf _ _ _ hx).1, (kept_enterIdx ..).2.trans (hf _ _ _ hx).2⟩)
    | (next hx _ _ => exact hf _ _ _ hx)
    | (next hx _ _ => exact ⟨(kept_enterIdx ..).1.trans (hf _ _ _ hx).1, (kept_enterIdx ..).2.trans (hf _ _ _ hx).2⟩)
    | (next hx _ => exact hf _ _ _ hx)
theorem kept_goOn (s : State) (r : ArrayRun) {u : State × Option Nat} (h : goOn s r = .ok (some u)) : u.1.mem = s.mem ∧ u.1.nv = s.nv := by
  unfold goOn at h; cases h; exact ⟨rfl, rfl⟩
theorem kept_beginStep (s : State) (core : ℕ) (r : ArrayRun) (st : StepRec) {u : State × Option Nat} (h : beginStep s core r st = .ok (some u)) : u.1.mem = s.mem ∧ u.1.nv = s.nv := by
  unfold beginStep at h
  grind [→ kept_goOn, kept_putRun, kept_onTiles]
theorem kept_execCallEnd (core : ℕ) (s : State) {u : _} (h : execCallEnd core s = .next u) : u.mem = s.mem ∧ u.nv = s.nv := by
  unfold execCallEnd at h
  grind [kept_addReport, kept_clearRun, → both_ok, → map_ok, trapOf, holdOf, unlessDs.eq_def]
theorem kept_execCallStart (core : ℕ) (s : State) {u : _} (h : execCallStart core s = .next u) : u.mem = s.mem ∧ u.nv = s.nv := by
  unfold execCallStart at h
  grind [kept_startCall, → both_ok, → map_ok, trapOf, holdOf, unlessDs.eq_def]
theorem canon_execDrainComplete (core : ℕ) (s : State) (hc : Memory.wf s.mem = true ∧ Memory.wf s.nv = true) {u : _} (h : execDrainComplete core s = .next u) : Memory.wf u.mem = true ∧ Memory.wf u.nv = true := by
  unfold execDrainComplete at h
  grind [canon_drainFinish, → both_ok, → map_ok, trapOf, holdOf, unlessDs.eq_def]
theorem kept_execMabort (s : State) {u : _} (h : execMabort s = .next u) : u.mem = s.mem ∧ u.nv = s.nv := by
  exact complete_kept (fun _ hu => kept_doMabort _ hu) (fun x => kept_takeTrap s x) h
theorem kept_execMbud (pb : BitVec 3) (s : State) {u : _} (h : execMbud pb s = .next u) : u.mem = s.mem ∧ u.nv = s.nv := by
  refine microStep_kept (fun core r x hx => ?_) (by assumption)
  revert hx
  grind [→ kept_goOn, kept_putRun, → both_ok, → map_ok, microWait]
theorem kept_execMchk (nc : BitVec 1) (s : State) {u : _} (h : execMchk nc s = .next u) : u.mem = s.mem ∧ u.nv = s.nv := by
  refine microStep_kept (fun core r x hx => ?_) (by assumption)
  revert hx
  grind [→ kept_goOn, kept_putRun, → both_ok, → map_ok, microWait]
theorem kept_execMclr (blk : BitVec 4) (nb : BitVec 4) (s : State) {u : _} (h : execMclr blk nb s = .next u) : u.mem = s.mem ∧ u.nv = s.nv := by
  refine microStep_kept (fun core r x hx => ?_) (by assumption)
  revert hx
  grind [→ kept_goOn, kept_State_setCore, → both_ok, → map_ok, microWait]
theorem kept_execMdrn (blk : BitVec 4) (dst : BitVec 9) (rnd : BitVec 2) (clr : BitVec 1) (s : State) {u : _} (h : execMdrn blk dst rnd clr s = .next u) : u.mem = s.mem ∧ u.nv = s.nv := by
  refine microStep_kept (fun core r x hx => ?_) (by assumption)
  revert hx
  grind [kept_drainDest, kept_onTiles, → kept_goOn, kept_putRun, → both_ok, → map_ok, microWait]
theorem kept_execMend (s : State) {u : _} (h : execMend s = .next u) : u.mem = s.mem ∧ u.nv = s.nv := by
  refine microStep_kept (fun core r x hx => ?_) (by assumption)
  revert hx
  grind [→ kept_goOn, kept_putRun, → both_ok, → map_ok, microWait]
theorem kept_execMicrowordMnop (s : State) {u : _} (h : execMicrowordMnop s = .next u) : u.mem = s.mem ∧ u.nv = s.nv := by
  refine microStep_kept (fun core r x hx => ?_) (by assumption)
  revert hx
  grind [→ kept_goOn, → both_ok, → map_ok, microWait]
theorem kept_execMlad (st : BitVec 2) (cl : BitVec 2) (e5 : BitVec 1) (lc : BitVec 1) (s : State) {u : _} (h : execMlad st cl e5 lc s = .next u) : u.mem = s.mem ∧ u.nv = s.nv := by
  refine microStep_kept (fun core r x hx => ?_) (by assumption)
  revert hx
  grind [→ kept_goOn, kept_putRun, → both_ok, → map_ok, microWait]
theorem kept_execMldw (src : BitVec 9) (sp : BitVec 1) (metaSlot : BitVec 8) (s : State) {u : _} (h : execMldw src sp metaSlot s = .next u) : u.mem = s.mem ∧ u.nv = s.nv := by
  refine microStep_kept (fun core r x hx => ?_) (by assumption)
  dsimp only at hx
  repeat' split at hx
  all_goals first | (simp [microWait] at hx; done) | skip
  cases hl : loadPlane s r.ctx _ (decide (sp = 1)) metaSlot.toNat r.start r.e5 with
  | error e => rw [hl] at hx; simp [Except.bind] at hx
  | ok p => rw [hl] at hx; exact (kept_goOn _ _ hx).imp (fun e => e.trans (by rw [(kept_putRun ..).1, (kept_onTiles ..).1])) (fun e => e.trans (by rw [(kept_putRun ..).2, (kept_onTiles ..).2]))
theorem kept_execMloop (pc : BitVec 3) (im : BitVec 1) (cnt : BitVec 16) (s : State) {u : _} (h : execMloop pc im cnt s = .next u) : u.mem = s.mem ∧ u.nv = s.nv := by
  refine microStep_kept (fun core r x hx => ?_) (by assumption)
  revert hx
  grind [→ kept_goOn, kept_putRun, → both_ok, → map_ok, microWait]
theorem kept_execMmv (vec : BitVec 8) (nv : BitVec 3) (pa : BitVec 3) (cnt : BitVec 8) (blk : BitVec 4) (wfmt : BitVec 4) (gl : BitVec 1) (s : State) {u : _} (h : execMmv vec nv pa cnt blk wfmt gl s = .next u) : u.mem = s.mem ∧ u.nv = s.nv := by
  refine microStep_kept (fun core r x hx => ?_) (by assumption)
  revert hx
  grind [→ kept_beginStep, → both_ok, → map_ok, microWait]
theorem kept_execMpop (src : BitVec 9) (n : BitVec 4) (s : State) {u : _} (h : execMpop src n s = .next u) : u.mem = s.mem ∧ u.nv = s.nv := by
  refine microStep_kept (fun core r x hx => ?_) (by assumption)
  revert hx
  grind [→ kept_goOn, kept_putRun, kept_State_setCtx, → both_ok, → map_ok, microWait]
theorem kept_execMret (s : State) {u : _} (h : execMret s = .next u) : u.mem = s.mem ∧ u.nv = s.nv := by
  refine microStep_kept (fun core r x hx => ?_) (by assumption)
  revert hx
  grind [kept_putRun, → both_ok, → map_ok, microWait]
theorem kept_execMstrm (src : BitVec 9) (tiles : BitVec 3) (blk : BitVec 4) (pop : BitVec 1) (s : State) {u : _} (h : execMstrm src tiles blk pop s = .next u) : u.mem = s.mem ∧ u.nv = s.nv := by
  refine microStep_kept (fun core r x hx => ?_) (by assumption)
  revert hx
  grind [→ kept_beginStep, → both_ok, → map_ok, microWait]
theorem kept_execMswp (s : State) {u : _} (h : execMswp s = .next u) : u.mem = s.mem ∧ u.nv = s.nv := by
  refine microStep_kept (fun core r x hx => ?_) (by assumption)
  revert hx
  grind [→ kept_goOn, kept_putRun, kept_onTiles, → both_ok, → map_ok, microWait]
theorem kept_execMwt (s : State) {u : _} (h : execMwt s = .next u) : u.mem = s.mem ∧ u.nv = s.nv := by
  refine microStep_kept (fun core r x hx => ?_) (by assumption)
  revert hx
  grind [→ kept_goOn, → both_ok, → map_ok, microWait]
theorem kept_execPlaneLoadComplete (core : ℕ) (s : State) {u : _} (h : execPlaneLoadComplete core s = .next u) : u.mem = s.mem ∧ u.nv = s.nv := by
  unfold execPlaneLoadComplete at h
  grind [kept_putRun, → both_ok, → map_ok, trapOf, holdOf, unlessDs.eq_def]
theorem canon_execStreamStepDecision (core : ℕ) (s : State) (hc : Memory.wf s.mem = true ∧ Memory.wf s.nv = true) {u : _} (h : execStreamStepDecision core s = .next u) : Memory.wf u.mem = true ∧ Memory.wf u.nv = true := by
  unfold execStreamStepDecision at h
  grind [canon_attempt, → both_ok, → map_ok, trapOf, holdOf, unlessDs.eq_def]

end Sys2Proof.Machine
end

