-- ==== Sys2Proof/Laws/KeptWords.lean ====
section
/-! SUPPORT. What the words and microwords of the remaining families leave of memory: each leaves it alone, or keeps its canonical
form. -/
namespace Sys2Proof.Machine

set_option maxRecDepth 4000

theorem kept_doAdd (d : BitVec 6) (a : BitVec 6) (b : BitVec 6) (w : BitVec 2) (s : State) {u : _} (h : doAdd d a b w s = .ok u) : u.mem = s.mem ∧ u.nv = s.nv := by
  unfold doAdd at h
  grind [→ kept_saWord, → both_ok, → map_ok, trapOf, holdOf, unlessDs.eq_def]
theorem kept_doAddi (d : BitVec 6) (a : BitVec 6) (imm : BitVec 8) (s : State) {u : _} (h : doAddi d a imm s = .ok u) : u.mem = s.mem ∧ u.nv = s.nv := by
  unfold doAddi at h
  grind [→ kept_sbWord, → both_ok, → map_ok, trapOf, holdOf, unlessDs.eq_def]
theorem kept_doAnd (d : BitVec 6) (a : BitVec 6) (b : BitVec 6) (w : BitVec 2) (s : State) {u : _} (h : doAnd d a b w s = .ok u) : u.mem = s.mem ∧ u.nv = s.nv := by
  unfold doAnd at h
  grind [→ kept_saWord, → both_ok, → map_ok, trapOf, holdOf, unlessDs.eq_def]
theorem kept_doAndi (d : BitVec 6) (a : BitVec 6) (imm : BitVec 8) (s : State) {u : _} (h : doAndi d a imm s = .ok u) : u.mem = s.mem ∧ u.nv = s.nv := by
  unfold doAndi at h
  grind [→ kept_sbWord, → both_ok, → map_ok, trapOf, holdOf, unlessDs.eq_def]
theorem kept_doAndn (d : BitVec 6) (a : BitVec 6) (b : BitVec 6) (w : BitVec 2) (s : State) {u : _} (h : doAndn d a b w s = .ok u) : u.mem = s.mem ∧ u.nv = s.nv := by
  unfold doAndn at h
  grind [→ kept_saWord, → both_ok, → map_ok, trapOf, holdOf, unlessDs.eq_def]
theorem kept_doCeq (d : BitVec 6) (a : BitVec 6) (b : BitVec 6) (w : BitVec 2) (s : State) {u : _} (h : doCeq d a b w s = .ok u) : u.mem = s.mem ∧ u.nv = s.nv := by
  unfold doCeq at h
  grind [→ kept_saWord, → both_ok, → map_ok, trapOf, holdOf, unlessDs.eq_def]
theorem kept_doCeqi (d : BitVec 6) (a : BitVec 6) (imm : BitVec 8) (s : State) {u : _} (h : doCeqi d a imm s = .ok u) : u.mem = s.mem ∧ u.nv = s.nv := by
  unfold doCeqi at h
  grind [→ kept_sbWord, → both_ok, → map_ok, trapOf, holdOf, unlessDs.eq_def]
theorem kept_doCle (d : BitVec 6) (a : BitVec 6) (b : BitVec 6) (w : BitVec 2) (s : State) {u : _} (h : doCle d a b w s = .ok u) : u.mem = s.mem ∧ u.nv = s.nv := by
  unfold doCle at h
  grind [→ kept_saWord, → both_ok, → map_ok, trapOf, holdOf, unlessDs.eq_def]
theorem kept_doClen (d : BitVec 6) (a : BitVec 6) (b : BitVec 6) (w : BitVec 2) (s : State) {u : _} (h : doClen d a b w s = .ok u) : u.mem = s.mem ∧ u.nv = s.nv := by
  unfold doClen at h
  grind [→ kept_saWord, → both_ok, → map_ok, trapOf, holdOf, unlessDs.eq_def]
theorem kept_doClt (d : BitVec 6) (a : BitVec 6) (b : BitVec 6) (w : BitVec 2) (s : State) {u : _} (h : doClt d a b w s = .ok u) : u.mem = s.mem ∧ u.nv = s.nv := by
  unfold doClt at h
  grind [→ kept_saWord, → both_ok, → map_ok, trapOf, holdOf, unlessDs.eq_def]
theorem kept_doClti (d : BitVec 6) (a : BitVec 6) (imm : BitVec 8) (s : State) {u : _} (h : doClti d a imm s = .ok u) : u.mem = s.mem ∧ u.nv = s.nv := by
  unfold doClti at h
  grind [→ kept_sbWord, → both_ok, → map_ok, trapOf, holdOf, unlessDs.eq_def]
theorem kept_doCltn (d : BitVec 6) (a : BitVec 6) (b : BitVec 6) (w : BitVec 2) (s : State) {u : _} (h : doCltn d a b w s = .ok u) : u.mem = s.mem ∧ u.nv = s.nv := by
  unfold doCltn at h
  grind [→ kept_saWord, → both_ok, → map_ok, trapOf, holdOf, unlessDs.eq_def]
theorem kept_doCltni (d : BitVec 6) (a : BitVec 6) (imm : BitVec 8) (s : State) {u : _} (h : doCltni d a imm s = .ok u) : u.mem = s.mem ∧ u.nv = s.nv := by
  unfold doCltni at h
  grind [→ kept_sbWord, → both_ok, → map_ok, trapOf, holdOf, unlessDs.eq_def]
theorem kept_doClz (d : BitVec 6) (a : BitVec 6) (w : BitVec 2) (s : State) {u : _} (h : doClz d a w s = .ok u) : u.mem = s.mem ∧ u.nv = s.nv := by
  unfold doClz at h
  grind [→ kept_saWord, → both_ok, → map_ok, trapOf, holdOf, unlessDs.eq_def]
theorem kept_doCmov (d : BitVec 6) (a : BitVec 6) (b : BitVec 6) (w : BitVec 2) (s : State) {u : _} (h : doCmov d a b w s = .ok u) : u.mem = s.mem ∧ u.nv = s.nv := by
  unfold doCmov at h
  grind [→ kept_putS, → trapFirst_ok, → both_ok, → map_ok, trapOf, holdOf, unlessDs.eq_def]
theorem kept_doCne (d : BitVec 6) (a : BitVec 6) (b : BitVec 6) (w : BitVec 2) (s : State) {u : _} (h : doCne d a b w s = .ok u) : u.mem = s.mem ∧ u.nv = s.nv := by
  unfold doCne at h
  grind [→ kept_saWord, → both_ok, → map_ok, trapOf, holdOf, unlessDs.eq_def]
theorem kept_doCtz (d : BitVec 6) (a : BitVec 6) (w : BitVec 2) (s : State) {u : _} (h : doCtz d a w s = .ok u) : u.mem = s.mem ∧ u.nv = s.nv := by
  unfold doCtz at h
  grind [→ kept_saWord, → both_ok, → map_ok, trapOf, holdOf, unlessDs.eq_def]
theorem kept_doDiv (d : BitVec 6) (a : BitVec 6) (b : BitVec 6) (w : BitVec 2) (s : State) {u : _} (h : doDiv d a b w s = .ok u) : u.mem = s.mem ∧ u.nv = s.nv := by
  unfold doDiv at h
  grind [→ kept_saWord, → both_ok, → map_ok, trapOf, holdOf, unlessDs.eq_def]
theorem kept_doDivn (d : BitVec 6) (a : BitVec 6) (b : BitVec 6) (w : BitVec 2) (s : State) {u : _} (h : doDivn d a b w s = .ok u) : u.mem = s.mem ∧ u.nv = s.nv := by
  unfold doDivn at h
  grind [→ kept_saWord, → both_ok, → map_ok, trapOf, holdOf, unlessDs.eq_def]
theorem kept_doFill (d : BitVec 6) (id : BitVec 8) (s : State) {u : _} (h : doFill d id s = .ok u) : u.mem = s.mem ∧ u.nv = s.nv := by
  unfold doFill at h
  grind [→ kept_putS, kept_noteFill, → both_ok, → map_ok, trapOf, holdOf, unlessDs.eq_def]
theorem kept_doGet (d : BitVec 6) (file : BitVec 3) (idx : BitVec 5) (lane : BitVec 6) (s : State) {u : _} (h : doGet d file idx lane s = .ok u) : u.mem = s.mem ∧ u.nv = s.nv := by
  unfold doGet at h
  grind [→ kept_putS, → both_ok, → map_ok, trapOf, holdOf, unlessDs.eq_def]
theorem kept_doLi (d : BitVec 6) (imm : BitVec 14) (s : State) {u : _} (h : doLi d imm s = .ok u) : u.mem = s.mem ∧ u.nv = s.nv := by
  unfold doLi at h
  grind [→ kept_putS, → both_ok, → map_ok, trapOf, holdOf, unlessDs.eq_def]
theorem kept_doLis (d : BitVec 6) (imm : BitVec 14) (s : State) {u : _} (h : doLis d imm s = .ok u) : u.mem = s.mem ∧ u.nv = s.nv := by
  unfold doLis at h
  grind [→ kept_putS, → both_ok, → map_ok, trapOf, holdOf, unlessDs.eq_def]
theorem kept_doMax (d : BitVec 6) (a : BitVec 6) (b : BitVec 6) (w : BitVec 2) (s : State) {u : _} (h : doMax d a b w s = .ok u) : u.mem = s.mem ∧ u.nv = s.nv := by
  unfold doMax at h
  grind [→ kept_saWord, → both_ok, → map_ok, trapOf, holdOf, unlessDs.eq_def]
theorem kept_doMaxn (d : BitVec 6) (a : BitVec 6) (b : BitVec 6) (w : BitVec 2) (s : State) {u : _} (h : doMaxn d a b w s = .ok u) : u.mem = s.mem ∧ u.nv = s.nv := by
  unfold doMaxn at h
  grind [→ kept_saWord, → both_ok, → map_ok, trapOf, holdOf, unlessDs.eq_def]
theorem kept_doMin (d : BitVec 6) (a : BitVec 6) (b : BitVec 6) (w : BitVec 2) (s : State) {u : _} (h : doMin d a b w s = .ok u) : u.mem = s.mem ∧ u.nv = s.nv := by
  unfold doMin at h
  grind [→ kept_saWord, → both_ok, → map_ok, trapOf, holdOf, unlessDs.eq_def]
theorem kept_doMinn (d : BitVec 6) (a : BitVec 6) (b : BitVec 6) (w : BitVec 2) (s : State) {u : _} (h : doMinn d a b w s = .ok u) : u.mem = s.mem ∧ u.nv = s.nv := by
  unfold doMinn at h
  grind [→ kept_saWord, → both_ok, → map_ok, trapOf, holdOf, unlessDs.eq_def]
theorem kept_doMul (d : BitVec 6) (a : BitVec 6) (b : BitVec 6) (w : BitVec 2) (s : State) {u : _} (h : doMul d a b w s = .ok u) : u.mem = s.mem ∧ u.nv = s.nv := by
  unfold doMul at h
  grind [→ kept_saWord, → both_ok, → map_ok, trapOf, holdOf, unlessDs.eq_def]
theorem kept_doMulh (d : BitVec 6) (a : BitVec 6) (b : BitVec 6) (w : BitVec 2) (s : State) {u : _} (h : doMulh d a b w s = .ok u) : u.mem = s.mem ∧ u.nv = s.nv := by
  unfold doMulh at h
  grind [→ kept_saWord, → both_ok, → map_ok, trapOf, holdOf, unlessDs.eq_def]
theorem kept_doMulhn (d : BitVec 6) (a : BitVec 6) (b : BitVec 6) (w : BitVec 2) (s : State) {u : _} (h : doMulhn d a b w s = .ok u) : u.mem = s.mem ∧ u.nv = s.nv := by
  unfold doMulhn at h
  grind [→ kept_saWord, → both_ok, → map_ok, trapOf, holdOf, unlessDs.eq_def]
theorem kept_doNop (s : State) {u : _} (h : doNop s = .ok u) : u.mem = s.mem ∧ u.nv = s.nv := by
  unfold doNop at h
  grind [→ both_ok, → map_ok, trapOf, holdOf, unlessDs.eq_def]
theorem kept_doOr (d : BitVec 6) (a : BitVec 6) (b : BitVec 6) (w : BitVec 2) (s : State) {u : _} (h : doOr d a b w s = .ok u) : u.mem = s.mem ∧ u.nv = s.nv := by
  unfold doOr at h
  grind [→ kept_saWord, → both_ok, → map_ok, trapOf, holdOf, unlessDs.eq_def]
theorem kept_doOri (d : BitVec 6) (a : BitVec 6) (imm : BitVec 8) (s : State) {u : _} (h : doOri d a imm s = .ok u) : u.mem = s.mem ∧ u.nv = s.nv := by
  unfold doOri at h
  grind [→ kept_sbWord, → both_ok, → map_ok, trapOf, holdOf, unlessDs.eq_def]
theorem kept_doPopc (d : BitVec 6) (a : BitVec 6) (w : BitVec 2) (s : State) {u : _} (h : doPopc d a w s = .ok u) : u.mem = s.mem ∧ u.nv = s.nv := by
  unfold doPopc at h
  grind [→ kept_saWord, → both_ok, → map_ok, trapOf, holdOf, unlessDs.eq_def]
theorem kept_doPush (w : BitVec 2) (a : BitVec 6) (s : State) {u : _} (h : doPush w a s = .ok u) : u.mem = s.mem ∧ u.nv = s.nv := by
  unfold doPush at h
  grind [kept_pushEntry, → both_ok, → map_ok, trapOf, holdOf, unlessDs.eq_def]
theorem kept_doRem (d : BitVec 6) (a : BitVec 6) (b : BitVec 6) (w : BitVec 2) (s : State) {u : _} (h : doRem d a b w s = .ok u) : u.mem = s.mem ∧ u.nv = s.nv := by
  unfold doRem at h
  grind [→ kept_saWord, → both_ok, → map_ok, trapOf, holdOf, unlessDs.eq_def]
theorem kept_doRemn (d : BitVec 6) (a : BitVec 6) (b : BitVec 6) (w : BitVec 2) (s : State) {u : _} (h : doRemn d a b w s = .ok u) : u.mem = s.mem ∧ u.nv = s.nv := by
  unfold doRemn at h
  grind [→ kept_saWord, → both_ok, → map_ok, trapOf, holdOf, unlessDs.eq_def]
theorem kept_doRol (d : BitVec 6) (a : BitVec 6) (b : BitVec 6) (w : BitVec 2) (s : State) {u : _} (h : doRol d a b w s = .ok u) : u.mem = s.mem ∧ u.nv = s.nv := by
  unfold doRol at h
  grind [→ kept_saWord, → both_ok, → map_ok, trapOf, holdOf, unlessDs.eq_def]
theorem kept_doShl (d : BitVec 6) (a : BitVec 6) (b : BitVec 6) (w : BitVec 2) (s : State) {u : _} (h : doShl d a b w s = .ok u) : u.mem = s.mem ∧ u.nv = s.nv := by
  unfold doShl at h
  grind [→ kept_saWord, → both_ok, → map_ok, trapOf, holdOf, unlessDs.eq_def]
theorem kept_doShli (d : BitVec 6) (a : BitVec 6) (imm : BitVec 8) (s : State) {u : _} (h : doShli d a imm s = .ok u) : u.mem = s.mem ∧ u.nv = s.nv := by
  unfold doShli at h
  grind [→ kept_sbWord, → both_ok, → map_ok, trapOf, holdOf, unlessDs.eq_def]
theorem kept_doShr (d : BitVec 6) (a : BitVec 6) (b : BitVec 6) (w : BitVec 2) (s : State) {u : _} (h : doShr d a b w s = .ok u) : u.mem = s.mem ∧ u.nv = s.nv := by
  unfold doShr at h
  grind [→ kept_saWord, → both_ok, → map_ok, trapOf, holdOf, unlessDs.eq_def]
theorem kept_doShri (d : BitVec 6) (a : BitVec 6) (imm : BitVec 8) (s : State) {u : _} (h : doShri d a imm s = .ok u) : u.mem = s.mem ∧ u.nv = s.nv := by
  unfold doShri at h
  grind [→ kept_sbWord, → both_ok, → map_ok, trapOf, holdOf, unlessDs.eq_def]
theorem kept_doSpill (id : BitVec 8) (a : BitVec 6) (s : State) {u : _} (h : doSpill id a s = .ok u) : u.mem = s.mem ∧ u.nv = s.nv := by
  unfold doSpill at h
  grind [→ kept_spillWord, → both_ok, → map_ok, trapOf, holdOf, unlessDs.eq_def]
theorem kept_doSra (d : BitVec 6) (a : BitVec 6) (b : BitVec 6) (w : BitVec 2) (s : State) {u : _} (h : doSra d a b w s = .ok u) : u.mem = s.mem ∧ u.nv = s.nv := by
  unfold doSra at h
  grind [→ kept_saWord, → both_ok, → map_ok, trapOf, holdOf, unlessDs.eq_def]
theorem kept_doSrai (d : BitVec 6) (a : BitVec 6) (imm : BitVec 8) (s : State) {u : _} (h : doSrai d a imm s = .ok u) : u.mem = s.mem ∧ u.nv = s.nv := by
  unfold doSrai at h
  grind [→ kept_sbWord, → both_ok, → map_ok, trapOf, holdOf, unlessDs.eq_def]
theorem kept_doSub (d : BitVec 6) (a : BitVec 6) (b : BitVec 6) (w : BitVec 2) (s : State) {u : _} (h : doSub d a b w s = .ok u) : u.mem = s.mem ∧ u.nv = s.nv := by
  unfold doSub at h
  grind [→ kept_saWord, → both_ok, → map_ok, trapOf, holdOf, unlessDs.eq_def]
theorem kept_doXor (d : BitVec 6) (a : BitVec 6) (b : BitVec 6) (w : BitVec 2) (s : State) {u : _} (h : doXor d a b w s = .ok u) : u.mem = s.mem ∧ u.nv = s.nv := by
  unfold doXor at h
  grind [→ kept_saWord, → both_ok, → map_ok, trapOf, holdOf, unlessDs.eq_def]
theorem kept_doXori (d : BitVec 6) (a : BitVec 6) (imm : BitVec 8) (s : State) {u : _} (h : doXori d a imm s = .ok u) : u.mem = s.mem ∧ u.nv = s.nv := by
  unfold doXori at h
  grind [→ kept_sbWord, → both_ok, → map_ok, trapOf, holdOf, unlessDs.eq_def]
theorem kept_execAdd (d : BitVec 6) (a : BitVec 6) (b : BitVec 6) (w : BitVec 2) (s : State) {u : _} (h : execAdd d a b w s = .next u) : u.mem = s.mem ∧ u.nv = s.nv := by
  exact complete_kept (fun _ hu => kept_doAdd _ _ _ _ _ hu) (fun x => kept_takeTrap s x) h
theorem kept_execAddi (d : BitVec 6) (a : BitVec 6) (imm : BitVec 8) (s : State) {u : _} (h : execAddi d a imm s = .next u) : u.mem = s.mem ∧ u.nv = s.nv := by
  exact complete_kept (fun _ hu => kept_doAddi _ _ _ _ hu) (fun x => kept_takeTrap s x) h
theorem kept_execAnd (d : BitVec 6) (a : BitVec 6) (b : BitVec 6) (w : BitVec 2) (s : State) {u : _} (h : execAnd d a b w s = .next u) : u.mem = s.mem ∧ u.nv = s.nv := by
  exact complete_kept (fun _ hu => kept_doAnd _ _ _ _ _ hu) (fun x => kept_takeTrap s x) h
theorem kept_execAndi (d : BitVec 6) (a : BitVec 6) (imm : BitVec 8) (s : State) {u : _} (h : execAndi d a imm s = .next u) : u.mem = s.mem ∧ u.nv = s.nv := by
  exact complete_kept (fun _ hu => kept_doAndi _ _ _ _ hu) (fun x => kept_takeTrap s x) h
theorem kept_execAndn (d : BitVec 6) (a : BitVec 6) (b : BitVec 6) (w : BitVec 2) (s : State) {u : _} (h : execAndn d a b w s = .next u) : u.mem = s.mem ∧ u.nv = s.nv := by
  exact complete_kept (fun _ hu => kept_doAndn _ _ _ _ _ hu) (fun x => kept_takeTrap s x) h
theorem kept_execCeq (d : BitVec 6) (a : BitVec 6) (b : BitVec 6) (w : BitVec 2) (s : State) {u : _} (h : execCeq d a b w s = .next u) : u.mem = s.mem ∧ u.nv = s.nv := by
  exact complete_kept (fun _ hu => kept_doCeq _ _ _ _ _ hu) (fun x => kept_takeTrap s x) h
theorem kept_execCeqi (d : BitVec 6) (a : BitVec 6) (imm : BitVec 8) (s : State) {u : _} (h : execCeqi d a imm s = .next u) : u.mem = s.mem ∧ u.nv = s.nv := by
  exact complete_kept (fun _ hu => kept_doCeqi _ _ _ _ hu) (fun x => kept_takeTrap s x) h
theorem kept_execCle (d : BitVec 6) (a : BitVec 6) (b : BitVec 6) (w : BitVec 2) (s : State) {u : _} (h : execCle d a b w s = .next u) : u.mem = s.mem ∧ u.nv = s.nv := by
  exact complete_kept (fun _ hu => kept_doCle _ _ _ _ _ hu) (fun x => kept_takeTrap s x) h
theorem kept_execClen (d : BitVec 6) (a : BitVec 6) (b : BitVec 6) (w : BitVec 2) (s : State) {u : _} (h : execClen d a b w s = .next u) : u.mem = s.mem ∧ u.nv = s.nv := by
  exact complete_kept (fun _ hu => kept_doClen _ _ _ _ _ hu) (fun x => kept_takeTrap s x) h
theorem kept_execClt (d : BitVec 6) (a : BitVec 6) (b : BitVec 6) (w : BitVec 2) (s : State) {u : _} (h : execClt d a b w s = .next u) : u.mem = s.mem ∧ u.nv = s.nv := by
  exact complete_kept (fun _ hu => kept_doClt _ _ _ _ _ hu) (fun x => kept_takeTrap s x) h
theorem kept_execClti (d : BitVec 6) (a : BitVec 6) (imm : BitVec 8) (s : State) {u : _} (h : execClti d a imm s = .next u) : u.mem = s.mem ∧ u.nv = s.nv := by
  exact complete_kept (fun _ hu => kept_doClti _ _ _ _ hu) (fun x => kept_takeTrap s x) h
theorem kept_execCltn (d : BitVec 6) (a : BitVec 6) (b : BitVec 6) (w : BitVec 2) (s : State) {u : _} (h : execCltn d a b w s = .next u) : u.mem = s.mem ∧ u.nv = s.nv := by
  exact complete_kept (fun _ hu => kept_doCltn _ _ _ _ _ hu) (fun x => kept_takeTrap s x) h
theorem kept_execCltni (d : BitVec 6) (a : BitVec 6) (imm : BitVec 8) (s : State) {u : _} (h : execCltni d a imm s = .next u) : u.mem = s.mem ∧ u.nv = s.nv := by
  exact complete_kept (fun _ hu => kept_doCltni _ _ _ _ hu) (fun x => kept_takeTrap s x) h
theorem kept_execClz (d : BitVec 6) (a : BitVec 6) (w : BitVec 2) (s : State) {u : _} (h : execClz d a w s = .next u) : u.mem = s.mem ∧ u.nv = s.nv := by
  exact complete_kept (fun _ hu => kept_doClz _ _ _ _ hu) (fun x => kept_takeTrap s x) h
theorem kept_execCmov (d : BitVec 6) (a : BitVec 6) (b : BitVec 6) (w : BitVec 2) (s : State) {u : _} (h : execCmov d a b w s = .next u) : u.mem = s.mem ∧ u.nv = s.nv := by
  exact complete_kept (fun _ hu => kept_doCmov _ _ _ _ _ hu) (fun x => kept_takeTrap s x) h
theorem kept_execCne (d : BitVec 6) (a : BitVec 6) (b : BitVec 6) (w : BitVec 2) (s : State) {u : _} (h : execCne d a b w s = .next u) : u.mem = s.mem ∧ u.nv = s.nv := by
  exact complete_kept (fun _ hu => kept_doCne _ _ _ _ _ hu) (fun x => kept_takeTrap s x) h
theorem kept_execCtz (d : BitVec 6) (a : BitVec 6) (w : BitVec 2) (s : State) {u : _} (h : execCtz d a w s = .next u) : u.mem = s.mem ∧ u.nv = s.nv := by
  exact complete_kept (fun _ hu => kept_doCtz _ _ _ _ hu) (fun x => kept_takeTrap s x) h
theorem kept_execDiv (d : BitVec 6) (a : BitVec 6) (b : BitVec 6) (w : BitVec 2) (s : State) {u : _} (h : execDiv d a b w s = .next u) : u.mem = s.mem ∧ u.nv = s.nv := by
  exact complete_kept (fun _ hu => kept_doDiv _ _ _ _ _ hu) (fun x => kept_takeTrap s x) h
theorem kept_execDivn (d : BitVec 6) (a : BitVec 6) (b : BitVec 6) (w : BitVec 2) (s : State) {u : _} (h : execDivn d a b w s = .next u) : u.mem = s.mem ∧ u.nv = s.nv := by
  exact complete_kept (fun _ hu => kept_doDivn _ _ _ _ _ hu) (fun x => kept_takeTrap s x) h
theorem kept_execFill (d : BitVec 6) (id : BitVec 8) (s : State) {u : _} (h : execFill d id s = .next u) : u.mem = s.mem ∧ u.nv = s.nv := by
  exact complete_kept (fun _ hu => kept_doFill _ _ _ hu) (fun x => kept_takeTrap s x) h
theorem kept_execGet (d : BitVec 6) (file : BitVec 3) (idx : BitVec 5) (lane : BitVec 6) (s : State) {u : _} (h : execGet d file idx lane s = .next u) : u.mem = s.mem ∧ u.nv = s.nv := by
  exact complete_kept (fun _ hu => kept_doGet _ _ _ _ _ hu) (fun x => kept_takeTrap s x) h
theorem kept_execLi (d : BitVec 6) (imm : BitVec 14) (s : State) {u : _} (h : execLi d imm s = .next u) : u.mem = s.mem ∧ u.nv = s.nv := by
  exact complete_kept (fun _ hu => kept_doLi _ _ _ hu) (fun x => kept_takeTrap s x) h
theorem kept_execLis (d : BitVec 6) (imm : BitVec 14) (s : State) {u : _} (h : execLis d imm s = .next u) : u.mem = s.mem ∧ u.nv = s.nv := by
  exact complete_kept (fun _ hu => kept_doLis _ _ _ hu) (fun x => kept_takeTrap s x) h
theorem kept_execMax (d : BitVec 6) (a : BitVec 6) (b : BitVec 6) (w : BitVec 2) (s : State) {u : _} (h : execMax d a b w s = .next u) : u.mem = s.mem ∧ u.nv = s.nv := by
  exact complete_kept (fun _ hu => kept_doMax _ _ _ _ _ hu) (fun x => kept_takeTrap s x) h
theorem kept_execMaxn (d : BitVec 6) (a : BitVec 6) (b : BitVec 6) (w : BitVec 2) (s : State) {u : _} (h : execMaxn d a b w s = .next u) : u.mem = s.mem ∧ u.nv = s.nv := by
  exact complete_kept (fun _ hu => kept_doMaxn _ _ _ _ _ hu) (fun x => kept_takeTrap s x) h
theorem kept_execMin (d : BitVec 6) (a : BitVec 6) (b : BitVec 6) (w : BitVec 2) (s : State) {u : _} (h : execMin d a b w s = .next u) : u.mem = s.mem ∧ u.nv = s.nv := by
  exact complete_kept (fun _ hu => kept_doMin _ _ _ _ _ hu) (fun x => kept_takeTrap s x) h
theorem kept_execMinn (d : BitVec 6) (a : BitVec 6) (b : BitVec 6) (w : BitVec 2) (s : State) {u : _} (h : execMinn d a b w s = .next u) : u.mem = s.mem ∧ u.nv = s.nv := by
  exact complete_kept (fun _ hu => kept_doMinn _ _ _ _ _ hu) (fun x => kept_takeTrap s x) h
theorem kept_execMul (d : BitVec 6) (a : BitVec 6) (b : BitVec 6) (w : BitVec 2) (s : State) {u : _} (h : execMul d a b w s = .next u) : u.mem = s.mem ∧ u.nv = s.nv := by
  exact complete_kept (fun _ hu => kept_doMul _ _ _ _ _ hu) (fun x => kept_takeTrap s x) h
theorem kept_execMulh (d : BitVec 6) (a : BitVec 6) (b : BitVec 6) (w : BitVec 2) (s : State) {u : _} (h : execMulh d a b w s = .next u) : u.mem = s.mem ∧ u.nv = s.nv := by
  exact complete_kept (fun _ hu => kept_doMulh _ _ _ _ _ hu) (fun x => kept_takeTrap s x) h
theorem kept_execMulhn (d : BitVec 6) (a : BitVec 6) (b : BitVec 6) (w : BitVec 2) (s : State) {u : _} (h : execMulhn d a b w s = .next u) : u.mem = s.mem ∧ u.nv = s.nv := by
  exact complete_kept (fun _ hu => kept_doMulhn _ _ _ _ _ hu) (fun x => kept_takeTrap s x) h
theorem kept_execNop (s : State) {u : _} (h : execNop s = .next u) : u.mem = s.mem ∧ u.nv = s.nv := by
  exact complete_kept (fun _ hu => kept_doNop _ hu) (fun x => kept_takeTrap s x) h
theorem kept_execOr (d : BitVec 6) (a : BitVec 6) (b : BitVec 6) (w : BitVec 2) (s : State) {u : _} (h : execOr d a b w s = .next u) : u.mem = s.mem ∧ u.nv = s.nv := by
  exact complete_kept (fun _ hu => kept_doOr _ _ _ _ _ hu) (fun x => kept_takeTrap s x) h
theorem kept_execOri (d : BitVec 6) (a : BitVec 6) (imm : BitVec 8) (s : State) {u : _} (h : execOri d a imm s = .next u) : u.mem = s.mem ∧ u.nv = s.nv := by
  exact complete_kept (fun _ hu => kept_doOri _ _ _ _ hu) (fun x => kept_takeTrap s x) h
theorem kept_execPopc (d : BitVec 6) (a : BitVec 6) (w : BitVec 2) (s : State) {u : _} (h : execPopc d a w s = .next u) : u.mem = s.mem ∧ u.nv = s.nv := by
  exact complete_kept (fun _ hu => kept_doPopc _ _ _ _ hu) (fun x => kept_takeTrap s x) h
theorem kept_execPush (w : BitVec 2) (a : BitVec 6) (s : State) {u : _} (h : execPush w a s = .next u) : u.mem = s.mem ∧ u.nv = s.nv := by
  exact complete_kept (fun _ hu => kept_doPush _ _ _ hu) (fun x => kept_takeTrap s x) h
theorem kept_execRem (d : BitVec 6) (a : BitVec 6) (b : BitVec 6) (w : BitVec 2) (s : State) {u : _} (h : execRem d a b w s = .next u) : u.mem = s.mem ∧ u.nv = s.nv := by
  exact complete_kept (fun _ hu => kept_doRem _ _ _ _ _ hu) (fun x => kept_takeTrap s x) h
theorem kept_execRemn (d : BitVec 6) (a : BitVec 6) (b : BitVec 6) (w : BitVec 2) (s : State) {u : _} (h : execRemn d a b w s = .next u) : u.mem = s.mem ∧ u.nv = s.nv := by
  exact complete_kept (fun _ hu => kept_doRemn _ _ _ _ _ hu) (fun x => kept_takeTrap s x) h
theorem kept_execRol (d : BitVec 6) (a : BitVec 6) (b : BitVec 6) (w : BitVec 2) (s : State) {u : _} (h : execRol d a b w s = .next u) : u.mem = s.mem ∧ u.nv = s.nv := by
  exact complete_kept (fun _ hu => kept_doRol _ _ _ _ _ hu) (fun x => kept_takeTrap s x) h
theorem kept_execShl (d : BitVec 6) (a : BitVec 6) (b : BitVec 6) (w : BitVec 2) (s : State) {u : _} (h : execShl d a b w s = .next u) : u.mem = s.mem ∧ u.nv = s.nv := by
  exact complete_kept (fun _ hu => kept_doShl _ _ _ _ _ hu) (fun x => kept_takeTrap s x) h
theorem kept_execShli (d : BitVec 6) (a : BitVec 6) (imm : BitVec 8) (s : State) {u : _} (h : execShli d a imm s = .next u) : u.mem = s.mem ∧ u.nv = s.nv := by
  exact complete_kept (fun _ hu => kept_doShli _ _ _ _ hu) (fun x => kept_takeTrap s x) h
theorem kept_execShr (d : BitVec 6) (a : BitVec 6) (b : BitVec 6) (w : BitVec 2) (s : State) {u : _} (h : execShr d a b w s = .next u) : u.mem = s.mem ∧ u.nv = s.nv := by
  exact complete_kept (fun _ hu => kept_doShr _ _ _ _ _ hu) (fun x => kept_takeTrap s x) h
theorem kept_execShri (d : BitVec 6) (a : BitVec 6) (imm : BitVec 8) (s : State) {u : _} (h : execShri d a imm s = .next u) : u.mem = s.mem ∧ u.nv = s.nv := by
  exact complete_kept (fun _ hu => kept_doShri _ _ _ _ hu) (fun x => kept_takeTrap s x) h
theorem kept_execSpill (id : BitVec 8) (a : BitVec 6) (s : State) {u : _} (h : execSpill id a s = .next u) : u.mem = s.mem ∧ u.nv = s.nv := by
  exact complete_kept (fun _ hu => kept_doSpill _ _ _ hu) (fun x => kept_takeTrap s x) h
theorem kept_execSra (d : BitVec 6) (a : BitVec 6) (b : BitVec 6) (w : BitVec 2) (s : State) {u : _} (h : execSra d a b w s = .next u) : u.mem = s.mem ∧ u.nv = s.nv := by
  exact complete_kept (fun _ hu => kept_doSra _ _ _ _ _ hu) (fun x => kept_takeTrap s x) h
theorem kept_execSrai (d : BitVec 6) (a : BitVec 6) (imm : BitVec 8) (s : State) {u : _} (h : execSrai d a imm s = .next u) : u.mem = s.mem ∧ u.nv = s.nv := by
  exact complete_kept (fun _ hu => kept_doSrai _ _ _ _ hu) (fun x => kept_takeTrap s x) h
theorem kept_execSub (d : BitVec 6) (a : BitVec 6) (b : BitVec 6) (w : BitVec 2) (s : State) {u : _} (h : execSub d a b w s = .next u) : u.mem = s.mem ∧ u.nv = s.nv := by
  exact complete_kept (fun _ hu => kept_doSub _ _ _ _ _ hu) (fun x => kept_takeTrap s x) h
theorem kept_execXor (d : BitVec 6) (a : BitVec 6) (b : BitVec 6) (w : BitVec 2) (s : State) {u : _} (h : execXor d a b w s = .next u) : u.mem = s.mem ∧ u.nv = s.nv := by
  exact complete_kept (fun _ hu => kept_doXor _ _ _ _ _ hu) (fun x => kept_takeTrap s x) h
theorem kept_execXori (d : BitVec 6) (a : BitVec 6) (imm : BitVec 8) (s : State) {u : _} (h : execXori d a imm s = .next u) : u.mem = s.mem ∧ u.nv = s.nv := by
  exact complete_kept (fun _ hu => kept_doXori _ _ _ _ hu) (fun x => kept_takeTrap s x) h
theorem kept_doKand (sl : VSlot) (d : BitVec 5) (a : BitVec 5) (b : BitVec 5) (s : State) {u : _} (h : doKand sl d a b s = .ok u) : u.mem = s.mem ∧ u.nv = s.nv := by
  unfold doKand at h
  grind [→ kept_kOp, → both_ok, → map_ok, trapOf, holdOf, unlessDs.eq_def]
theorem kept_doKnot (sl : VSlot) (d : BitVec 5) (a : BitVec 5) (s : State) {u : _} (h : doKnot sl d a s = .ok u) : u.mem = s.mem ∧ u.nv = s.nv := by
  unfold doKnot at h
  grind [→ kept_kOp, → both_ok, → map_ok, trapOf, holdOf, unlessDs.eq_def]
theorem kept_doKor (sl : VSlot) (d : BitVec 5) (a : BitVec 5) (b : BitVec 5) (s : State) {u : _} (h : doKor sl d a b s = .ok u) : u.mem = s.mem ∧ u.nv = s.nv := by
  unfold doKor at h
  grind [→ kept_kOp, → both_ok, → map_ok, trapOf, holdOf, unlessDs.eq_def]
theorem kept_doKxor (sl : VSlot) (d : BitVec 5) (a : BitVec 5) (b : BitVec 5) (s : State) {u : _} (h : doKxor sl d a b s = .ok u) : u.mem = s.mem ∧ u.nv = s.nv := by
  unfold doKxor at h
  grind [→ kept_kOp, → both_ok, → map_ok, trapOf, holdOf, unlessDs.eq_def]
theorem kept_doVabs (sl : VSlot) (fmt : BitVec 4) (d : BitVec 5) (a : BitVec 5) (k : BitVec 2) (s : State) {u : _} (h : doVabs sl fmt d a k s = .ok u) : u.mem = s.mem ∧ u.nv = s.nv := by
  unfold doVabs at h
  grind [→ kept_vUn, → both_ok, → map_ok, trapOf, holdOf, unlessDs.eq_def]
theorem kept_doVadd (sl : VSlot) (fmt : BitVec 4) (d : BitVec 5) (a : BitVec 5) (b : BitVec 5) (k : BitVec 2) (s : State) {u : _} (h : doVadd sl fmt d a b k s = .ok u) : u.mem = s.mem ∧ u.nv = s.nv := by
  unfold doVadd at h
  grind [→ kept_vBin, → both_ok, → map_ok, trapOf, holdOf, unlessDs.eq_def]
theorem kept_doVaddi (sl : VSlot) (fmt : BitVec 4) (d : BitVec 5) (a : BitVec 5) (imm : BitVec 7) (s : State) {u : _} (h : doVaddi sl fmt d a imm s = .ok u) : u.mem = s.mem ∧ u.nv = s.nv := by
  unfold doVaddi at h
  grind [→ kept_vImm, → both_ok, → map_ok, trapOf, holdOf, unlessDs.eq_def]
theorem kept_doVadds (sl : VSlot) (fmt : BitVec 4) (d : BitVec 5) (a : BitVec 5) (b : BitVec 5) (k : BitVec 2) (s : State) {u : _} (h : doVadds sl fmt d a b k s = .ok u) : u.mem = s.mem ∧ u.nv = s.nv := by
  unfold doVadds at h
  grind [→ kept_vBin, → both_ok, → map_ok, trapOf, holdOf, unlessDs.eq_def]
theorem kept_doVand (sl : VSlot) (d : BitVec 5) (a : BitVec 5) (b : BitVec 5) (k : BitVec 2) (s : State) {u : _} (h : doVand sl d a b k s = .ok u) : u.mem = s.mem ∧ u.nv = s.nv := by
  unfold doVand at h
  grind [→ kept_vBits, → both_ok, → map_ok, trapOf, holdOf, unlessDs.eq_def]
theorem kept_doVceq (sl : VSlot) (fmt : BitVec 4) (d : BitVec 5) (a : BitVec 5) (b : BitVec 5) (k : BitVec 2) (s : State) {u : _} (h : doVceq sl fmt d a b k s = .ok u) : u.mem = s.mem ∧ u.nv = s.nv := by
  unfold doVceq at h
  grind [→ kept_vCmp, → both_ok, → map_ok, trapOf, holdOf, unlessDs.eq_def]
theorem kept_doVcle (sl : VSlot) (fmt : BitVec 4) (d : BitVec 5) (a : BitVec 5) (b : BitVec 5) (k : BitVec 2) (s : State) {u : _} (h : doVcle sl fmt d a b k s = .ok u) : u.mem = s.mem ∧ u.nv = s.nv := by
  unfold doVcle at h
  grind [→ kept_vCmp, → both_ok, → map_ok, trapOf, holdOf, unlessDs.eq_def]
theorem kept_doVclt (sl : VSlot) (fmt : BitVec 4) (d : BitVec 5) (a : BitVec 5) (b : BitVec 5) (k : BitVec 2) (s : State) {u : _} (h : doVclt sl fmt d a b k s = .ok u) : u.mem = s.mem ∧ u.nv = s.nv := by
  unfold doVclt at h
  grind [→ kept_vCmp, → both_ok, → map_ok, trapOf, holdOf, unlessDs.eq_def]
theorem kept_doVcne (sl : VSlot) (fmt : BitVec 4) (d : BitVec 5) (a : BitVec 5) (b : BitVec 5) (k : BitVec 2) (s : State) {u : _} (h : doVcne sl fmt d a b k s = .ok u) : u.mem = s.mem ∧ u.nv = s.nv := by
  unfold doVcne at h
  grind [→ kept_vCmp, → both_ok, → map_ok, trapOf, holdOf, unlessDs.eq_def]
theorem kept_doVcun (sl : VSlot) (fmt : BitVec 4) (d : BitVec 5) (a : BitVec 5) (b : BitVec 5) (k : BitVec 2) (s : State) {u : _} (h : doVcun sl fmt d a b k s = .ok u) : u.mem = s.mem ∧ u.nv = s.nv := by
  unfold doVcun at h
  grind [→ kept_vCmp, → both_ok, → map_ok, trapOf, holdOf, unlessDs.eq_def]
theorem kept_doVcvt (sl : VSlot) (fd : BitVec 4) (d : BitVec 5) (a : BitVec 5) (fs : BitVec 4) (rnd : BitVec 2) (sat : BitVec 1) (s : State) {u : _} (h : doVcvt sl fd d a fs rnd sat s = .ok u) : u.mem = s.mem ∧ u.nv = s.nv := by
  unfold doVcvt at h
  grind [kept_takeSr, → kept_putV, → trapFirst_ok, → both_ok, → map_ok, trapOf, holdOf, unlessDs.eq_def]
theorem kept_doVdefer (sl : VSlot) (cnt : BitVec 5) (a : BitVec 5) (b : BitVec 5) (k : BitVec 2) (s : State) {u : _} (h : doVdefer sl cnt a b k s = .ok u) : u.mem = s.mem ∧ u.nv = s.nv := by
  unfold doVdefer at h
  grind [kept_State_setMy, → both_ok, → map_ok, trapOf, holdOf, unlessDs.eq_def]
theorem kept_doVdrain (sl : VSlot) (d : BitVec 5) (o : BitVec 5) (km : BitVec 2) (s : State) {u : _} (h : doVdrain sl d o km s = .ok u) : u.mem = s.mem ∧ u.nv = s.nv := by
  unfold doVdrain at h
  grind [kept_State_setMy, → kept_putV, → kept_putK, → both_ok, → map_ok, trapOf, holdOf, unlessDs.eq_def]
theorem kept_doVexp2 (sl : VSlot) (fmt : BitVec 4) (d : BitVec 5) (a : BitVec 5) (k : BitVec 2) (s : State) {u : _} (h : doVexp2 sl fmt d a k s = .ok u) : u.mem = s.mem ∧ u.nv = s.nv := by
  unfold doVexp2 at h
  grind [→ kept_vUn, → both_ok, → map_ok, trapOf, holdOf, unlessDs.eq_def]
theorem kept_doVfill (sl : VSlot) (d : BitVec 5) (id : BitVec 8) (s : State) {u : _} (h : doVfill sl d id s = .ok u) : u.mem = s.mem ∧ u.nv = s.nv := by
  unfold doVfill at h
  grind [→ kept_putV, kept_noteFill, → both_ok, → map_ok, trapOf, holdOf, unlessDs.eq_def]
theorem kept_doVflr (sl : VSlot) (fmt : BitVec 4) (d : BitVec 5) (a : BitVec 5) (k : BitVec 2) (s : State) {u : _} (h : doVflr sl fmt d a k s = .ok u) : u.mem = s.mem ∧ u.nv = s.nv := by
  unfold doVflr at h
  grind [→ kept_vUn, → both_ok, → map_ok, trapOf, holdOf, unlessDs.eq_def]
theorem kept_doVfma (sl : VSlot) (fmt : BitVec 4) (d : BitVec 5) (a : BitVec 5) (b : BitVec 5) (k : BitVec 2) (s : State) {u : _} (h : doVfma sl fmt d a b k s = .ok u) : u.mem = s.mem ∧ u.nv = s.nv := by
  unfold doVfma at h
  grind [→ kept_vTri, → both_ok, → map_ok, trapOf, holdOf, unlessDs.eq_def]
theorem kept_doVfms (sl : VSlot) (fmt : BitVec 4) (d : BitVec 5) (a : BitVec 5) (b : BitVec 5) (k : BitVec 2) (s : State) {u : _} (h : doVfms sl fmt d a b k s = .ok u) : u.mem = s.mem ∧ u.nv = s.nv := by
  unfold doVfms at h
  grind [→ kept_vTri, → both_ok, → map_ok, trapOf, holdOf, unlessDs.eq_def]
theorem kept_doVget (sl : VSlot) (d : BitVec 5) (file : BitVec 3) (idx : BitVec 6) (lane : BitVec 5) (s : State) {u : _} (h : doVget sl d file idx lane s = .ok u) : u.mem = s.mem ∧ u.nv = s.nv := by
  unfold doVget at h
  grind [→ kept_putV, → kept_putK, → both_ok, → map_ok, trapOf, holdOf, unlessDs.eq_def]
theorem kept_doViota (sl : VSlot) (fmt : BitVec 4) (d : BitVec 5) (k : BitVec 2) (s : State) {u : _} (h : doViota sl fmt d k s = .ok u) : u.mem = s.mem ∧ u.nv = s.nv := by
  unfold doViota at h
  grind [→ kept_putV, → both_ok, → map_ok, trapOf, holdOf, unlessDs.eq_def]
theorem kept_doVlane (sl : VSlot) (fmt : BitVec 4) (d : BitVec 5) (a : BitVec 5) (b : BitVec 5) (k : BitVec 2) (s : State) {u : _} (h : doVlane sl fmt d a b k s = .ok u) : u.mem = s.mem ∧ u.nv = s.nv := by
  unfold doVlane at h
  grind [→ kept_putV, → trapFirst_ok, → both_ok, → map_ok, trapOf, holdOf, unlessDs.eq_def]
theorem kept_doVlog2 (sl : VSlot) (fmt : BitVec 4) (d : BitVec 5) (a : BitVec 5) (k : BitVec 2) (s : State) {u : _} (h : doVlog2 sl fmt d a k s = .ok u) : u.mem = s.mem ∧ u.nv = s.nv := by
  unfold doVlog2 at h
  grind [→ kept_vUn, → both_ok, → map_ok, trapOf, holdOf, unlessDs.eq_def]
theorem kept_doVmax (sl : VSlot) (fmt : BitVec 4) (d : BitVec 5) (a : BitVec 5) (b : BitVec 5) (k : BitVec 2) (s : State) {u : _} (h : doVmax sl fmt d a b k s = .ok u) : u.mem = s.mem ∧ u.nv = s.nv := by
  unfold doVmax at h
  grind [→ kept_vBin, → both_ok, → map_ok, trapOf, holdOf, unlessDs.eq_def]
theorem kept_doVmin (sl : VSlot) (fmt : BitVec 4) (d : BitVec 5) (a : BitVec 5) (b : BitVec 5) (k : BitVec 2) (s : State) {u : _} (h : doVmin sl fmt d a b k s = .ok u) : u.mem = s.mem ∧ u.nv = s.nv := by
  unfold doVmin at h
  grind [→ kept_vBin, → both_ok, → map_ok, trapOf, holdOf, unlessDs.eq_def]
theorem kept_doVmov (sl : VSlot) (d : BitVec 5) (a : BitVec 5) (k : BitVec 2) (s : State) {u : _} (h : doVmov sl d a k s = .ok u) : u.mem = s.mem ∧ u.nv = s.nv := by
  unfold doVmov at h
  grind [→ kept_vUn, → both_ok, → map_ok, trapOf, holdOf, unlessDs.eq_def]
theorem kept_doVmul (sl : VSlot) (fmt : BitVec 4) (d : BitVec 5) (a : BitVec 5) (b : BitVec 5) (k : BitVec 2) (s : State) {u : _} (h : doVmul sl fmt d a b k s = .ok u) : u.mem = s.mem ∧ u.nv = s.nv := by
  unfold doVmul at h
  grind [→ kept_vBin, → both_ok, → map_ok, trapOf, holdOf, unlessDs.eq_def]
theorem kept_doVneg (sl : VSlot) (fmt : BitVec 4) (d : BitVec 5) (a : BitVec 5) (k : BitVec 2) (s : State) {u : _} (h : doVneg sl fmt d a k s = .ok u) : u.mem = s.mem ∧ u.nv = s.nv := by
  unfold doVneg at h
  grind [→ kept_vUn, → both_ok, → map_ok, trapOf, holdOf, unlessDs.eq_def]
theorem kept_doVnop (_sl : VSlot) (s : State) {u : _} (h : doVnop _sl s = .ok u) : u.mem = s.mem ∧ u.nv = s.nv := by
  unfold doVnop at h
  grind [→ both_ok, → map_ok, trapOf, holdOf, unlessDs.eq_def]
theorem kept_doVnot (sl : VSlot) (d : BitVec 5) (a : BitVec 5) (k : BitVec 2) (s : State) {u : _} (h : doVnot sl d a k s = .ok u) : u.mem = s.mem ∧ u.nv = s.nv := by
  unfold doVnot at h
  grind [→ kept_vUn, → both_ok, → map_ok, trapOf, holdOf, unlessDs.eq_def]
theorem kept_doVor (sl : VSlot) (d : BitVec 5) (a : BitVec 5) (b : BitVec 5) (k : BitVec 2) (s : State) {u : _} (h : doVor sl d a b k s = .ok u) : u.mem = s.mem ∧ u.nv = s.nv := by
  unfold doVor at h
  grind [→ kept_vBits, → both_ok, → map_ok, trapOf, holdOf, unlessDs.eq_def]
theorem kept_doVpush (sl : VSlot) (w : BitVec 2) (a : BitVec 5) (s : State) {u : _} (h : doVpush sl w a s = .ok u) : u.mem = s.mem ∧ u.nv = s.nv := by
  unfold doVpush at h
  grind [kept_pushEntry, → both_ok, → map_ok, trapOf, holdOf, unlessDs.eq_def]
theorem kept_doVradd (sl : VSlot) (fmt : BitVec 4) (d : BitVec 5) (a : BitVec 5) (k : BitVec 2) (s : State) {u : _} (h : doVradd sl fmt d a k s = .ok u) : u.mem = s.mem ∧ u.nv = s.nv := by
  unfold doVradd at h
  grind [→ kept_vReduce, → both_ok, → map_ok, trapOf, holdOf, unlessDs.eq_def]
theorem kept_doVrarg (sl : VSlot) (fmt : BitVec 4) (d : BitVec 5) (a : BitVec 5) (k : BitVec 2) (s : State) {u : _} (h : doVrarg sl fmt d a k s = .ok u) : u.mem = s.mem ∧ u.nv = s.nv := by
  unfold doVrarg at h
  grind [→ kept_putV, → trapFirst_ok, → both_ok, → map_ok, trapOf, holdOf, unlessDs.eq_def]
theorem kept_doVrcp (sl : VSlot) (fmt : BitVec 4) (d : BitVec 5) (a : BitVec 5) (k : BitVec 2) (s : State) {u : _} (h : doVrcp sl fmt d a k s = .ok u) : u.mem = s.mem ∧ u.nv = s.nv := by
  unfold doVrcp at h
  grind [→ kept_vUn, → both_ok, → map_ok, trapOf, holdOf, unlessDs.eq_def]
theorem kept_doVrmax (sl : VSlot) (fmt : BitVec 4) (d : BitVec 5) (a : BitVec 5) (k : BitVec 2) (s : State) {u : _} (h : doVrmax sl fmt d a k s = .ok u) : u.mem = s.mem ∧ u.nv = s.nv := by
  unfold doVrmax at h
  grind [→ kept_vReduce, → both_ok, → map_ok, trapOf, holdOf, unlessDs.eq_def]
theorem kept_doVrmin (sl : VSlot) (fmt : BitVec 4) (d : BitVec 5) (a : BitVec 5) (k : BitVec 2) (s : State) {u : _} (h : doVrmin sl fmt d a k s = .ok u) : u.mem = s.mem ∧ u.nv = s.nv := by
  unfold doVrmin at h
  grind [→ kept_vReduce, → both_ok, → map_ok, trapOf, holdOf, unlessDs.eq_def]
theorem kept_doVrsq (sl : VSlot) (fmt : BitVec 4) (d : BitVec 5) (a : BitVec 5) (k : BitVec 2) (s : State) {u : _} (h : doVrsq sl fmt d a k s = .ok u) : u.mem = s.mem ∧ u.nv = s.nv := by
  unfold doVrsq at h
  grind [→ kept_vUn, → both_ok, → map_ok, trapOf, holdOf, unlessDs.eq_def]
theorem kept_doVsel (sl : VSlot) (d : BitVec 5) (a : BitVec 5) (b : BitVec 5) (k : BitVec 2) (s : State) {u : _} (h : doVsel sl d a b k s = .ok u) : u.mem = s.mem ∧ u.nv = s.nv := by
  unfold doVsel at h
  grind [→ kept_putV, → trapFirst_ok, → both_ok, → map_ok, trapOf, holdOf, unlessDs.eq_def]
theorem kept_doVshl (sl : VSlot) (fmt : BitVec 4) (d : BitVec 5) (a : BitVec 5) (b : BitVec 5) (k : BitVec 2) (s : State) {u : _} (h : doVshl sl fmt d a b k s = .ok u) : u.mem = s.mem ∧ u.nv = s.nv := by
  unfold doVshl at h
  grind [→ kept_vBin, → both_ok, → map_ok, trapOf, holdOf, unlessDs.eq_def]
theorem kept_doVshli (sl : VSlot) (fmt : BitVec 4) (d : BitVec 5) (a : BitVec 5) (imm : BitVec 7) (s : State) {u : _} (h : doVshli sl fmt d a imm s = .ok u) : u.mem = s.mem ∧ u.nv = s.nv := by
  unfold doVshli at h
  grind [→ kept_vImm, → both_ok, → map_ok, trapOf, holdOf, unlessDs.eq_def]
theorem kept_doVshr (sl : VSlot) (fmt : BitVec 4) (d : BitVec 5) (a : BitVec 5) (b : BitVec 5) (k : BitVec 2) (s : State) {u : _} (h : doVshr sl fmt d a b k s = .ok u) : u.mem = s.mem ∧ u.nv = s.nv := by
  unfold doVshr at h
  grind [→ kept_vBin, → both_ok, → map_ok, trapOf, holdOf, unlessDs.eq_def]
theorem kept_doVshri (sl : VSlot) (fmt : BitVec 4) (d : BitVec 5) (a : BitVec 5) (imm : BitVec 7) (s : State) {u : _} (h : doVshri sl fmt d a imm s = .ok u) : u.mem = s.mem ∧ u.nv = s.nv := by
  unfold doVshri at h
  grind [→ kept_vImm, → both_ok, → map_ok, trapOf, holdOf, unlessDs.eq_def]
theorem kept_doVspill (sl : VSlot) (id : BitVec 8) (a : BitVec 5) (s : State) {u : _} (h : doVspill sl id a s = .ok u) : u.mem = s.mem ∧ u.nv = s.nv := by
  unfold doVspill at h
  grind [→ kept_spillWord, → both_ok, → map_ok, trapOf, holdOf, unlessDs.eq_def]
theorem kept_doVsplat (sl : VSlot) (fmt : BitVec 4) (d : BitVec 5) (a : BitVec 5) (imm : BitVec 7) (s : State) {u : _} (h : doVsplat sl fmt d a imm s = .ok u) : u.mem = s.mem ∧ u.nv = s.nv := by
  unfold doVsplat at h
  grind [→ kept_putV, → trapFirst_ok, → both_ok, → map_ok, trapOf, holdOf, unlessDs.eq_def]
theorem kept_doVsqrt (sl : VSlot) (fmt : BitVec 4) (d : BitVec 5) (a : BitVec 5) (k : BitVec 2) (s : State) {u : _} (h : doVsqrt sl fmt d a k s = .ok u) : u.mem = s.mem ∧ u.nv = s.nv := by
  unfold doVsqrt at h
  grind [→ kept_vUn, → both_ok, → map_ok, trapOf, holdOf, unlessDs.eq_def]
theorem kept_doVsra (sl : VSlot) (fmt : BitVec 4) (d : BitVec 5) (a : BitVec 5) (b : BitVec 5) (k : BitVec 2) (s : State) {u : _} (h : doVsra sl fmt d a b k s = .ok u) : u.mem = s.mem ∧ u.nv = s.nv := by
  unfold doVsra at h
  grind [→ kept_vBin, → both_ok, → map_ok, trapOf, holdOf, unlessDs.eq_def]
theorem kept_doVsub (sl : VSlot) (fmt : BitVec 4) (d : BitVec 5) (a : BitVec 5) (b : BitVec 5) (k : BitVec 2) (s : State) {u : _} (h : doVsub sl fmt d a b k s = .ok u) : u.mem = s.mem ∧ u.nv = s.nv := by
  unfold doVsub at h
  grind [→ kept_vBin, → both_ok, → map_ok, trapOf, holdOf, unlessDs.eq_def]
theorem kept_doVsubs (sl : VSlot) (fmt : BitVec 4) (d : BitVec 5) (a : BitVec 5) (b : BitVec 5) (k : BitVec 2) (s : State) {u : _} (h : doVsubs sl fmt d a b k s = .ok u) : u.mem = s.mem ∧ u.nv = s.nv := by
  unfold doVsubs at h
  grind [→ kept_vBin, → both_ok, → map_ok, trapOf, holdOf, unlessDs.eq_def]
theorem kept_doVtsum (sl : VSlot) (fmt : BitVec 4) (d : BitVec 5) (a : BitVec 5) (b : BitVec 5) (k : BitVec 2) (s : State) {u : _} (h : doVtsum sl fmt d a b k s = .ok u) : u.mem = s.mem ∧ u.nv = s.nv := by
  unfold doVtsum at h
  grind [→ kept_putV, → trapFirst_ok, → both_ok, → map_ok, trapOf, holdOf, unlessDs.eq_def]
theorem kept_doVxor (sl : VSlot) (d : BitVec 5) (a : BitVec 5) (b : BitVec 5) (k : BitVec 2) (s : State) {u : _} (h : doVxor sl d a b k s = .ok u) : u.mem = s.mem ∧ u.nv = s.nv := by
  unfold doVxor at h
  grind [→ kept_vBits, → both_ok, → map_ok, trapOf, holdOf, unlessDs.eq_def]
theorem kept_execKand (sl : VSlot) (d : BitVec 5) (a : BitVec 5) (b : BitVec 5) (s : State) {u : _} (h : execKand sl d a b s = .next u) : u.mem = s.mem ∧ u.nv = s.nv := by
  exact complete_kept (fun _ hu => kept_doKand _ _ _ _ _ hu) (fun x => kept_takeTrap s x) h
theorem kept_execKnot (sl : VSlot) (d : BitVec 5) (a : BitVec 5) (s : State) {u : _} (h : execKnot sl d a s = .next u) : u.mem = s.mem ∧ u.nv = s.nv := by
  exact complete_kept (fun _ hu => kept_doKnot _ _ _ _ hu) (fun x => kept_takeTrap s x) h
theorem kept_execKor (sl : VSlot) (d : BitVec 5) (a : BitVec 5) (b : BitVec 5) (s : State) {u : _} (h : execKor sl d a b s = .next u) : u.mem = s.mem ∧ u.nv = s.nv := by
  exact complete_kept (fun _ hu => kept_doKor _ _ _ _ _ hu) (fun x => kept_takeTrap s x) h
theorem kept_execKxor (sl : VSlot) (d : BitVec 5) (a : BitVec 5) (b : BitVec 5) (s : State) {u : _} (h : execKxor sl d a b s = .next u) : u.mem = s.mem ∧ u.nv = s.nv := by
  exact complete_kept (fun _ hu => kept_doKxor _ _ _ _ _ hu) (fun x => kept_takeTrap s x) h
theorem kept_execVabs (sl : VSlot) (fmt : BitVec 4) (d : BitVec 5) (a : BitVec 5) (k : BitVec 2) (s : State) {u : _} (h : execVabs sl fmt d a k s = .next u) : u.mem = s.mem ∧ u.nv = s.nv := by
  exact complete_kept (fun _ hu => kept_doVabs _ _ _ _ _ _ hu) (fun x => kept_takeTrap s x) h
theorem kept_execVadd (sl : VSlot) (fmt : BitVec 4) (d : BitVec 5) (a : BitVec 5) (b : BitVec 5) (k : BitVec 2) (s : State) {u : _} (h : execVadd sl fmt d a b k s = .next u) : u.mem = s.mem ∧ u.nv = s.nv := by
  exact complete_kept (fun _ hu => kept_doVadd _ _ _ _ _ _ _ hu) (fun x => kept_takeTrap s x) h
theorem kept_execVaddi (sl : VSlot) (fmt : BitVec 4) (d : BitVec 5) (a : BitVec 5) (imm : BitVec 7) (s : State) {u : _} (h : execVaddi sl fmt d a imm s = .next u) : u.mem = s.mem ∧ u.nv = s.nv := by
  exact complete_kept (fun _ hu => kept_doVaddi _ _ _ _ _ _ hu) (fun x => kept_takeTrap s x) h
theorem kept_execVadds (sl : VSlot) (fmt : BitVec 4) (d : BitVec 5) (a : BitVec 5) (b : BitVec 5) (k : BitVec 2) (s : State) {u : _} (h : execVadds sl fmt d a b k s = .next u) : u.mem = s.mem ∧ u.nv = s.nv := by
  exact complete_kept (fun _ hu => kept_doVadds _ _ _ _ _ _ _ hu) (fun x => kept_takeTrap s x) h
theorem kept_execVand (sl : VSlot) (d : BitVec 5) (a : BitVec 5) (b : BitVec 5) (k : BitVec 2) (s : State) {u : _} (h : execVand sl d a b k s = .next u) : u.mem = s.mem ∧ u.nv = s.nv := by
  exact complete_kept (fun _ hu => kept_doVand _ _ _ _ _ _ hu) (fun x => kept_takeTrap s x) h
theorem kept_execVceq (sl : VSlot) (fmt : BitVec 4) (d : BitVec 5) (a : BitVec 5) (b : BitVec 5) (k : BitVec 2) (s : State) {u : _} (h : execVceq sl fmt d a b k s = .next u) : u.mem = s.mem ∧ u.nv = s.nv := by
  exact complete_kept (fun _ hu => kept_doVceq _ _ _ _ _ _ _ hu) (fun x => kept_takeTrap s x) h
theorem kept_execVcle (sl : VSlot) (fmt : BitVec 4) (d : BitVec 5) (a : BitVec 5) (b : BitVec 5) (k : BitVec 2) (s : State) {u : _} (h : execVcle sl fmt d a b k s = .next u) : u.mem = s.mem ∧ u.nv = s.nv := by
  exact complete_kept (fun _ hu => kept_doVcle _ _ _ _ _ _ _ hu) (fun x => kept_takeTrap s x) h
theorem kept_execVclt (sl : VSlot) (fmt : BitVec 4) (d : BitVec 5) (a : BitVec 5) (b : BitVec 5) (k : BitVec 2) (s : State) {u : _} (h : execVclt sl fmt d a b k s = .next u) : u.mem = s.mem ∧ u.nv = s.nv := by
  exact complete_kept (fun _ hu => kept_doVclt _ _ _ _ _ _ _ hu) (fun x => kept_takeTrap s x) h
theorem kept_execVcne (sl : VSlot) (fmt : BitVec 4) (d : BitVec 5) (a : BitVec 5) (b : BitVec 5) (k : BitVec 2) (s : State) {u : _} (h : execVcne sl fmt d a b k s = .next u) : u.mem = s.mem ∧ u.nv = s.nv := by
  exact complete_kept (fun _ hu => kept_doVcne _ _ _ _ _ _ _ hu) (fun x => kept_takeTrap s x) h
theorem kept_execVcun (sl : VSlot) (fmt : BitVec 4) (d : BitVec 5) (a : BitVec 5) (b : BitVec 5) (k : BitVec 2) (s : State) {u : _} (h : execVcun sl fmt d a b k s = .next u) : u.mem = s.mem ∧ u.nv = s.nv := by
  exact complete_kept (fun _ hu => kept_doVcun _ _ _ _ _ _ _ hu) (fun x => kept_takeTrap s x) h
theorem kept_execVcvt (sl : VSlot) (fd : BitVec 4) (d : BitVec 5) (a : BitVec 5) (fs : BitVec 4) (rnd : BitVec 2) (sat : BitVec 1) (s : State) {u : _} (h : execVcvt sl fd d a fs rnd sat s = .next u) : u.mem = s.mem ∧ u.nv = s.nv := by
  exact complete_kept (fun _ hu => kept_doVcvt _ _ _ _ _ _ _ _ hu) (fun x => kept_takeTrap s x) h
theorem kept_execVdefer (sl : VSlot) (cnt : BitVec 5) (a : BitVec 5) (b : BitVec 5) (k : BitVec 2) (s : State) {u : _} (h : execVdefer sl cnt a b k s = .next u) : u.mem = s.mem ∧ u.nv = s.nv := by
  exact complete_kept (fun _ hu => kept_doVdefer _ _ _ _ _ _ hu) (fun x => kept_takeTrap s x) h
theorem kept_execVdrain (sl : VSlot) (d : BitVec 5) (o : BitVec 5) (km : BitVec 2) (s : State) {u : _} (h : execVdrain sl d o km s = .next u) : u.mem = s.mem ∧ u.nv = s.nv := by
  exact complete_kept (fun _ hu => kept_doVdrain _ _ _ _ _ hu) (fun x => kept_takeTrap s x) h
theorem kept_execVexp2 (sl : VSlot) (fmt : BitVec 4) (d : BitVec 5) (a : BitVec 5) (k : BitVec 2) (s : State) {u : _} (h : execVexp2 sl fmt d a k s = .next u) : u.mem = s.mem ∧ u.nv = s.nv := by
  exact complete_kept (fun _ hu => kept_doVexp2 _ _ _ _ _ _ hu) (fun x => kept_takeTrap s x) h
theorem kept_execVfill (sl : VSlot) (d : BitVec 5) (id : BitVec 8) (s : State) {u : _} (h : execVfill sl d id s = .next u) : u.mem = s.mem ∧ u.nv = s.nv := by
  exact complete_kept (fun _ hu => kept_doVfill _ _ _ _ hu) (fun x => kept_takeTrap s x) h
theorem kept_execVflr (sl : VSlot) (fmt : BitVec 4) (d : BitVec 5) (a : BitVec 5) (k : BitVec 2) (s : State) {u : _} (h : execVflr sl fmt d a k s = .next u) : u.mem = s.mem ∧ u.nv = s.nv := by
  exact complete_kept (fun _ hu => kept_doVflr _ _ _ _ _ _ hu) (fun x => kept_takeTrap s x) h
theorem kept_execVfma (sl : VSlot) (fmt : BitVec 4) (d : BitVec 5) (a : BitVec 5) (b : BitVec 5) (k : BitVec 2) (s : State) {u : _} (h : execVfma sl fmt d a b k s = .next u) : u.mem = s.mem ∧ u.nv = s.nv := by
  exact complete_kept (fun _ hu => kept_doVfma _ _ _ _ _ _ _ hu) (fun x => kept_takeTrap s x) h
theorem kept_execVfms (sl : VSlot) (fmt : BitVec 4) (d : BitVec 5) (a : BitVec 5) (b : BitVec 5) (k : BitVec 2) (s : State) {u : _} (h : execVfms sl fmt d a b k s = .next u) : u.mem = s.mem ∧ u.nv = s.nv := by
  exact complete_kept (fun _ hu => kept_doVfms _ _ _ _ _ _ _ hu) (fun x => kept_takeTrap s x) h
theorem kept_execVget (sl : VSlot) (d : BitVec 5) (file : BitVec 3) (idx : BitVec 6) (lane : BitVec 5) (s : State) {u : _} (h : execVget sl d file idx lane s = .next u) : u.mem = s.mem ∧ u.nv = s.nv := by
  exact complete_kept (fun _ hu => kept_doVget _ _ _ _ _ _ hu) (fun x => kept_takeTrap s x) h
theorem kept_execViota (sl : VSlot) (fmt : BitVec 4) (d : BitVec 5) (k : BitVec 2) (s : State) {u : _} (h : execViota sl fmt d k s = .next u) : u.mem = s.mem ∧ u.nv = s.nv := by
  exact complete_kept (fun _ hu => kept_doViota _ _ _ _ _ hu) (fun x => kept_takeTrap s x) h
theorem kept_execVlane (sl : VSlot) (fmt : BitVec 4) (d : BitVec 5) (a : BitVec 5) (b : BitVec 5) (k : BitVec 2) (s : State) {u : _} (h : execVlane sl fmt d a b k s = .next u) : u.mem = s.mem ∧ u.nv = s.nv := by
  exact complete_kept (fun _ hu => kept_doVlane _ _ _ _ _ _ _ hu) (fun x => kept_takeTrap s x) h
theorem kept_execVlog2 (sl : VSlot) (fmt : BitVec 4) (d : BitVec 5) (a : BitVec 5) (k : BitVec 2) (s : State) {u : _} (h : execVlog2 sl fmt d a k s = .next u) : u.mem = s.mem ∧ u.nv = s.nv := by
  exact complete_kept (fun _ hu => kept_doVlog2 _ _ _ _ _ _ hu) (fun x => kept_takeTrap s x) h
theorem kept_execVmax (sl : VSlot) (fmt : BitVec 4) (d : BitVec 5) (a : BitVec 5) (b : BitVec 5) (k : BitVec 2) (s : State) {u : _} (h : execVmax sl fmt d a b k s = .next u) : u.mem = s.mem ∧ u.nv = s.nv := by
  exact complete_kept (fun _ hu => kept_doVmax _ _ _ _ _ _ _ hu) (fun x => kept_takeTrap s x) h
theorem kept_execVmin (sl : VSlot) (fmt : BitVec 4) (d : BitVec 5) (a : BitVec 5) (b : BitVec 5) (k : BitVec 2) (s : State) {u : _} (h : execVmin sl fmt d a b k s = .next u) : u.mem = s.mem ∧ u.nv = s.nv := by
  exact complete_kept (fun _ hu => kept_doVmin _ _ _ _ _ _ _ hu) (fun x => kept_takeTrap s x) h
theorem kept_execVmov (sl : VSlot) (d : BitVec 5) (a : BitVec 5) (k : BitVec 2) (s : State) {u : _} (h : execVmov sl d a k s = .next u) : u.mem = s.mem ∧ u.nv = s.nv := by
  exact complete_kept (fun _ hu => kept_doVmov _ _ _ _ _ hu) (fun x => kept_takeTrap s x) h
theorem kept_execVmul (sl : VSlot) (fmt : BitVec 4) (d : BitVec 5) (a : BitVec 5) (b : BitVec 5) (k : BitVec 2) (s : State) {u : _} (h : execVmul sl fmt d a b k s = .next u) : u.mem = s.mem ∧ u.nv = s.nv := by
  exact complete_kept (fun _ hu => kept_doVmul _ _ _ _ _ _ _ hu) (fun x => kept_takeTrap s x) h
theorem kept_execVneg (sl : VSlot) (fmt : BitVec 4) (d : BitVec 5) (a : BitVec 5) (k : BitVec 2) (s : State) {u : _} (h : execVneg sl fmt d a k s = .next u) : u.mem = s.mem ∧ u.nv = s.nv := by
  exact complete_kept (fun _ hu => kept_doVneg _ _ _ _ _ _ hu) (fun x => kept_takeTrap s x) h
theorem kept_execVnop (sl : VSlot) (s : State) {u : _} (h : execVnop sl s = .next u) : u.mem = s.mem ∧ u.nv = s.nv := by
  exact complete_kept (fun _ hu => kept_doVnop _ _ hu) (fun x => kept_takeTrap s x) h
theorem kept_execVnot (sl : VSlot) (d : BitVec 5) (a : BitVec 5) (k : BitVec 2) (s : State) {u : _} (h : execVnot sl d a k s = .next u) : u.mem = s.mem ∧ u.nv = s.nv := by
  exact complete_kept (fun _ hu => kept_doVnot _ _ _ _ _ hu) (fun x => kept_takeTrap s x) h
theorem kept_execVor (sl : VSlot) (d : BitVec 5) (a : BitVec 5) (b : BitVec 5) (k : BitVec 2) (s : State) {u : _} (h : execVor sl d a b k s = .next u) : u.mem = s.mem ∧ u.nv = s.nv := by
  exact complete_kept (fun _ hu => kept_doVor _ _ _ _ _ _ hu) (fun x => kept_takeTrap s x) h
theorem kept_execVpush (sl : VSlot) (w : BitVec 2) (a : BitVec 5) (s : State) {u : _} (h : execVpush sl w a s = .next u) : u.mem = s.mem ∧ u.nv = s.nv := by
  exact complete_kept (fun _ hu => kept_doVpush _ _ _ _ hu) (fun x => kept_takeTrap s x) h
theorem kept_execVradd (sl : VSlot) (fmt : BitVec 4) (d : BitVec 5) (a : BitVec 5) (k : BitVec 2) (s : State) {u : _} (h : execVradd sl fmt d a k s = .next u) : u.mem = s.mem ∧ u.nv = s.nv := by
  exact complete_kept (fun _ hu => kept_doVradd _ _ _ _ _ _ hu) (fun x => kept_takeTrap s x) h
theorem kept_execVrarg (sl : VSlot) (fmt : BitVec 4) (d : BitVec 5) (a : BitVec 5) (k : BitVec 2) (s : State) {u : _} (h : execVrarg sl fmt d a k s = .next u) : u.mem = s.mem ∧ u.nv = s.nv := by
  exact complete_kept (fun _ hu => kept_doVrarg _ _ _ _ _ _ hu) (fun x => kept_takeTrap s x) h
theorem kept_execVrcp (sl : VSlot) (fmt : BitVec 4) (d : BitVec 5) (a : BitVec 5) (k : BitVec 2) (s : State) {u : _} (h : execVrcp sl fmt d a k s = .next u) : u.mem = s.mem ∧ u.nv = s.nv := by
  exact complete_kept (fun _ hu => kept_doVrcp _ _ _ _ _ _ hu) (fun x => kept_takeTrap s x) h
theorem kept_execVrmax (sl : VSlot) (fmt : BitVec 4) (d : BitVec 5) (a : BitVec 5) (k : BitVec 2) (s : State) {u : _} (h : execVrmax sl fmt d a k s = .next u) : u.mem = s.mem ∧ u.nv = s.nv := by
  exact complete_kept (fun _ hu => kept_doVrmax _ _ _ _ _ _ hu) (fun x => kept_takeTrap s x) h
theorem kept_execVrmin (sl : VSlot) (fmt : BitVec 4) (d : BitVec 5) (a : BitVec 5) (k : BitVec 2) (s : State) {u : _} (h : execVrmin sl fmt d a k s = .next u) : u.mem = s.mem ∧ u.nv = s.nv := by
  exact complete_kept (fun _ hu => kept_doVrmin _ _ _ _ _ _ hu) (fun x => kept_takeTrap s x) h
theorem kept_execVrsq (sl : VSlot) (fmt : BitVec 4) (d : BitVec 5) (a : BitVec 5) (k : BitVec 2) (s : State) {u : _} (h : execVrsq sl fmt d a k s = .next u) : u.mem = s.mem ∧ u.nv = s.nv := by
  exact complete_kept (fun _ hu => kept_doVrsq _ _ _ _ _ _ hu) (fun x => kept_takeTrap s x) h
theorem kept_execVsel (sl : VSlot) (d : BitVec 5) (a : BitVec 5) (b : BitVec 5) (k : BitVec 2) (s : State) {u : _} (h : execVsel sl d a b k s = .next u) : u.mem = s.mem ∧ u.nv = s.nv := by
  exact complete_kept (fun _ hu => kept_doVsel _ _ _ _ _ _ hu) (fun x => kept_takeTrap s x) h
theorem kept_execVshl (sl : VSlot) (fmt : BitVec 4) (d : BitVec 5) (a : BitVec 5) (b : BitVec 5) (k : BitVec 2) (s : State) {u : _} (h : execVshl sl fmt d a b k s = .next u) : u.mem = s.mem ∧ u.nv = s.nv := by
  exact complete_kept (fun _ hu => kept_doVshl _ _ _ _ _ _ _ hu) (fun x => kept_takeTrap s x) h
theorem kept_execVshli (sl : VSlot) (fmt : BitVec 4) (d : BitVec 5) (a : BitVec 5) (imm : BitVec 7) (s : State) {u : _} (h : execVshli sl fmt d a imm s = .next u) : u.mem = s.mem ∧ u.nv = s.nv := by
  exact complete_kept (fun _ hu => kept_doVshli _ _ _ _ _ _ hu) (fun x => kept_takeTrap s x) h
theorem kept_execVshr (sl : VSlot) (fmt : BitVec 4) (d : BitVec 5) (a : BitVec 5) (b : BitVec 5) (k : BitVec 2) (s : State) {u : _} (h : execVshr sl fmt d a b k s = .next u) : u.mem = s.mem ∧ u.nv = s.nv := by
  exact complete_kept (fun _ hu => kept_doVshr _ _ _ _ _ _ _ hu) (fun x => kept_takeTrap s x) h
theorem kept_execVshri (sl : VSlot) (fmt : BitVec 4) (d : BitVec 5) (a : BitVec 5) (imm : BitVec 7) (s : State) {u : _} (h : execVshri sl fmt d a imm s = .next u) : u.mem = s.mem ∧ u.nv = s.nv := by
  exact complete_kept (fun _ hu => kept_doVshri _ _ _ _ _ _ hu) (fun x => kept_takeTrap s x) h
theorem kept_execVspill (sl : VSlot) (id : BitVec 8) (a : BitVec 5) (s : State) {u : _} (h : execVspill sl id a s = .next u) : u.mem = s.mem ∧ u.nv = s.nv := by
  exact complete_kept (fun _ hu => kept_doVspill _ _ _ _ hu) (fun x => kept_takeTrap s x) h
theorem kept_execVsplat (sl : VSlot) (fmt : BitVec 4) (d : BitVec 5) (a : BitVec 5) (imm : BitVec 7) (s : State) {u : _} (h : execVsplat sl fmt d a imm s = .next u) : u.mem = s.mem ∧ u.nv = s.nv := by
  exact complete_kept (fun _ hu => kept_doVsplat _ _ _ _ _ _ hu) (fun x => kept_takeTrap s x) h
theorem kept_execVsqrt (sl : VSlot) (fmt : BitVec 4) (d : BitVec 5) (a : BitVec 5) (k : BitVec 2) (s : State) {u : _} (h : execVsqrt sl fmt d a k s = .next u) : u.mem = s.mem ∧ u.nv = s.nv := by
  exact complete_kept (fun _ hu => kept_doVsqrt _ _ _ _ _ _ hu) (fun x => kept_takeTrap s x) h
theorem kept_execVsra (sl : VSlot) (fmt : BitVec 4) (d : BitVec 5) (a : BitVec 5) (b : BitVec 5) (k : BitVec 2) (s : State) {u : _} (h : execVsra sl fmt d a b k s = .next u) : u.mem = s.mem ∧ u.nv = s.nv := by
  exact complete_kept (fun _ hu => kept_doVsra _ _ _ _ _ _ _ hu) (fun x => kept_takeTrap s x) h
theorem kept_execVsub (sl : VSlot) (fmt : BitVec 4) (d : BitVec 5) (a : BitVec 5) (b : BitVec 5) (k : BitVec 2) (s : State) {u : _} (h : execVsub sl fmt d a b k s = .next u) : u.mem = s.mem ∧ u.nv = s.nv := by
  exact complete_kept (fun _ hu => kept_doVsub _ _ _ _ _ _ _ hu) (fun x => kept_takeTrap s x) h
theorem kept_execVsubs (sl : VSlot) (fmt : BitVec 4) (d : BitVec 5) (a : BitVec 5) (b : BitVec 5) (k : BitVec 2) (s : State) {u : _} (h : execVsubs sl fmt d a b k s = .next u) : u.mem = s.mem ∧ u.nv = s.nv := by
  exact complete_kept (fun _ hu => kept_doVsubs _ _ _ _ _ _ _ hu) (fun x => kept_takeTrap s x) h
theorem kept_execVtsum (sl : VSlot) (fmt : BitVec 4) (d : BitVec 5) (a : BitVec 5) (b : BitVec 5) (k : BitVec 2) (s : State) {u : _} (h : execVtsum sl fmt d a b k s = .next u) : u.mem = s.mem ∧ u.nv = s.nv := by
  exact complete_kept (fun _ hu => kept_doVtsum _ _ _ _ _ _ _ hu) (fun x => kept_takeTrap s x) h
theorem kept_execVxor (sl : VSlot) (d : BitVec 5) (a : BitVec 5) (b : BitVec 5) (k : BitVec 2) (s : State) {u : _} (h : execVxor sl d a b k s = .next u) : u.mem = s.mem ∧ u.nv = s.nv := by
  exact complete_kept (fun _ hu => kept_doVxor _ _ _ _ _ _ hu) (fun x => kept_takeTrap s x) h
theorem canon_wordExec (i : Instr) (s : State) (hc : Memory.wf s.mem = true ∧ Memory.wf s.nv = true) {u : State} (h : wordExec i s = .ok u) : Memory.wf u.mem = true ∧ Memory.wf u.nv = true := by
  cases i with
  | nop => exact canon_of_kept (kept_doNop s h) hc
  | add d a b w => exact canon_of_kept (kept_doAdd d a b w s h) hc
  | sub d a b w => exact canon_of_kept (kept_doSub d a b w s h) hc
  | and d a b w => exact canon_of_kept (kept_doAnd d a b w s h) hc
  | or d a b w => exact canon_of_kept (kept_doOr d a b w s h) hc
  | xor d a b w => exact canon_of_kept (kept_doXor d a b w s h) hc
  | andn d a b w => exact canon_of_kept (kept_doAndn d a b w s h) hc
  | shl d a b w => exact canon_of_kept (kept_doShl d a b w s h) hc
  | shr d a b w => exact canon_of_kept (kept_doShr d a b w s h) hc
  | sra d a b w => exact canon_of_kept (kept_doSra d a b w s h) hc
  | rol d a b w => exact canon_of_kept (kept_doRol d a b w s h) hc
  | mul d a b w => exact canon_of_kept (kept_doMul d a b w s h) hc
  | mulh d a b w => exact canon_of_kept (kept_doMulh d a b w s h) hc
  | mulhn d a b w => exact canon_of_kept (kept_doMulhn d a b w s h) hc
  | div d a b w => exact canon_of_kept (kept_doDiv d a b w s h) hc
  | divn d a b w => exact canon_of_kept (kept_doDivn d a b w s h) hc
  | rem d a b w => exact canon_of_kept (kept_doRem d a b w s h) hc
  | remn d a b w => exact canon_of_kept (kept_doRemn d a b w s h) hc
  | min d a b w => exact canon_of_kept (kept_doMin d a b w s h) hc
  | max d a b w => exact canon_of_kept (kept_doMax d a b w s h) hc
  | minn d a b w => exact canon_of_kept (kept_doMinn d a b w s h) hc
  | maxn d a b w => exact canon_of_kept (kept_doMaxn d a b w s h) hc
  | clz d a w => exact canon_of_kept (kept_doClz d a w s h) hc
  | popc d a w => exact canon_of_kept (kept_doPopc d a w s h) hc
  | ctz d a w => exact canon_of_kept (kept_doCtz d a w s h) hc
  | cmov d a b w => exact canon_of_kept (kept_doCmov d a b w s h) hc
  | ceq d a b w => exact canon_of_kept (kept_doCeq d a b w s h) hc
  | cne d a b w => exact canon_of_kept (kept_doCne d a b w s h) hc
  | clt d a b w => exact canon_of_kept (kept_doClt d a b w s h) hc
  | cle d a b w => exact canon_of_kept (kept_doCle d a b w s h) hc
  | cltn d a b w => exact canon_of_kept (kept_doCltn d a b w s h) hc
  | clen d a b w => exact canon_of_kept (kept_doClen d a b w s h) hc
  | addi d a imm => exact canon_of_kept (kept_doAddi d a imm s h) hc
  | andi d a imm => exact canon_of_kept (kept_doAndi d a imm s h) hc
  | ori d a imm => exact canon_of_kept (kept_doOri d a imm s h) hc
  | xori d a imm => exact canon_of_kept (kept_doXori d a imm s h) hc
  | shli d a imm => exact canon_of_kept (kept_doShli d a imm s h) hc
  | shri d a imm => exact canon_of_kept (kept_doShri d a imm s h) hc
  | srai d a imm => exact canon_of_kept (kept_doSrai d a imm s h) hc
  | ceqi d a imm => exact canon_of_kept (kept_doCeqi d a imm s h) hc
  | clti d a imm => exact canon_of_kept (kept_doClti d a imm s h) hc
  | cltni d a imm => exact canon_of_kept (kept_doCltni d a imm s h) hc
  | li d imm => exact canon_of_kept (kept_doLi d imm s h) hc
  | lis d imm => exact canon_of_kept (kept_doLis d imm s h) hc
  | get d file idx lane => exact canon_of_kept (kept_doGet d file idx lane s h) hc
  | push w a => exact canon_of_kept (kept_doPush w a s h) hc
  | bz a hint disp => exact canon_of_kept (kept_doBz a hint disp s h) hc
  | bnz a hint disp => exact canon_of_kept (kept_doBnz a hint disp s h) hc
  | blz a hint disp => exact canon_of_kept (kept_doBlz a hint disp s h) hc
  | bgez a hint disp => exact canon_of_kept (kept_doBgez a hint disp s h) hc
  | br hint disp => exact canon_of_kept (kept_doBr hint disp s h) hc
  | call hint disp => exact canon_of_kept (kept_doCall hint disp s h) hc
  | jr a => exact canon_of_kept (kept_doJr a s h) hc
  | jlr a => exact canon_of_kept (kept_doJlr a s h) hc
  | loop level a body => exact canon_of_kept (kept_doLoop level a body s h) hc
  | lexit level => exact canon_of_kept (kept_doLexit level s h) hc
  | wait ld st cp tl => exact canon_of_kept (kept_doWait ld st cp tl s h) hc
  | frame => exact canon_of_kept (kept_doFrame s h) hc
  | mfs d reg => exact canon_of_kept (kept_doMfs d reg s h) hc
  | mts a reg => exact canon_of_kept (kept_doMts a reg s h) hc
  | spill id a => exact canon_of_kept (kept_doSpill id a s h) hc
  | fill d id => exact canon_of_kept (kept_doFill d id s h) hc
  | trap code => exact canon_of_kept (kept_doTrap code s h) hc
  | tret => exact canon_of_kept (kept_doTret s h) hc
  | exit => exact canon_of_kept (kept_doExit s h) hc
  | brk code => exact canon_of_kept (kept_doBrk code s h) hc
  | fwcall service => exact canon_of_kept (kept_doFwcall service s h) hc
  | idle => exact canon_of_kept (kept_doIdle s h) hc
  | vnop sl => exact canon_of_kept (kept_doVnop sl s h) hc
  | vadd sl fmt d a b k => exact canon_of_kept (kept_doVadd sl fmt d a b k s h) hc
  | vsub sl fmt d a b k => exact canon_of_kept (kept_doVsub sl fmt d a b k s h) hc
  | vmul sl fmt d a b k => exact canon_of_kept (kept_doVmul sl fmt d a b k s h) hc
  | vfma sl fmt d a b k => exact canon_of_kept (kept_doVfma sl fmt d a b k s h) hc
  | vfms sl fmt d a b k => exact canon_of_kept (kept_doVfms sl fmt d a b k s h) hc
  | vmin sl fmt d a b k => exact canon_of_kept (kept_doVmin sl fmt d a b k s h) hc
  | vmax sl fmt d a b k => exact canon_of_kept (kept_doVmax sl fmt d a b k s h) hc
  | vabs sl fmt d a k => exact canon_of_kept (kept_doVabs sl fmt d a k s h) hc
  | vneg sl fmt d a k => exact canon_of_kept (kept_doVneg sl fmt d a k s h) hc
  | vtsum sl fmt d a b k => exact canon_of_kept (kept_doVtsum sl fmt d a b k s h) hc
  | vadds sl fmt d a b k => exact canon_of_kept (kept_doVadds sl fmt d a b k s h) hc
  | vsubs sl fmt d a b k => exact canon_of_kept (kept_doVsubs sl fmt d a b k s h) hc
  | vrcp sl fmt d a k => exact canon_of_kept (kept_doVrcp sl fmt d a k s h) hc
  | vrsq sl fmt d a k => exact canon_of_kept (kept_doVrsq sl fmt d a k s h) hc
  | vexp2 sl fmt d a k => exact canon_of_kept (kept_doVexp2 sl fmt d a k s h) hc
  | vlog2 sl fmt d a k => exact canon_of_kept (kept_doVlog2 sl fmt d a k s h) hc
  | vsqrt sl fmt d a k => exact canon_of_kept (kept_doVsqrt sl fmt d a k s h) hc
  | vflr sl fmt d a k => exact canon_of_kept (kept_doVflr sl fmt d a k s h) hc
  | vand sl d a b k => exact canon_of_kept (kept_doVand sl d a b k s h) hc
  | vor sl d a b k => exact canon_of_kept (kept_doVor sl d a b k s h) hc
  | vxor sl d a b k => exact canon_of_kept (kept_doVxor sl d a b k s h) hc
  | vnot sl d a k => exact canon_of_kept (kept_doVnot sl d a k s h) hc
  | vshl sl fmt d a b k => exact canon_of_kept (kept_doVshl sl fmt d a b k s h) hc
  | vshr sl fmt d a b k => exact canon_of_kept (kept_doVshr sl fmt d a b k s h) hc
  | vsra sl fmt d a b k => exact canon_of_kept (kept_doVsra sl fmt d a b k s h) hc
  | vaddi sl fmt d a imm => exact canon_of_kept (kept_doVaddi sl fmt d a imm s h) hc
  | vshli sl fmt d a imm => exact canon_of_kept (kept_doVshli sl fmt d a imm s h) hc
  | vshri sl fmt d a imm => exact canon_of_kept (kept_doVshri sl fmt d a imm s h) hc
  | vsplat sl fmt d a imm => exact canon_of_kept (kept_doVsplat sl fmt d a imm s h) hc
  | vceq sl fmt d a b k => exact canon_of_kept (kept_doVceq sl fmt d a b k s h) hc
  | vcne sl fmt d a b k => exact canon_of_kept (kept_doVcne sl fmt d a b k s h) hc
  | vclt sl fmt d a b k => exact canon_of_kept (kept_doVclt sl fmt d a b k s h) hc
  | vcle sl fmt d a b k => exact canon_of_kept (kept_doVcle sl fmt d a b k s h) hc
  | vcun sl fmt d a b k => exact canon_of_kept (kept_doVcun sl fmt d a b k s h) hc
  | kand sl d a b => exact canon_of_kept (kept_doKand sl d a b s h) hc
  | kor sl d a b => exact canon_of_kept (kept_doKor sl d a b s h) hc
  | kxor sl d a b => exact canon_of_kept (kept_doKxor sl d a b s h) hc
  | knot sl d a => exact canon_of_kept (kept_doKnot sl d a s h) hc
  | vsel sl d a b k => exact canon_of_kept (kept_doVsel sl d a b k s h) hc
  | vmov sl d a k => exact canon_of_kept (kept_doVmov sl d a k s h) hc
  | vget sl d file idx lane => exact canon_of_kept (kept_doVget sl d file idx lane s h) hc
  | viota sl fmt d k => exact canon_of_kept (kept_doViota sl fmt d k s h) hc
  | vlane sl fmt d a b k => exact canon_of_kept (kept_doVlane sl fmt d a b k s h) hc
  | vradd sl fmt d a k => exact canon_of_kept (kept_doVradd sl fmt d a k s h) hc
  | vrmax sl fmt d a k => exact canon_of_kept (kept_doVrmax sl fmt d a k s h) hc
  | vrmin sl fmt d a k => exact canon_of_kept (kept_doVrmin sl fmt d a k s h) hc
  | vrarg sl fmt d a k => exact canon_of_kept (kept_doVrarg sl fmt d a k s h) hc
  | vcvt sl fd d a fs rnd sat => exact canon_of_kept (kept_doVcvt sl fd d a fs rnd sat s h) hc
  | vdefer sl cnt a b k => exact canon_of_kept (kept_doVdefer sl cnt a b k s h) hc
  | vdrain sl d o km => exact canon_of_kept (kept_doVdrain sl d o km s h) hc
  | vpush sl w a => exact canon_of_kept (kept_doVpush sl w a s h) hc
  | vspill sl id a => exact canon_of_kept (kept_doVspill sl id a s h) hc
  | vfill sl d id => exact canon_of_kept (kept_doVfill sl d id s h) hc
  | mnop => exact canon_of_kept (kept_doMnop s h) hc
  | mcall routine nocorr limc e5 ceil start => exact canon_of_kept (kept_doMcall routine nocorr limc e5 ceil start s h) hc
  | mset p imm => exact canon_of_kept (kept_doMset p imm s h) hc
  | mseth => exact canon_of_kept (kept_doMseth s h) hc
  | mget p a => exact canon_of_kept (kept_doMget p a s h) hc
  | mabort => exact canon_of_kept (kept_doMabort s h) hc
  | cnop sl => exact canon_of_kept (kept_doCnop sl s h) hc
  | ldi8 sl base q disp => exact canon_of_kept (kept_doLdi8 sl base q disp s h) hc
  | ldn8 sl base q disp => exact canon_of_kept (kept_doLdn8 sl base q disp s h) hc
  | ldi16 sl base q disp => exact canon_of_kept (kept_doLdi16 sl base q disp s h) hc
  | ldn16 sl base q disp => exact canon_of_kept (kept_doLdn16 sl base q disp s h) hc
  | ldi32 sl base q disp => exact canon_of_kept (kept_doLdi32 sl base q disp s h) hc
  | ldn32 sl base q disp => exact canon_of_kept (kept_doLdn32 sl base q disp s h) hc
  | ld64 sl base q disp => exact canon_of_kept (kept_doLd64 sl base q disp s h) hc
  | vld sl base q disp => exact canon_of_kept (kept_doVld sl base q disp s h) hc
  | vldg sl base q w sc => exact canon_of_kept (kept_doVldg sl base q w sc s h) hc
  | vlds sl base a q => exact canon_of_kept (kept_doVlds sl base a q s h) hc
  | st8 sl base w disp => exact canon_of_kept (kept_doSt8 sl base w disp s h) hc
  | st16 sl base w disp => exact canon_of_kept (kept_doSt16 sl base w disp s h) hc
  | st32 sl base w disp => exact canon_of_kept (kept_doSt32 sl base w disp s h) hc
  | st64 sl base w disp => exact canon_of_kept (kept_doSt64 sl base w disp s h) hc
  | vst sl base w disp => exact canon_of_kept (kept_doVst sl base w disp s h) hc
  | vsts sl base a w => exact canon_of_kept (kept_doVsts sl base a w s h) hc
  | vstm sl base wd wi sc => exact canon_of_kept (kept_doVstm sl base wd wi sc s h) hc
  | aadd sl base q scope order disp => exact canon_of_kept (kept_doAadd sl base q scope order disp s h) hc
  | amin sl base q scope order disp => exact canon_of_kept (kept_doAmin sl base q scope order disp s h) hc
  | amax sl base q scope order disp => exact canon_of_kept (kept_doAmax sl base q scope order disp s h) hc
  | aand sl base q scope order disp => exact canon_of_kept (kept_doAand sl base q scope order disp s h) hc
  | aor sl base q scope order disp => exact canon_of_kept (kept_doAor sl base q scope order disp s h) hc
  | axch sl base q scope order disp => exact canon_of_kept (kept_doAxch sl base q scope order disp s h) hc
  | acas sl base q scope order disp => exact canon_of_kept (kept_doAcas sl base q scope order disp s h) hc
  | afadd sl base q scope order disp => exact canon_of_kept (kept_doAfadd sl base q scope order disp s h) hc
  | aminn sl base q scope order disp => exact canon_of_kept (kept_doAminn sl base q scope order disp s h) hc
  | amaxn sl base q scope order disp => exact canon_of_kept (kept_doAmaxn sl base q scope order disp s h) hc
  | fence sl scope order => exact canon_of_kept (kept_doFence sl scope order s h) hc
  | fencex sl from_ to_ scope => exact canon_of_kept (kept_doFencex sl from_ to_ scope s h) hc
  | pbar sl => exact canon_of_kept (kept_doPbar sl s h) hc
  | tloadSlot sl base a slot pitched => exact canon_of_kept (kept_doTloadSlot sl base a slot pitched s h) hc
  | tloadRing sl base a ring pitched => exact canon_of_kept (kept_doTloadRing sl base a ring pitched s h) hc
  | rpush sl slot ring => exact canon_of_kept (kept_doRpush sl slot ring s h) hc
  | tstore sl base a slot pitched => exact canon_of_kept (kept_doTstore sl base a slot pitched s h) hc
  | tstoreDur sl base a slot pitched => exact canon_of_kept (kept_doTstoreDur sl base a slot pitched s h) hc
  | ttrn sl base slot => exact canon_of_kept (kept_doTtrn sl base slot s h) hc
  | tcvt sl base slot rnd => exact canon_of_kept (kept_doTcvt sl base slot rnd s h) hc
  | tzero sl slot => exact canon_of_kept (kept_doTzero sl slot s h) hc
  | tfree sl slot => exact canon_of_kept (kept_doTfree sl slot s h) hc
  | tgath sl base a slot w => exact canon_of_kept (kept_doTgath sl base a slot w s h) hc
  | wget sl base a n => exact canon_of_kept (kept_doWget sl base a n s h) hc
  | wput sl base a n => exact canon_of_kept (kept_doWput sl base a n s h) hc
  | wadd sl base a n int => exact canon_of_kept (kept_doWadd sl base a n int s h) hc
  | coll sl base op => exact canon_of_kept (kept_doColl sl base op s h) hc
  | smap sl base a n => exact canon_of_kept (kept_doSmap sl base a n s h) hc
  | swb sl base n => exact canon_of_kept (kept_doSwb sl base n s h) hc
  | sinv sl base n discard => exact canon_of_kept (kept_doSinv sl base n discard s h) hc
  | pref sl base disp => exact canon_of_kept (kept_doPref sl base disp s h) hc
  | enq sl base q lq => exact canon_of_kept (kept_doEnq sl base q lq s h) hc
  | cancel sl base level => exact canon_of_kept (kept_doCancel sl base level s h) hc
  | cnt sl base q level kind => exact canon_of_kept (kept_doCnt sl base q level kind s h) hc
  | cli sl d a imm => exact canon_of_kept (kept_doCli sl d a imm s h) hc
  | cadd sl d a imm => exact canon_of_kept (kept_doCadd sl d a imm s h) hc
  | cget sl d file idx lane => exact canon_of_kept (kept_doCget sl d file idx lane s h) hc
  | cstr sl d level sreg => exact canon_of_kept (kept_doCstr sl d level sreg s h) hc
  | xnop => exact canon_of_kept (kept_doXnop s h) hc
  | xget d file idx lane => exact canon_of_kept (kept_doXget d file idx lane s h) hc
  | xmov fmt d a b => exact canon_of_kept (kept_doXmov fmt d a b s h) hc
  | xpack fmt d a b e rnd => exact canon_of_kept (kept_doXpack fmt d a b e rnd s h) hc
  | xunpk fmt d a b e => exact canon_of_kept (kept_doXunpk fmt d a b e s h) hc
  | xscal fmt d a b e rnd => exact canon_of_kept (kept_doXscal fmt d a b e rnd s h) hc
  | xmxs fmt a b e => exact canon_of_kept (kept_doXmxs fmt a b e s h) hc
  | xshuf fmt d a b => exact canon_of_kept (kept_doXshuf fmt d a b s h) hc
  | xrot fmt d a b => exact canon_of_kept (kept_doXrot fmt d a b s h) hc
  | xzip fmt d a b => exact canon_of_kept (kept_doXzip fmt d a b s h) hc
  | xuzp fmt d a b => exact canon_of_kept (kept_doXuzp fmt d a b s h) hc
  | xlsc e x imm => exact canon_doXlsc e x imm s hc h
  | xssc e x imm => exact canon_doXssc e x imm s hc h
  | barInit id scope a => exact canon_of_kept (kept_doBarInit id scope a s h) hc
  | barArr id scope => exact canon_of_kept (kept_doBarArr id scope s h) hc
  | barWait id scope => exact canon_of_kept (kept_doBarWait id scope s h) hc
  | barTst id scope q => exact canon_of_kept (kept_doBarTst id scope q s h) hc
  | spawn t a b => exact canon_doSpawn t a b s hc h
  | yield => exact canon_of_kept (kept_doYield s h) hc
  | _ => cases h; exact hc

end Sys2Proof.Machine
end

