-- ==== Sys2Proof/Laws/KeptEvents.lean ====
section
/-! SUPPORT. A bundle, a core's cycle and every event: each leaves memory alone, or keeps its canonical form. -/
namespace Sys2Proof.Machine

set_option maxRecDepth 4000

theorem kept_seatEmpty (s : State) (k : ℕ) : (seatEmpty s k).mem = s.mem ∧ (seatEmpty s k).nv = s.nv := by
  unfold seatEmpty
  grind [kept_State_setCtx, → both_ok, → map_ok, trapOf, holdOf, unlessDs.eq_def]
theorem kept_seatHold (s : State) (k : ℕ) (h : Hold) : (seatHold s k h).mem = s.mem ∧ (seatHold s k h).nv = s.nv := by
  unfold seatHold
  grind [kept_State_setCtx, → both_ok, → map_ok, trapOf, holdOf, unlessDs.eq_def]
theorem kept_leaveSlot (s : State) (k : ℕ) : (leaveSlot s k).mem = s.mem ∧ (leaveSlot s k).nv = s.nv := by
  unfold leaveSlot
  grind [kept_freeSlotsOf, kept_State_setCtx, → both_ok, → map_ok, trapOf, holdOf, unlessDs.eq_def]
theorem kept_noteTrap (s : State) (k : ℕ) (t : TrapRec) : (noteTrap s k t).mem = s.mem ∧ (noteTrap s k t).nv = s.nv := by
  unfold noteTrap
  grind [kept_noteFetch, kept_noteXl, kept_noteAbort, → both_ok, → map_ok, trapOf, holdOf, unlessDs.eq_def]
theorem kept_seatTrap (s : State) (k : ℕ) (t : TrapRec) : (seatTrap s k t).mem = s.mem ∧ (seatTrap s k t).nv = s.nv := by
  unfold seatTrap
  grind [kept_takeTrapAt, kept_noteTrap, kept_State_setCtx, → both_ok, → map_ok, trapOf, holdOf, unlessDs.eq_def]
theorem actCheck_st (a : Acted) (r : Res Unit) : (actCheck a r).st = a.st := by
  unfold actCheck; grind
theorem canon_actOne (a : Acted) (i : Instr) (hc : Memory.wf a.st.mem = true ∧ Memory.wf a.st.nv = true) :
    Memory.wf (actOne a i).st.mem = true ∧ Memory.wf (actOne a i).st.nv = true := by
  unfold actOne
  grind [→ canon_wordExec]
theorem canon_actWords (xs : List Instr) (a : Acted) (hc : Memory.wf a.st.mem = true ∧ Memory.wf a.st.nv = true) :
    Memory.wf (xs.foldl actOne a).st.mem = true ∧ Memory.wf (xs.foldl actOne a).st.nv = true := by
  induction xs generalizing a <;> grind [canon_actOne]
theorem canon_actBundle (s : State) (mask : BitVec 8) (ws : List Instr) (hc : Memory.wf s.mem = true ∧ Memory.wf s.nv = true) :
    Memory.wf (actBundle s mask ws).st.mem = true ∧ Memory.wf (actBundle s mask ws).st.nv = true := by
  unfold actBundle
  grind [actCheck_st, canon_actWords]
/-- What a judged seat may leave behind is canonical. -/
def Ready.canon : Ready → Prop
  | .none s | .hold s _ => Memory.wf s.mem = true ∧ Memory.wf s.nv = true
  | .ready _ a _ => Memory.wf a.st.mem = true ∧ Memory.wf a.st.nv = true
  | _ => True
theorem canon_readyBundle (s : State) (k : Nat) (ws : List W32) (ins : List Instr)
    (hc : Memory.wf s.mem = true ∧ Memory.wf s.nv = true) : (readyBundle s k ws ins).canon := by
  have h1 : Memory.wf (issueState s k ws ins).mem = true ∧ Memory.wf (issueState s k ws ins).nv = true := hc
  have h2 := canon_actBundle (issueState s k ws ins) (hdrPop (ws.headD 0)) ins h1
  unfold readyBundle
  generalize issueState s k ws ins = s1 at h1 h2 ⊢
  grind [Ready.canon, actCheck_st]
theorem canon_seatReady (s : State) (k : Nat) (hc : Memory.wf s.mem = true ∧ Memory.wf s.nv = true) : (seatReady s k).canon := by
  unfold seatReady
  dsimp only
  repeat' split
  all_goals first | trivial | exact hc | exact canon_readyBundle _ _ _ _ hc
theorem canon_coreSeat (s : State) (core seat : Nat) (hc : Memory.wf s.mem = true ∧ Memory.wf s.nv = true) : (coreSeat s core seat).canon := by
  unfold coreSeat
  grind [Ready.canon, canon_seatReady]
theorem canon_seatIssue (s : State) (k : ℕ) (a : Acted) (mask : BitVec 8) (hc : Memory.wf s.mem = true ∧ Memory.wf s.nv = true) (ha : Memory.wf a.st.mem = true ∧ Memory.wf a.st.nv = true) : Memory.wf (seatIssue s k a mask).mem = true ∧ Memory.wf (seatIssue s k a mask).nv = true := by
  unfold seatIssue
  dsimp only
  repeat' split
  all_goals grind [kept_seatTrap, kept_leaveSlot, canon_finishBundle, kept_noteFetch]
theorem canon_seatGo (s : State) (k : ℕ) (hc : Memory.wf s.mem = true ∧ Memory.wf s.nv = true) {u : _} (h : seatGo s k = .ok u) : Memory.wf u.mem = true ∧ Memory.wf u.nv = true := by
  have hr := canon_seatReady s k hc
  unfold seatGo at h
  grind [Ready.canon, kept_seatHold, kept_seatTrap, canon_seatIssue, kept_seatEmpty]
theorem canon_seatStep (s : State) (k : ℕ) (r : Ready) (issue : Bool) (hc : Memory.wf s.mem = true ∧ Memory.wf s.nv = true) {u : _} (h : seatStep s k r issue = .ok u) : Memory.wf u.mem = true ∧ Memory.wf u.nv = true := by
  unfold seatStep at h
  grind [→ canon_seatGo, → both_ok, → map_ok, trapOf, holdOf, unlessDs.eq_def]
theorem kept_tickCore (s : State) (core : ℕ) : (tickCore s core).mem = s.mem ∧ (tickCore s core).nv = s.nv := by
  unfold tickCore
  grind [kept_State_setDie, kept_State_setCore, → both_ok, → map_ok, trapOf, holdOf, unlessDs.eq_def]
theorem canon_coreCycle (s : State) (core : ℕ) (hc : Memory.wf s.mem = true ∧ Memory.wf s.nv = true) {u : _} (h : coreCycle s core = .ok u) : Memory.wf u.mem = true ∧ Memory.wf u.nv = true := by
  unfold coreCycle at h
  grind [→ canon_seatStep, kept_tickCore, kept_State_setCore, → both_ok, → map_ok, trapOf, holdOf, unlessDs.eq_def]
theorem kept_issueState (s : State) (k : ℕ) (ws : List W32) (ins : List Instr) : (issueState s k ws ins).mem = s.mem ∧ (issueState s k ws ins).nv = s.nv := by
  unfold issueState
  grind [→ both_ok, → map_ok, trapOf, holdOf, unlessDs.eq_def]
theorem kept_dropFrame (s : State) (port : ℕ) (reason : ℕ) (owner : ℕ) : (dropFrame s port reason owner).mem = s.mem ∧ (dropFrame s port reason owner).nv = s.nv := by
  unfold dropFrame
  grind [kept_State_tell, → both_ok, → map_ok, trapOf, holdOf, unlessDs.eq_def]
theorem kept_sendFrame (s : State) (port : ℕ) (hdr : BitVec 256) (data : List Byte) : (sendFrame s port hdr data).mem = s.mem ∧ (sendFrame s port hdr data).nv = s.nv := by
  unfold sendFrame
  grind [kept_State_tell, → both_ok, → map_ok, trapOf, holdOf, unlessDs.eq_def]
theorem kept_routeFrame (s : State) (dst : ℕ) (hdr : BitVec 256) (data : List Byte) : (routeFrame s dst hdr data).mem = s.mem ∧ (routeFrame s dst hdr data).nv = s.nv := by
  unfold routeFrame
  grind [kept_sendFrame, → both_ok, → map_ok, trapOf, holdOf, unlessDs.eq_def]
theorem kept_takePart (s : State) (f : Frame) : (takePart s f).mem = s.mem ∧ (takePart s f).nv = s.nv := by
  unfold takePart
  grind [→ both_ok, → map_ok, trapOf, holdOf, unlessDs.eq_def]
theorem kept_acceptFrame (s : State) (port : ℕ) (f : Frame) : (acceptFrame s port f).mem = s.mem ∧ (acceptFrame s port f).nv = s.nv := by
  unfold acceptFrame
  grind [kept_dropFrame, kept_routeFrame, kept_takePart, kept_State_tell, → both_ok, → map_ok, trapOf, holdOf, unlessDs.eq_def]
theorem kept_sendReply (s : State) (f : Frame) (type : ℕ) (status : ℕ) (gen : ℕ) (data : List Byte) : (sendReply s f type status gen data).mem = s.mem ∧ (sendReply s f type status gen data).nv = s.nv := by
  unfold sendReply
  grind [kept_routeFrame, → both_ok, → map_ok, trapOf, holdOf, unlessDs.eq_def]
theorem kept_settleRevoke (s : State) (index : ℕ) : (settleRevoke s index).mem = s.mem ∧ (settleRevoke s index).nv = s.nv := by
  unfold settleRevoke
  grind [kept_State_tell, → both_ok, → map_ok, trapOf, holdOf, unlessDs.eq_def]
theorem kept_ackChunk (s : State) (f : Frame) (ids : List ℕ) : (ackChunk s f ids).mem = s.mem ∧ (ackChunk s f ids).nv = s.nv := by
  unfold ackChunk
  grind [kept_settleRevoke, kept_sendReply, → both_ok, → map_ok, trapOf, holdOf, unlessDs.eq_def]
theorem kept_doneFrame (s : State) (f : Frame) : (doneFrame s f).mem = s.mem ∧ (doneFrame s f).nv = s.nv := by
  unfold doneFrame
  grind [→ both_ok, → map_ok, trapOf, holdOf, unlessDs.eq_def]
theorem kept_putGranules (s : State) (x : Xl) (space : ℕ) (va : W64) (fuel : ℕ) (a5 : List Byte) : (putGranules s x space va fuel a5).1.mem = s.mem ∧ (putGranules s x space va fuel a5).1.nv = s.nv := by
  induction fuel generalizing s x va a5 with
  | zero => exact ⟨rfl, rfl⟩
  | succ n ih =>
    unfold putGranules
    grind [kept_takeId, kept_dieWrite]
theorem kept_remoteWatch (s : State) (f : Frame) (space : ℕ) (va : W64) (n : ℕ) : (remoteWatch s f space va n).mem = s.mem ∧ (remoteWatch s f space va n).nv = s.nv := by
  unfold remoteWatch
  grind [kept_addReport, foldl_kept, → both_ok, → map_ok, trapOf, holdOf, unlessDs.eq_def]
theorem canon_judgeChunk (s : State) (f : Frame) (hc : Memory.wf s.mem = true ∧ Memory.wf s.nv = true) : Memory.wf (judgeChunk s f).mem = true ∧ Memory.wf (judgeChunk s f).nv = true := by
  unfold judgeChunk
  grind [kept_noteAbort, kept_sendReply, kept_doneFrame, canon_settle, kept_writeBack, kept_noteXl, kept_putGranules, kept_remoteWatch, → both_ok, → map_ok, trapOf, holdOf, unlessDs.eq_def]
theorem kept_importRefused (s : State) (x : Cmd) (win : W64) (status : ℕ) (gen : ℕ) : (importRefused s x win status gen).mem = s.mem ∧ (importRefused s x win status gen).nv = s.nv := by
  unfold importRefused
  grind [→ both_ok, → map_ok, trapOf, holdOf, unlessDs.eq_def]
theorem kept_winLand (s : State) (k : ℕ) (x : Cmd) (i : ℕ) (p : Piece) (f : Frame) : (winLand s k x i p f).mem = s.mem ∧ (winLand s k x i p f).nv = s.nv := by
  unfold winLand
  grind [kept_writeChunk, kept_noteXl, kept_doneFrame, kept_putCmd, → both_ok, → map_ok, trapOf, holdOf, unlessDs.eq_def]
theorem kept_takeReply (s : State) (f : Frame) : (takeReply s f).mem = s.mem ∧ (takeReply s f).nv = s.nv := by
  unfold takeReply
  grind [kept_doneFrame, kept_importRefused, kept_putCmd, kept_winLand, → both_ok, → map_ok, trapOf, holdOf, unlessDs.eq_def]
theorem kept_winComplete (s : State) (k : ℕ) (x : Cmd) : (winComplete s k x).mem = s.mem ∧ (winComplete s k x).nv = s.nv := by
  unfold winComplete
  grind [kept_endCmd, → both_ok, → map_ok, trapOf, holdOf, unlessDs.eq_def]
theorem kept_winSend (s : State) (k : ℕ) (x : Cmd) : (winSend s k x).mem = s.mem ∧ (winSend s k x).nv = s.nv := by
  unfold winSend
  dsimp only
  repeat' split
  all_goals grind [kept_notePiece, kept_putCmd, kept_sendFrame]
theorem kept_sendGroup (s : State) (gid : ℕ) (g : Group) (rank : ℕ) (off : ℕ) (data : List Byte) : (sendGroup s gid g rank off data).mem = s.mem ∧ (sendGroup s gid g rank off data).nv = s.nv := by
  unfold sendGroup
  grind [kept_routeFrame, foldl_kept, → both_ok, → map_ok, trapOf, holdOf, unlessDs.eq_def]
theorem kept_failRound (s : State) (gid : ℕ) (status : ℕ) (detail : W64) (told : Bool) : (failRound s gid status detail told).mem = s.mem ∧ (failRound s gid status detail told).nv = s.nv := by
  unfold failRound
  grind [kept_putCmd, kept_sendGroup, foldl_kept, → both_ok, → map_ok, trapOf, holdOf, unlessDs.eq_def]
theorem kept_failGroup (s : State) (g : ℕ) (status : ℕ) (detail : W64) : (failGroup s g status detail).mem = s.mem ∧ (failGroup s g status detail).nv = s.nv := by
  unfold failGroup
  grind [kept_failRound, → both_ok, → map_ok, trapOf, holdOf, unlessDs.eq_def]
theorem kept_combineGroup (s : State) (gid : ℕ) : (combineGroup s gid).mem = s.mem ∧ (combineGroup s gid).nv = s.nv := by
  unfold combineGroup
  grind [kept_failGroup, kept_failRound, kept_putCmd, foldl_kept, → both_ok, → map_ok, trapOf, holdOf, unlessDs.eq_def]
theorem kept_failMember (s : State) (k : ℕ) (x : Cmd) (status : ℕ) (detail : W64) : (failMember s k x status detail).mem = s.mem ∧ (failMember s k x status detail).nv = s.nv := by
  unfold failMember
  grind [kept_putCmd, kept_failGroup, → both_ok, → map_ok, trapOf, holdOf, unlessDs.eq_def]
theorem kept_sendParts (s : State) (x : Cmd) (g : Group) : (sendParts s x g).mem = s.mem ∧ (sendParts s x g).nv = s.nv := by
  unfold sendParts
  grind [kept_sendGroup, foldl_kept, → both_ok, → map_ok, trapOf, holdOf, unlessDs.eq_def]
theorem kept_collRead (s : State) (k : ℕ) (x : Cmd) (g : Group) : (collRead s k x g).mem = s.mem ∧ (collRead s k x g).nv = s.nv := by
  unfold collRead
  grind [kept_combineGroup, kept_sendParts, kept_putCmd, kept_failMember, → both_ok, → map_ok, trapOf, holdOf, unlessDs.eq_def]
theorem kept_collStart (s : State) (k : ℕ) (x : Cmd) (va : W64) (op : ℕ) : (collStart s k x va op).mem = s.mem ∧ (collStart s k x va op).nv = s.nv := by
  unfold collStart
  grind [kept_notePiece, kept_putCmd, → both_ok, → map_ok, trapOf, holdOf, unlessDs.eq_def]
theorem kept_collChunk (s : State) (k : ℕ) (x : Cmd) : (collChunk s k x).mem = s.mem ∧ (collChunk s k x).nv = s.nv := by
  unfold collChunk
  dsimp only
  repeat' split
  all_goals grind [kept_collStart, kept_noteXl, kept_notePiece, kept_putCmd, kept_collRead, kept_failMember, kept_combineGroup, kept_writeChunk]
theorem kept_collComplete (s : State) (k : ℕ) (x : Cmd) : (collComplete s k x).mem = s.mem ∧ (collComplete s k x).nv = s.nv := by
  unfold collComplete
  grind [kept_endCmd, → both_ok, → map_ok, trapOf, holdOf, unlessDs.eq_def]
theorem kept_countEnd (s : State) (level : ℕ) (ident : ℕ) (failed : Bool) : (countEnd s level ident failed).mem = s.mem ∧ (countEnd s level ident failed).nv = s.nv := by
  unfold countEnd
  grind [→ both_ok, → map_ok, trapOf, holdOf, unlessDs.eq_def]
theorem canon_freeRecords (s : State) (l : ℕ) (hc : Memory.wf s.mem = true ∧ Memory.wf s.nv = true) : Memory.wf (freeRecords s l).mem = true ∧ Memory.wf (freeRecords s l).nv = true := by
  unfold freeRecords
  exact foldl_canon _ (fun _ _ h => ⟨wf_memWrite _ _ h.1, wf_memWrite _ _ h.2⟩) _ _ hc
theorem canon_mirrorAdd (s : State) (l : ℕ) (space : ℕ) (va : W64) (v : W64) (hc : Memory.wf s.mem = true ∧ Memory.wf s.nv = true) : Memory.wf (mirrorAdd s l space va v).mem = true ∧ Memory.wf (mirrorAdd s l space va v).nv = true := by
  unfold mirrorAdd
  grind [kept_State_tell, kept_writeBack, → canon_unitStore, → both_ok, → map_ok, trapOf, holdOf, unlessDs.eq_def]
theorem kept_raiseEvery (s : State) (k : ℕ) : (raiseEvery s k).mem = s.mem ∧ (raiseEvery s k).nv = s.nv := by
  unfold raiseEvery
  grind [kept_raiseSource, foldl_kept, → both_ok, → map_ok, trapOf, holdOf, unlessDs.eq_def]
theorem canon_closeLaunch (s : State) (l : ℕ) (hc : Memory.wf s.mem = true ∧ Memory.wf s.nv = true) : Memory.wf (closeLaunch s l).mem = true ∧ Memory.wf (closeLaunch s l).nv = true := by
  unfold closeLaunch
  grind [canon_mirrorAdd, kept_unqueue, kept_State_setLaunch, kept_countEnd, kept_raiseEvery, canon_traceLaunch, canon_freeRecords, canon_endTracesEvery, → both_ok, → map_ok, trapOf, holdOf, unlessDs.eq_def]
theorem canon_deliver (s : State) (k : ℕ) (r : Report) (hc : Memory.wf s.mem = true ∧ Memory.wf s.nv = true) : Memory.wf (deliver s k r).mem = true ∧ Memory.wf (deliver s k r).nv = true := by
  unfold deliver
  grind [→ canon_dieStore, kept_haltCtx, kept_State_tell, kept_State_setCtx, kept_raiseSource, canon_traceAll, kept_takeTrapAt, → both_ok, → map_ok, trapOf, holdOf, unlessDs.eq_def]
theorem kept_dropSteal (s : State) (id : ℕ) : (dropSteal s id).mem = s.mem ∧ (dropSteal s id).nv = s.nv := by
  unfold dropSteal
  grind [→ both_ok, → map_ok, trapOf, holdOf, unlessDs.eq_def]
theorem kept_endThief (s : State) (core : ℕ) (seat : ℕ) (l : ℕ) : (endThief s core seat l).mem = s.mem ∧ (endThief s core seat l).nv = s.nv := by
  unfold endThief
  grind [kept_State_setCtx, → both_ok, → map_ok, trapOf, holdOf, unlessDs.eq_def]
theorem kept_putSteal (s : State) (x : Steal) : (putSteal s x).mem = s.mem ∧ (putSteal s x).nv = s.nv := by
  unfold putSteal
  grind [→ both_ok, → map_ok, trapOf, holdOf, unlessDs.eq_def]
theorem kept_beginStop (s : State) (l : ℕ) : (beginStop s l).mem = s.mem ∧ (beginStop s l).nv = s.nv := by
  unfold beginStop
  grind [kept_State_setLaunch, kept_State_setCtx, foldl_kept, → both_ok, → map_ok, trapOf, holdOf, unlessDs.eq_def]
theorem kept_emptyStandby (s : State) (core : ℕ) : (emptyStandby s core).mem = s.mem ∧ (emptyStandby s core).nv = s.nv := by
  unfold emptyStandby
  grind [kept_State_setCtx, foldl_kept, → both_ok, → map_ok, trapOf, holdOf, unlessDs.eq_def]
theorem canon_evict (s : State) (core : ℕ) (k : ℕ) (hc : Memory.wf s.mem = true ∧ Memory.wf s.nv = true) : Memory.wf (evict s core k).mem = true ∧ Memory.wf (evict s core k).nv = true := by
  unfold evict
  grind [canon_settle, kept_flushWrites, kept_State_setCtx, kept_freeSlotsOf, kept_State_setCore, kept_State_setDie, → both_ok, → map_ok, trapOf, holdOf, unlessDs.eq_def]
theorem kept_forgetSaved (s : State) (k : ℕ) : (forgetSaved s k).mem = s.mem ∧ (forgetSaved s k).nv = s.nv := by
  unfold forgetSaved
  grind [→ both_ok, → map_ok, trapOf, holdOf, unlessDs.eq_def]
theorem kept_freshKey (s : State) : (freshKey s).2.mem = s.mem ∧ (freshKey s).2.nv = s.nv := by
  unfold freshKey
  grind [→ both_ok, → map_ok, trapOf, holdOf, unlessDs.eq_def]
theorem canon_install (s : State) (core : ℕ) (seat : ℕ) (k : ℕ) (hc : Memory.wf s.mem = true ∧ Memory.wf s.nv = true) : Memory.wf (install s core seat k).mem = true ∧ Memory.wf (install s core seat k).nv = true := by
  unfold install
  grind [kept_raiseFloor, kept_dropSeatSteals, kept_forgetSaved, canon_restoreShare, kept_State_setCtx, kept_State_setCore, kept_updateRemote, → both_ok, → map_ok, trapOf, holdOf, unlessDs.eq_def]
theorem kept_loadImage (s : State) (core : ℕ) (i : MicroImage) : (loadImage s core i).mem = s.mem ∧ (loadImage s core i).nv = s.nv := by
  unfold loadImage
  grind [kept_State_setCore, foldl_kept, → both_ok, → map_ok, trapOf, holdOf, unlessDs.eq_def]
theorem kept_vacate (s : State) (core : ℕ) (bank : ℕ) (k : ℕ) : (vacate s core bank k).mem = s.mem ∧ (vacate s core bank k).nv = s.nv := by
  unfold vacate
  grind [kept_freshKey, kept_State_setCtx, → both_ok, → map_ok, trapOf, holdOf, unlessDs.eq_def]
theorem canon_prefillNew (s : State) (core : ℕ) (seat : ℕ) (l : ℕ) (hc : Memory.wf s.mem = true ∧ Memory.wf s.nv = true) : Memory.wf (prefillNew s core seat l).mem = true ∧ Memory.wf (prefillNew s core seat l).nv = true := by
  unfold prefillNew
  grind [kept_emptyStandby, kept_vacate, canon_takeBank, kept_State_setCtx, kept_State_setCore, → both_ok, → map_ok, trapOf, holdOf, unlessDs.eq_def]
theorem kept_refuse (s : State) (k : ℕ) : (refuse s k).mem = s.mem ∧ (refuse s k).nv = s.nv := by
  unfold refuse
  grind [kept_State_setCtx, → both_ok, → map_ok, trapOf, holdOf, unlessDs.eq_def]
theorem kept_saveCall (s : State) (core : ℕ) (k : ℕ) : (saveCall s core k).mem = s.mem ∧ (saveCall s core k).nv = s.nv := by
  unfold saveCall
  grind [kept_onTiles, kept_State_setCtx, kept_State_setCore, → both_ok, → map_ok, trapOf, holdOf, unlessDs.eq_def]
theorem kept_settleStop (s : State) (l : ℕ) : (settleStop s l).mem = s.mem ∧ (settleStop s l).nv = s.nv := by
  unfold settleStop
  grind [kept_State_setLaunch, kept_State_setCtx, kept_State_tell, foldl_kept, → both_ok, → map_ok, trapOf, holdOf, unlessDs.eq_def]
theorem canon_swapBanks (s : State) (core : ℕ) (seat : ℕ) (hc : Memory.wf s.mem = true ∧ Memory.wf s.nv = true) : Memory.wf (swapBanks s core seat).mem = true ∧ Memory.wf (swapBanks s core seat).nv = true := by
  unfold swapBanks
  grind [canon_evict, kept_State_setCore, canon_install, kept_State_setCtx, → both_ok, → map_ok, trapOf, holdOf, unlessDs.eq_def]
theorem canon_endDue (s : State) (core : ℕ) (hc : Memory.wf s.mem = true ∧ Memory.wf s.nv = true) : Memory.wf (endDue s core).mem = true ∧ Memory.wf (endDue s core).nv = true := by
  unfold endDue
  grind [canon_swapBanks, → both_ok, → map_ok, trapOf, holdOf, unlessDs.eq_def]
theorem kept_startWanted (s : State) (core : ℕ) : (startWanted s core).mem = s.mem ∧ (startWanted s core).nv = s.nv := by
  unfold startWanted
  grind [kept_State_setCore, → both_ok, → map_ok, trapOf, holdOf, unlessDs.eq_def]
theorem canon_atCycle (s : State) (core : ℕ) (hc : Memory.wf s.mem = true ∧ Memory.wf s.nv = true) : Memory.wf (atCycle s core).mem = true ∧ Memory.wf (atCycle s core).nv = true := by
  unfold atCycle
  grind [kept_startWanted, canon_endDue, → both_ok, → map_ok, trapOf, holdOf, unlessDs.eq_def]
theorem canon_execBundleIssue (core : ℕ) (s : State) (hc : Memory.wf s.mem = true ∧ Memory.wf s.nv = true) {u : _} (h : execBundleIssue core s = .next u) : Memory.wf u.mem = true ∧ Memory.wf u.nv = true := by
  unfold execBundleIssue at h
  grind [→ canon_coreCycle, canon_atCycle, canon_endDue, → both_ok, → map_ok, trapOf, holdOf, unlessDs.eq_def]
theorem canon_putImage (s : State) (d : ℕ) (i : ℕ) (k : ℕ) (hc : Memory.wf s.mem = true ∧ Memory.wf s.nv = true) : Memory.wf (putImage s d i k).mem = true ∧ Memory.wf (putImage s d i k).nv = true := by
  have hw := fun (rs : List (Nat × List Byte)) m h => wf_foldl (fun m r => memWrite m r.1 r.2) (fun m r (h : Memory.wf m = true) => wf_memWrite r.2 r.1 h) rs h (m := m)
  have hs := fun (t : Ctx) => kept_State_setCtx s k t
  unfold putImage
  dsimp only
  refine ⟨hw _ _ ?_, hw _ _ ?_⟩
  · rw [(hs _).1]; exact hc.1
  · rw [(hs _).2]; exact hc.2
theorem kept_readSlot (s : State) (k : ℕ) : (readSlot s k).mem = s.mem ∧ (readSlot s k).nv = s.nv := by
  unfold readSlot
  grind [kept_State_setCtx, → both_ok, → map_ok, trapOf, holdOf, unlessDs.eq_def]
theorem kept_setScanSt (s : State) (d : ℕ) (st : ℕ) : (setScanSt s d st).mem = s.mem ∧ (setScanSt s d st).nv = s.nv := by
  unfold setScanSt
  grind [kept_setDieReg, → both_ok, → map_ok, trapOf, holdOf, unlessDs.eq_def]
theorem canon_scanEnd (s : State) (d : ℕ) (x : Scan) (st : ℕ) (cycles : ℕ) (first : ℕ) (hc : Memory.wf s.mem = true ∧ Memory.wf s.nv = true) : Memory.wf (scanEnd s d x st cycles first).mem = true ∧ Memory.wf (scanEnd s d x st cycles first).nv = true := by
  unfold scanEnd
  grind [kept_setDieReg, kept_setScanSt, kept_State_setDie, kept_raiseSource, canon_traceAll, → both_ok, → map_ok, trapOf, holdOf, unlessDs.eq_def]
theorem canon_wipeCore (s : State) (core : ℕ) (hc : Memory.wf s.mem = true ∧ Memory.wf s.nv = true) : Memory.wf (wipeCore s core).mem = true ∧ Memory.wf (wipeCore s core).nv = true := by
  unfold wipeCore
  grind [kept_State_setCore, kept_State_setCtx, wf_memWrite, wf_memWriteCells, wf_filter, foldl_canon, → both_ok, → map_ok, trapOf, holdOf, unlessDs.eq_def]
theorem canon_scanRestore (s : State) (d : ℕ) (x : Scan) (hc : Memory.wf s.mem = true ∧ Memory.wf s.nv = true) : Memory.wf (scanRestore s d x).mem = true ∧ Memory.wf (scanRestore s d x).nv = true := by
  unfold scanRestore
  grind [canon_wipeCore, → both_ok, → map_ok, trapOf, holdOf, unlessDs.eq_def]
theorem kept_setPcstat (s : State) (d : ℕ) (p : ℕ) (v : W64) : (setPcstat s d p v).mem = s.mem ∧ (setPcstat s d p v).nv = s.nv := by
  unfold setPcstat
  grind [kept_setDieReg, → both_ok, → map_ok, trapOf, holdOf, unlessDs.eq_def]
theorem canon_abortScan (s : State) (d : ℕ) (hc : Memory.wf s.mem = true ∧ Memory.wf s.nv = true) : Memory.wf (abortScan s d).mem = true ∧ Memory.wf (abortScan s d).nv = true := by
  unfold abortScan
  grind [kept_setPcstat, canon_scanRestore, canon_scanEnd, → both_ok, → map_ok, trapOf, holdOf, unlessDs.eq_def]
theorem canon_bankCommand (s : State) (core : ℕ) (hc : Memory.wf s.mem = true ∧ Memory.wf s.nv = true) : Memory.wf (bankCommand s core).mem = true ∧ Memory.wf (bankCommand s core).nv = true := by
  unfold bankCommand
  grind [canon_abortScan, → both_ok, → map_ok, trapOf, holdOf, unlessDs.eq_def]
theorem canon_saveResidents (s : State) (core : ℕ) (hc : Memory.wf s.mem = true ∧ Memory.wf s.nv = true) : Memory.wf (saveResidents s core).mem = true ∧ Memory.wf (saveResidents s core).nv = true := by
  unfold saveResidents
  grind [canon_captureShare, foldl_canon, → both_ok, → map_ok, trapOf, holdOf, unlessDs.eq_def]
theorem canon_bindCore (s : State) (d : ℕ) (c : ℕ) (p : ℕ) (hc : Memory.wf s.mem = true ∧ Memory.wf s.nv = true) : Memory.wf (bindCore s d c p).mem = true ∧ Memory.wf (bindCore s d c p).nv = true := by
  unfold bindCore
  grind [kept_setPcstat, canon_wipeCore, canon_saveResidents, kept_setDieReg, → both_ok, → map_ok, trapOf, holdOf, unlessDs.eq_def]
theorem kept_scanErr (s : State) (d : ℕ) : (scanErr s d).mem = s.mem ∧ (scanErr s d).nv = s.nv := by
  unfold scanErr
  grind [kept_setDieReg, → both_ok, → map_ok, trapOf, holdOf, unlessDs.eq_def]
theorem kept_scanTake (s : State) (d : ℕ) (v : W64) : (scanTake s d v).mem = s.mem ∧ (scanTake s d v).nv = s.nv := by
  unfold scanTake
  grind [kept_setDieReg, → both_ok, → map_ok, trapOf, holdOf, unlessDs.eq_def]
theorem kept_startScan (s : State) (d : ℕ) (v : W64) : (startScan s d v).mem = s.mem ∧ (startScan s d v).nv = s.nv := by
  unfold startScan
  grind [kept_setPcstat, kept_setScanSt, kept_scanTake, kept_State_setDie, → both_ok, → map_ok, trapOf, holdOf, unlessDs.eq_def]
theorem canon_verdict (s : State) (d : ℕ) (x : Scan) (fails : List ℕ) (rows : List ℕ) (cols : List ℕ) (hc : Memory.wf s.mem = true ∧ Memory.wf s.nv = true) : Memory.wf (verdict s d x fails rows cols).mem = true ∧ Memory.wf (verdict s d x fails rows cols).nv = true := by
  unfold verdict
  grind [kept_setPcstat, kept_setPhysAt, canon_scanRestore, canon_scanEnd, foldl_canon, → both_ok, → map_ok, trapOf, holdOf, unlessDs.eq_def]
theorem canon_execContextImageWrite (core : ℕ) (s : State) (hc : Memory.wf s.mem = true ∧ Memory.wf s.nv = true) {u : _} (h : execContextImageWrite core s = .next u) : Memory.wf u.mem = true ∧ Memory.wf u.nv = true := by
  unfold execContextImageWrite at h
  grind [canon_putImage, kept_saveCall, kept_vacate, kept_State_setDie, → both_ok, → map_ok, trapOf, holdOf, unlessDs.eq_def]
theorem canon_execContextResume (ctx : ℕ) (s : State) (hc : Memory.wf s.mem = true ∧ Memory.wf s.nv = true) {u : _} (h : execContextResume ctx s = .next u) : Memory.wf u.mem = true ∧ Memory.wf u.nv = true := by
  unfold execContextResume at h
  grind [kept_saveCall, kept_vacate, canon_install, kept_readSlot, foldl_canon, → both_ok, → map_ok, trapOf, holdOf, unlessDs.eq_def]
theorem canon_execDomainChange (core : ℕ) (bank : ℕ) (domain : ℕ) (s : State) (hc : Memory.wf s.mem = true ∧ Memory.wf s.nv = true) {u : _} (h : execDomainChange core bank domain s = .next u) : Memory.wf u.mem = true ∧ Memory.wf u.nv = true := by
  unfold execDomainChange at h
  grind [canon_takeBank, → both_ok, → map_ok, trapOf, holdOf, unlessDs.eq_def]
theorem canon_execExchangeEnd (core : ℕ) (s : State) (hc : Memory.wf s.mem = true ∧ Memory.wf s.nv = true) {u : _} (h : execExchangeEnd core s = .next u) : Memory.wf u.mem = true ∧ Memory.wf u.nv = true := by
  unfold execExchangeEnd at h
  grind [canon_endDue, → both_ok, → map_ok, trapOf, holdOf, unlessDs.eq_def]
theorem kept_execExchangeStart (core : ℕ) (s : State) {u : _} (h : execExchangeStart core s = .next u) : u.mem = s.mem ∧ u.nv = s.nv := by
  unfold execExchangeStart at h
  grind [kept_startWanted, → both_ok, → map_ok, trapOf, holdOf, unlessDs.eq_def]
theorem canon_execHalt (core : ℕ) (bank : ℕ) (s : State) (hc : Memory.wf s.mem = true ∧ Memory.wf s.nv = true) {u : _} (h : execHalt core bank s = .next u) : Memory.wf u.mem = true ∧ Memory.wf u.nv = true := by
  unfold execHalt at h
  grind [canon_bankCommand, kept_haltCtx, kept_refuse, → both_ok, → map_ok, trapOf, holdOf, unlessDs.eq_def]
theorem kept_execLaunchStop (launch : ℕ) (s : State) {u : _} (h : execLaunchStop launch s = .next u) : u.mem = s.mem ∧ u.nv = s.nv := by
  unfold execLaunchStop at h
  grind [kept_beginStop, → both_ok, → map_ok, trapOf, holdOf, unlessDs.eq_def]
theorem kept_execMicroprogramImageLoad (core : ℕ) (launch : ℕ) (s : State) {u : _} (h : execMicroprogramImageLoad core launch s = .next u) : u.mem = s.mem ∧ u.nv = s.nv := by
  unfold execMicroprogramImageLoad at h
  grind [kept_loadImage, → both_ok, → map_ok, trapOf, holdOf, unlessDs.eq_def]
theorem canon_execOwnerChange (owner : ℕ) (s : State) (hc : Memory.wf s.mem = true ∧ Memory.wf s.nv = true) {u : _} (h : execOwnerChange owner s = .next u) : Memory.wf u.mem = true ∧ Memory.wf u.nv = true := by
  unfold execOwnerChange at h
  split at h
  · cases h; exact hc
  · cases h
    have hf := foldl_canon (fun (s : State) (p : Nat × DieSt) => ((s.die p.1).trace.map (·.1)).foldl (fun s i => endTrace s p.1 i 5) s)
      (fun s p hs => foldl_canon _ (fun _ _ h => canon_endTrace _ _ _ _ h) _ _ hs) s.dies s hc
    exact ⟨wf_filter _ hf.1, hf.2⟩
theorem canon_execPreempt (die : ℕ) (launch : ℕ) (s : State) (hc : Memory.wf s.mem = true ∧ Memory.wf s.nv = true) {u : _} (h : execPreempt die launch s = .next u) : Memory.wf u.mem = true ∧ Memory.wf u.nv = true := by
  unfold execPreempt at h
  grind [canon_prefillNew, → both_ok, → map_ok, trapOf, holdOf, unlessDs.eq_def]
theorem kept_execRelease (core : ℕ) (bank : ℕ) (s : State) {u : _} (h : execRelease core bank s = .next u) : u.mem = s.mem ∧ u.nv = s.nv := by
  unfold execRelease at h
  grind [kept_State_setCtx, kept_refuse, → both_ok, → map_ok, trapOf, holdOf, unlessDs.eq_def]
theorem kept_execRun (core : ℕ) (bank : ℕ) (s : State) {u : _} (h : execRun core bank s = .next u) : u.mem = s.mem ∧ u.nv = s.nv := by
  unfold execRun at h
  grind [kept_State_setLaunch, kept_State_setCtx, kept_refuse, → both_ok, → map_ok, trapOf, holdOf, unlessDs.eq_def]
theorem kept_execStandbyPrefill (core : ℕ) (ctx : ℕ) (s : State) {u : _} (h : execStandbyPrefill core ctx s = .next u) : u.mem = s.mem ∧ u.nv = s.nv := by
  unfold execStandbyPrefill at h
  grind [kept_emptyStandby, kept_readSlot, kept_State_setCore, → both_ok, → map_ok, trapOf, holdOf, unlessDs.eq_def]
theorem canon_execStealGrant (id : ℕ) (s : State) (hc : Memory.wf s.mem = true ∧ Memory.wf s.nv = true) {u : _} (h : execStealGrant id s = .next u) : Memory.wf u.mem = true ∧ Memory.wf u.nv = true := by
  unfold execStealGrant at h
  grind [kept_dropSteal, kept_failUnits, canon_notePlaced, kept_State_setCtx, canon_startBank, kept_giveBack, → both_ok, → map_ok, trapOf, holdOf, unlessDs.eq_def]
theorem kept_execStealRequest (core : ℕ) (seat : ℕ) (s : State) {u : _} (h : execStealRequest core seat s = .next u) : u.mem = s.mem ∧ u.nv = s.nv := by
  unfold execStealRequest at h
  grind [kept_endThief, kept_takeId, → both_ok, → map_ok, trapOf, holdOf, unlessDs.eq_def]
theorem kept_execStealSplit (id : ℕ) (s : State) {u : _} (h : execStealSplit id s = .next u) : u.mem = s.mem ∧ u.nv = s.nv := by
  unfold execStealSplit at h
  grind [kept_endThief, kept_dropSteal, kept_putSteal, kept_State_setCtx, → both_ok, → map_ok, trapOf, holdOf, unlessDs.eq_def]
theorem kept_execStep (core : ℕ) (bank : ℕ) (s : State) {u : _} (h : execStep core bank s = .next u) : u.mem = s.mem ∧ u.nv = s.nv := by
  unfold execStep at h
  grind [kept_State_setCtx, kept_refuse, → both_ok, → map_ok, trapOf, holdOf, unlessDs.eq_def]
theorem canon_execStop (core : ℕ) (bank : ℕ) (s : State) (hc : Memory.wf s.mem = true ∧ Memory.wf s.nv = true) {u : _} (h : execStop core bank s = .next u) : Memory.wf u.mem = true ∧ Memory.wf u.nv = true := by
  unfold execStop at h
  grind [canon_bankCommand, kept_State_setCtx, kept_refuse, → both_ok, → map_ok, trapOf, holdOf, unlessDs.eq_def]
theorem kept_execStopComplete (launch : ℕ) (s : State) {u : _} (h : execStopComplete launch s = .next u) : u.mem = s.mem ∧ u.nv = s.nv := by
  unfold execStopComplete at h
  grind [kept_settleStop, → both_ok, → map_ok, trapOf, holdOf, unlessDs.eq_def]
theorem kept_execStopLimitExpiry (ctx : ℕ) (s : State) {u : _} (h : execStopLimitExpiry ctx s = .next u) : u.mem = s.mem ∧ u.nv = s.nv := by
  unfold execStopLimitExpiry at h
  grind [kept_State_setCtx, → both_ok, → map_ok, trapOf, holdOf, unlessDs.eq_def]
theorem canon_afterLoss (s : State) (hc : Memory.wf s.mem = true ∧ Memory.wf s.nv = true) : Memory.wf (afterLoss s).mem = true ∧ Memory.wf (afterLoss s).nv = true := by
  exact ⟨hc.2, hc.2⟩
theorem kept_openTrace (s : State) (d : ℕ) (i : ℕ) : (openTrace s d i).mem = s.mem ∧ (openTrace s d i).nv = s.nv := by
  unfold openTrace
  grind [kept_setTrace, → both_ok, → map_ok, trapOf, holdOf, unlessDs.eq_def]
theorem canon_assertLine (s : State) (d : ℕ) (l : ℕ) (mask : W32) (hc : Memory.wf s.mem = true ∧ Memory.wf s.nv = true) : Memory.wf (assertLine s d l mask).mem = true ∧ Memory.wf (assertLine s d l mask).nv = true := by
  have e1 := fun (xs : List Nat) (u : State) (hu : Memory.wf u.mem = true ∧ Memory.wf u.nv = true) =>
    foldl_canon (fun (s : State) i => openTrace s d i) (fun s i h => by rw [(kept_openTrace s d i).1, (kept_openTrace s d i).2]; exact h) xs u hu
  have e2 := fun (xs : List Nat) (u : State) (hu : Memory.wf u.mem = true ∧ Memory.wf u.nv = true) =>
    foldl_canon (fun (s : State) i => endTrace s d i 6) (fun s i h => canon_endTrace _ _ _ _ h) xs u hu
  have e3 : ∀ (a : Bool) (u v : State), (Memory.wf u.mem = true ∧ Memory.wf u.nv = true) → (Memory.wf v.mem = true ∧ Memory.wf v.nv = true) →
      Memory.wf (if a then u else v).mem = true ∧ Memory.wf (if a then u else v).nv = true := by
    intro a u v hu hv; cases a <;> simp [hu, hv]
  unfold assertLine
  refine e3 _ _ _ ?_ ?_ <;> (try show Memory.wf (State.tell _ _).mem = true ∧ _) <;>
  · refine e3 _ _ _ ?_ ?_ <;>
    · refine e3 _ _ _ ?_ ?_ <;>
      · refine e3 _ _ _ (e2 _ _ ?_) ?_ <;>
        · refine e3 _ _ _ (canon_traceAll _ _ _ _ _ ?_) ?_ <;>
          exact e3 _ _ _ (e1 _ _ hc) hc
theorem canon_companionAtomic (s : State) (space : ℕ) (va : W64) (op : ℕ) (v : W64) (e : W64) (hc : Memory.wf s.mem = true ∧ Memory.wf s.nv = true) : Memory.wf (companionAtomic s space va op v e).mem = true ∧ Memory.wf (companionAtomic s space va op v e).nv = true := by
  unfold companionAtomic
  grind [kept_writeBack, kept_State_tell, → canon_unitStore, → both_ok, → map_ok, trapOf, holdOf, unlessDs.eq_def]
theorem kept_companionNote (s : State) (from_ : ℕ) : (companionNote s from_).mem = s.mem ∧ (companionNote s from_).nv = s.nv := by
  unfold companionNote
  grind [→ both_ok, → map_ok, trapOf, holdOf, unlessDs.eq_def]
theorem canon_companionPut (s : State) (space : ℕ) (va : W64) (bs : List Byte) (hc : Memory.wf s.mem = true ∧ Memory.wf s.nv = true) {u : _} (h : companionPut s space va bs = .ok u) : Memory.wf u.mem = true ∧ Memory.wf u.nv = true := by
  unfold companionPut at h
  grind [→ canon_unitStore, → both_ok, → map_ok, trapOf, holdOf, unlessDs.eq_def]
theorem canon_companionWrite (s : State) (space : ℕ) (va : W64) (bs : List Byte) (hc : Memory.wf s.mem = true ∧ Memory.wf s.nv = true) : Memory.wf (companionWrite s space va bs).mem = true ∧ Memory.wf (companionWrite s space va bs).nv = true := by
  have key := canon_putBlocks (fun s va bs => .ok (match companionPut s space va bs with | .ok s1 => s1 | .error _ => s))
    (fun s va bs t h1 h2 => by cases hp : companionPut s space va bs <;> grind [→ canon_companionPut])
  unfold companionWrite
  split
  · next h => exact key _ _ _ _ hc h
  · exact hc
theorem kept_dropPage (s : State) (space : ℕ) (lo : ℕ) (hi : ℕ) : (dropPage s space lo hi).mem = s.mem ∧ (dropPage s space lo hi).nv = s.nv := by
  unfold dropPage
  grind [→ both_ok, → map_ok, trapOf, holdOf, unlessDs.eq_def]
theorem kept_dropRange (s : State) (space : ℕ) (lo : ℕ) (hi : ℕ) : (dropRange s space lo hi).mem = s.mem ∧ (dropRange s space lo hi).nv = s.nv := by
  unfold dropRange
  grind [→ both_ok, → map_ok, trapOf, holdOf, unlessDs.eq_def]
theorem canon_failLink (s : State) (hc : Memory.wf s.mem = true ∧ Memory.wf s.nv = true) : Memory.wf (failLink s).mem = true ∧ Memory.wf (failLink s).nv = true := by
  have e1 := fun (xs : List WriteRec) (u : State) hu => foldl_canon (fun (s : State) (w : WriteRec) => abortLink s w.core (w.keys.headD 0) w.va w.seq) (fun s w h => canon_abortLink _ _ _ _ _ h) xs u hu
  have e2 := fun (xs : List LoadRec) (u : State) hu => foldl_canon (fun (s : State) (l : LoadRec) => arriveEntry (abortLink s l.core (loadKey l) l.va 0) l .faulted 0 l.va)
    (fun s l h => by rw [(kept_arriveEntry ..).1, (kept_arriveEntry ..).2]; exact canon_abortLink _ _ _ _ _ h) xs u hu
  unfold failLink
  grind [canon_settle, kept_setDevReg]
theorem canon_keyStore (s : State) (d : ℕ) (key : ℕ) (bs : List Byte) (hc : Memory.wf s.mem = true ∧ Memory.wf s.nv = true) : Memory.wf (keyStore s d key bs).mem = true ∧ Memory.wf (keyStore s d key bs).nv = true := by
  unfold keyStore
  grind [kept_takeId, canon_settle, kept_dieWrite, → both_ok, → map_ok, trapOf, holdOf, unlessDs.eq_def]
theorem canon_flipPage (s : State) (d : ℕ) (f : Flip) (hc : Memory.wf s.mem = true ∧ Memory.wf s.nv = true) : Memory.wf (flipPage s d f).mem = true ∧ Memory.wf (flipPage s d f).nv = true := by
  unfold flipPage
  grind [kept_dropPage, kept_dropRange, canon_keyStore, kept_setDieReg, kept_State_setDie, → both_ok, → map_ok, trapOf, holdOf, unlessDs.eq_def]
theorem kept_putReady (s : State) (d : ℕ) (reg : ℕ) (i : ℕ) (on : Bool) : (putReady s d reg i on).mem = s.mem ∧ (putReady s d reg i on).nv = s.nv := by
  unfold putReady
  grind [kept_setDieReg, kept_setDevReg, → both_ok, → map_ok, trapOf, holdOf, unlessDs.eq_def]
theorem kept_makeReady (s : State) (d : ℕ) (reg : ℕ) (i : ℕ) : (makeReady s d reg i).mem = s.mem ∧ (makeReady s d reg i).nv = s.nv := by
  unfold makeReady
  grind [kept_putReady, → both_ok, → map_ok, trapOf, holdOf, unlessDs.eq_def]
theorem kept_shoot (s : State) (d : ℕ) (kind : ℕ) (spaces : List ℕ) (lo : ℕ) (hi : ℕ) (fields : W64) : (shoot s d kind spaces lo hi fields).mem = s.mem ∧ (shoot s d kind spaces lo hi fields).nv = s.nv := by
  unfold shoot
  grind [kept_setDieReg, kept_dropRange, kept_State_setDie, foldl_kept, → both_ok, → map_ok, trapOf, holdOf, unlessDs.eq_def]
theorem kept_spreadLine (s : State) (d : ℕ) (l : ℕ) : (spreadLine s d l).mem = s.mem ∧ (spreadLine s d l).nv = s.nv := by
  unfold spreadLine
  grind [kept_State_setDie, foldl_kept, → both_ok, → map_ok, trapOf, holdOf, unlessDs.eq_def]
theorem canon_execAlvelLinkFailure (s : State) (hc : Memory.wf s.mem = true ∧ Memory.wf s.nv = true) {u : _} (h : execAlvelLinkFailure s = .next u) : Memory.wf u.mem = true ∧ Memory.wf u.nv = true := by
  unfold execAlvelLinkFailure at h
  grind [canon_failLink, → both_ok, → map_ok, trapOf, holdOf, unlessDs.eq_def]
theorem kept_execAttestation (nonce : BitVec 256) (s : State) {u : _} (h : execAttestation nonce s = .next u) : u.mem = s.mem ∧ u.nv = s.nv := by
  unfold execAttestation at h
  grind [kept_State_tell, → both_ok, → map_ok, trapOf, holdOf, unlessDs.eq_def]
theorem kept_execBiasFlip (die : ℕ) (value : W64) (s : State) {u : _} (h : execBiasFlip die value s = .next u) : u.mem = s.mem ∧ u.nv = s.nv := by
  unfold execBiasFlip at h
  grind [kept_setDieReg, kept_State_setDie, → both_ok, → map_ok, trapOf, holdOf, unlessDs.eq_def]
theorem canon_execBiasFlipComplete (die : ℕ) (s : State) (hc : Memory.wf s.mem = true ∧ Memory.wf s.nv = true) {u : _} (h : execBiasFlipComplete die s = .next u) : Memory.wf u.mem = true ∧ Memory.wf u.nv = true := by
  unfold execBiasFlipComplete at h
  grind [canon_settle, kept_writeBack, canon_flipPage, → both_ok, → map_ok, trapOf, holdOf, unlessDs.eq_def]
theorem canon_execCompanionAccess (op : CompanionOp) (s : State) (hc : Memory.wf s.mem = true ∧ Memory.wf s.nv = true) {u : _} (h : execCompanionAccess op s = .next u) : Memory.wf u.mem = true ∧ Memory.wf u.nv = true := by
  unfold execCompanionAccess at h
  grind [kept_State_tell, kept_companionNote, canon_companionWrite, canon_companionAtomic, → both_ok, → map_ok, trapOf, holdOf, unlessDs.eq_def]
theorem kept_execCorrectedError (die : ℕ) (source : ℕ) (s : State) {u : _} (h : execCorrectedError die source s = .next u) : u.mem = s.mem ∧ u.nv = s.nv := by
  unfold execCorrectedError at h
  grind [kept_countError, → both_ok, → map_ok, trapOf, holdOf, unlessDs.eq_def]
theorem canon_execDeviceTriggerPropagation (die : ℕ) (line : ℕ) (s : State) (hc : Memory.wf s.mem = true ∧ Memory.wf s.nv = true) {u : _} (h : execDeviceTriggerPropagation die line s = .next u) : Memory.wf u.mem = true ∧ Memory.wf u.nv = true := by
  unfold execDeviceTriggerPropagation at h
  grind [canon_assertLine, kept_State_setDie, → both_ok, → map_ok, trapOf, holdOf, unlessDs.eq_def]
theorem kept_execDurableRecovery (launch : ℕ) (space : ℕ) (p0 : W64) (p1 : W64) (lcore : ℕ) (seat : ℕ) (s : State) {u : _} (h : execDurableRecovery launch space p0 p1 lcore seat s = .next u) : u.mem = s.mem ∧ u.nv = s.nv := by
  unfold execDurableRecovery at h
  grind [kept_State_tell, → both_ok, → map_ok, trapOf, holdOf, unlessDs.eq_def]
theorem kept_execFunctionReady (die : ℕ) (reg : ℕ) (bit : ℕ) (s : State) {u : _} (h : execFunctionReady die reg bit s = .next u) : u.mem = s.mem ∧ u.nv = s.nv := by
  unfold execFunctionReady at h
  grind [kept_makeReady, → both_ok, → map_ok, trapOf, holdOf, unlessDs.eq_def]
theorem kept_execFunctionRemove (die : ℕ) (value : W64) (s : State) {u : _} (h : execFunctionRemove die value s = .next u) : u.mem = s.mem ∧ u.nv = s.nv := by
  unfold execFunctionRemove at h
  grind [kept_putReady, → both_ok, → map_ok, trapOf, holdOf, unlessDs.eq_def]
theorem kept_execInputUndervoltage (s : State) {u : _} (h : execInputUndervoltage s = .next u) : u.mem = s.mem ∧ u.nv = s.nv := by
  unfold execInputUndervoltage at h
  grind [→ both_ok, → map_ok, trapOf, holdOf, unlessDs.eq_def]
theorem kept_execLcmapWrite (die : ℕ) (lcore : ℕ) (value : W64) (s : State) {u : _} (h : execLcmapWrite die lcore value s = .next u) : u.mem = s.mem ∧ u.nv = s.nv := by
  unfold execLcmapWrite at h
  grind [kept_State_setDie, → both_ok, → map_ok, trapOf, holdOf, unlessDs.eq_def]
theorem kept_execLinkCrcRetry (_granule : ℕ) (s : State) {u : _} (h : execLinkCrcRetry _granule s = .next u) : u.mem = s.mem ∧ u.nv = s.nv := by
  unfold execLinkCrcRetry at h
  grind [→ both_ok, → map_ok, trapOf, holdOf, unlessDs.eq_def]
theorem canon_execLogicalCoreRebind (die : ℕ) (lcore : ℕ) (s : State) (hc : Memory.wf s.mem = true ∧ Memory.wf s.nv = true) {u : _} (h : execLogicalCoreRebind die lcore s = .next u) : Memory.wf u.mem = true ∧ Memory.wf u.nv = true := by
  unfold execLogicalCoreRebind at h
  grind [kept_State_setDie, kept_setPcstat, canon_bindCore, kept_putReady, kept_setDieReg, → both_ok, → map_ok, trapOf, holdOf, unlessDs.eq_def]
theorem canon_execMonitorClear (die : ℕ) (unit : ℕ) (s : State) (hc : Memory.wf s.mem = true ∧ Memory.wf s.nv = true) {u : _} (h : execMonitorClear die unit s = .next u) : Memory.wf u.mem = true ∧ Memory.wf u.nv = true := by
  unfold execMonitorClear at h
  grind [canon_traceAll, kept_State_setDie, → both_ok, → map_ok, trapOf, holdOf, unlessDs.eq_def]
theorem kept_execMonitorLevelSample (die : ℕ) (unit : ℕ) (s : State) {u : _} (h : execMonitorLevelSample die unit s = .next u) : u.mem = s.mem ∧ u.nv = s.nv := by
  unfold execMonitorLevelSample at h
  grind [kept_State_setDie, kept_raiseSource, → both_ok, → map_ok, trapOf, holdOf, unlessDs.eq_def]
theorem canon_execPowerOn (authentic : W32) (s : State) (hc : Memory.wf s.mem = true ∧ Memory.wf s.nv = true) {u : _} (h : execPowerOn authentic s = .next u) : Memory.wf u.mem = true ∧ Memory.wf u.nv = true := by
  unfold execPowerOn at h
  grind [canon_afterLoss, → both_ok, → map_ok, trapOf, holdOf, unlessDs.eq_def]
theorem kept_execRetireMapChange (core : ℕ) (s : State) {u : _} (h : execRetireMapChange core s = .next u) : u.mem = s.mem ∧ u.nv = s.nv := by
  unfold execRetireMapChange at h
  grind [kept_setRel, kept_State_setCore, kept_setPcstat, → both_ok, → map_ok, trapOf, holdOf, unlessDs.eq_def]
theorem kept_execRetireWrite (die : ℕ) (pcore : ℕ) (value : W64) (s : State) {u : _} (h : execRetireWrite die pcore value s = .next u) : u.mem = s.mem ∧ u.nv = s.nv := by
  unfold execRetireWrite at h
  grind [kept_setPhysAt, → both_ok, → map_ok, trapOf, holdOf, unlessDs.eq_def]
theorem canon_execScanAbort (die : ℕ) (s : State) (hc : Memory.wf s.mem = true ∧ Memory.wf s.nv = true) {u : _} (h : execScanAbort die s = .next u) : Memory.wf u.mem = true ∧ Memory.wf u.nv = true := by
  unfold execScanAbort at h
  grind [canon_abortScan, → both_ok, → map_ok, trapOf, holdOf, unlessDs.eq_def]
theorem canon_execScanPriorityAbort (die : ℕ) (s : State) (hc : Memory.wf s.mem = true ∧ Memory.wf s.nv = true) {u : _} (h : execScanPriorityAbort die s = .next u) : Memory.wf u.mem = true ∧ Memory.wf u.nv = true := by
  unfold execScanPriorityAbort at h
  grind [canon_abortScan, → both_ok, → map_ok, trapOf, holdOf, unlessDs.eq_def]
theorem canon_execScanRun (die : ℕ) (s : State) (hc : Memory.wf s.mem = true ∧ Memory.wf s.nv = true) {u : _} (h : execScanRun die s = .next u) : Memory.wf u.mem = true ∧ Memory.wf u.nv = true := by
  unfold execScanRun at h
  grind [kept_setScanSt, kept_State_setDie, canon_saveResidents, → both_ok, → map_ok, trapOf, holdOf, unlessDs.eq_def]
theorem kept_execScanStart (die : ℕ) (value : W64) (s : State) {u : _} (h : execScanStart die value s = .next u) : u.mem = s.mem ∧ u.nv = s.nv := by
  unfold execScanStart at h
  grind [kept_scanErr, kept_startScan, → both_ok, → map_ok, trapOf, holdOf, unlessDs.eq_def]
theorem canon_execScanVerdict (die : ℕ) (fails : List ℕ) (rows : List ℕ) (cols : List ℕ) (s : State) (hc : Memory.wf s.mem = true ∧ Memory.wf s.nv = true) {u : _} (h : execScanVerdict die fails rows cols s = .next u) : Memory.wf u.mem = true ∧ Memory.wf u.nv = true := by
  unfold execScanVerdict at h
  grind [canon_verdict, → both_ok, → map_ok, trapOf, holdOf, unlessDs.eq_def]
theorem kept_execShootdownAll (die : ℕ) (s : State) {u : _} (h : execShootdownAll die s = .next u) : u.mem = s.mem ∧ u.nv = s.nv := by
  unfold execShootdownAll at h
  grind [kept_shoot, → both_ok, → map_ok, trapOf, holdOf, unlessDs.eq_def]
theorem kept_execShootdownComplete (die : ℕ) (s : State) {u : _} (h : execShootdownComplete die s = .next u) : u.mem = s.mem ∧ u.nv = s.nv := by
  unfold execShootdownComplete at h
  grind [kept_setDieReg, kept_State_setDie, → both_ok, → map_ok, trapOf, holdOf, unlessDs.eq_def]
theorem kept_execShootdownPages (die : ℕ) (space : ℕ) (va : ℕ) (count : ℕ) (s : State) {u : _} (h : execShootdownPages die space va count s = .next u) : u.mem = s.mem ∧ u.nv = s.nv := by
  unfold execShootdownPages at h
  grind [kept_setDieReg, kept_shoot, → both_ok, → map_ok, trapOf, holdOf, unlessDs.eq_def]
theorem kept_execShootdownSpace (die : ℕ) (space : ℕ) (s : State) {u : _} (h : execShootdownSpace die space s = .next u) : u.mem = s.mem ∧ u.nv = s.nv := by
  unfold execShootdownSpace at h
  grind [kept_shoot, → both_ok, → map_ok, trapOf, holdOf, unlessDs.eq_def]
theorem kept_execThermalShutdown (s : State) {u : _} (h : execThermalShutdown s = .next u) : u.mem = s.mem ∧ u.nv = s.nv := by
  unfold execThermalShutdown at h
  grind [→ both_ok, → map_ok, trapOf, holdOf, unlessDs.eq_def]
theorem kept_execThermalThrottle (die : ℕ) (cores : W64) (s : State) {u : _} (h : execThermalThrottle die cores s = .next u) : u.mem = s.mem ∧ u.nv = s.nv := by
  unfold execThermalThrottle at h
  grind [kept_State_setDie, → both_ok, → map_ok, trapOf, holdOf, unlessDs.eq_def]
theorem canon_execTraceEnd (die : ℕ) (session : ℕ) (s : State) (hc : Memory.wf s.mem = true ∧ Memory.wf s.nv = true) {u : _} (h : execTraceEnd die session s = .next u) : Memory.wf u.mem = true ∧ Memory.wf u.nv = true := by
  unfold execTraceEnd at h
  grind [canon_endTrace, → both_ok, → map_ok, trapOf, holdOf, unlessDs.eq_def]
theorem kept_execTraceOpen (die : ℕ) (session : ℕ) (value : W64) (s : State) {u : _} (h : execTraceOpen die session value s = .next u) : u.mem = s.mem ∧ u.nv = s.nv := by
  unfold execTraceOpen at h
  grind [kept_setTrace, → both_ok, → map_ok, trapOf, holdOf, unlessDs.eq_def]
theorem kept_execTrgfwWrite (die : ℕ) (s : State) {u : _} (h : execTrgfwWrite die s = .next u) : u.mem = s.mem ∧ u.nv = s.nv := by
  unfold execTrgfwWrite at h
  grind [kept_raiseSource, → both_ok, → map_ok, trapOf, holdOf, unlessDs.eq_def]
theorem canon_execTriggerAssert (die : ℕ) (line : ℕ) (s : State) (hc : Memory.wf s.mem = true ∧ Memory.wf s.nv = true) {u : _} (h : execTriggerAssert die line s = .next u) : Memory.wf u.mem = true ∧ Memory.wf u.nv = true := by
  unfold execTriggerAssert at h
  grind [kept_State_setDie, kept_spreadLine, canon_assertLine, → both_ok, → map_ok, trapOf, holdOf, unlessDs.eq_def]
theorem kept_execTriggerPinInput (pin : ℕ) (s : State) {u : _} (h : execTriggerPinInput pin s = .next u) : u.mem = s.mem ∧ u.nv = s.nv := by
  unfold execTriggerPinInput at h
  grind [kept_raiseSource, → both_ok, → map_ok, trapOf, holdOf, unlessDs.eq_def]
theorem canon_execUncorrectableData (die : ℕ) (source : ℕ) (key : ℕ) (vaddr : W64) (seq : W32) (lcore : ℕ) (s : State) (hc : Memory.wf s.mem = true ∧ Memory.wf s.nv = true) {u : _} (h : execUncorrectableData die source key vaddr seq lcore s = .next u) : Memory.wf u.mem = true ∧ Memory.wf u.nv = true := by
  unfold execUncorrectableData at h
  grind [canon_logRecord, canon_logError, → both_ok, → map_ok, trapOf, holdOf, unlessDs.eq_def]
theorem kept_writeQas (s : State) (q : ℕ) (width : ℕ) (v : W64) : (writeQas s q width v).mem = s.mem ∧ (writeQas s q width v).nv = s.nv := by
  unfold writeQas
  grind [kept_setDevReg, foldl_kept, → both_ok, → map_ok, trapOf, holdOf, unlessDs.eq_def]
theorem kept_writeDevice (s : State) (off : ℕ) (width : ℕ) (v : W64) : (writeDevice s off width v).mem = s.mem ∧ (writeDevice s off width v).nv = s.nv := by
  unfold writeDevice
  grind [kept_setDevReg, kept_writeQas, → both_ok, → map_ok, trapOf, holdOf, unlessDs.eq_def]
theorem canon_writeMonitor (s : State) (d : ℕ) (u : ℕ) (o : ℕ) (v : W64) (hc : Memory.wf s.mem = true ∧ Memory.wf s.nv = true) : Memory.wf (writeMonitor s d u o v).mem = true ∧ Memory.wf (writeMonitor s d u o v).nv = true := by
  unfold writeMonitor
  grind [→ canon_execMonitorClear, kept_State_setDie, after.eq_def, → both_ok, → map_ok, trapOf, holdOf, unlessDs.eq_def]
theorem kept_writePcstat (s : State) (d : ℕ) (p : ℕ) (v : W64) : (writePcstat s d p v).mem = s.mem ∧ (writePcstat s d p v).nv = s.nv := by
  unfold writePcstat
  grind [kept_setPcstat, → both_ok, → map_ok, trapOf, holdOf, unlessDs.eq_def]
theorem canon_writeScanctl (s : State) (d : ℕ) (v : W64) (hc : Memory.wf s.mem = true ∧ Memory.wf s.nv = true) : Memory.wf (writeScanctl s d v).mem = true ∧ Memory.wf (writeScanctl s d v).nv = true := by
  unfold writeScanctl
  grind [kept_setDieReg, → kept_execScanStart, kept_scanTake, → canon_execScanAbort, kept_scanErr, after.eq_def, → both_ok, → map_ok, trapOf, holdOf, unlessDs.eq_def]
theorem kept_writeSdctl (s : State) (d : ℕ) (v : W64) : (writeSdctl s d v).mem = s.mem ∧ (writeSdctl s d v).nv = s.nv := by
  unfold writeSdctl
  grind [kept_setDieReg, → kept_execShootdownPages, → kept_execShootdownSpace, → kept_execShootdownAll, after.eq_def, → both_ok, → map_ok, trapOf, holdOf, unlessDs.eq_def]
theorem canon_writeTrace (s : State) (d : ℕ) (i : ℕ) (o : ℕ) (v : W64) (hc : Memory.wf s.mem = true ∧ Memory.wf s.nv = true) : Memory.wf (writeTrace s d i o v).mem = true ∧ Memory.wf (writeTrace s d i o v).nv = true := by
  unfold writeTrace
  grind [→ kept_execTraceOpen, → canon_execTraceEnd, kept_setTrace, after.eq_def, → both_ok, → map_ok, trapOf, holdOf, unlessDs.eq_def]
theorem canon_writeDie (s : State) (d : ℕ) (off : ℕ) (v : W64) (hc : Memory.wf s.mem = true ∧ Memory.wf s.nv = true) : Memory.wf (writeDie s d off v).mem = true ∧ Memory.wf (writeDie s d off v).nv = true := by
  unfold writeDie
  repeat' (split <;> [grind [kept_writeSdctl, canon_writeScanctl, canon_writeMonitor, canon_writeTrace, kept_writePcstat, kept_setDieReg, after.eq_def, → kept_execBiasFlip, → kept_execLcmapWrite, → kept_execTrgfwWrite, → kept_execFunctionRemove]; skip])
  grind [kept_setDieReg]
theorem kept_writeRel (s : State) (d : ℕ) (p : ℕ) (o : ℕ) (width : ℕ) (v : W64) : (writeRel s d p o width v).mem = s.mem ∧ (writeRel s d p o width v).nv = s.nv := by
  unfold writeRel
  grind [kept_clearLost, → kept_execRetireWrite, kept_setPhysAt, after.eq_def, foldl_kept, → both_ok, → map_ok, trapOf, holdOf, unlessDs.eq_def]
theorem canon_writeSctl (s : State) (core : ℕ) (bank : ℕ) (v : W64) (hc : Memory.wf s.mem = true ∧ Memory.wf s.nv = true) : Memory.wf (writeSctl s core bank v).mem = true ∧ Memory.wf (writeSctl s core bank v).nv = true := by
  unfold writeSctl
  grind [kept_State_setCtx, → canon_execStop, → kept_execStep, → kept_execRun, → canon_execHalt, → kept_execRelease, kept_refuse, after.eq_def, → both_ok, → map_ok, trapOf, holdOf, unlessDs.eq_def]
theorem canon_execControlRegisterWrite (die : ℕ) (off : ℕ) (width : ℕ) (value : W64) (s : State) (hc : Memory.wf s.mem = true ∧ Memory.wf s.nv = true) {u : _} (h : execControlRegisterWrite die off width value s = .next u) : Memory.wf u.mem = true ∧ Memory.wf u.nv = true := by
  unfold execControlRegisterWrite at h
  grind [canon_writeSctl, kept_writeDevice, kept_writeRel, canon_writeDie, → both_ok, → map_ok, trapOf, holdOf, unlessDs.eq_def]
theorem kept_execChunkReply (frame : Frame) (s : State) {u : _} (h : execChunkReply frame s = .next u) : u.mem = s.mem ∧ u.nv = s.nv := by
  unfold execChunkReply at h
  grind [kept_takeReply, → both_ok, → map_ok, trapOf, holdOf, unlessDs.eq_def]
theorem kept_execChunkTimeLimit (ctx : ℕ) (seq : W32) (chunk : ℕ) (s : State) {u : _} (h : execChunkTimeLimit ctx seq chunk s = .next u) : u.mem = s.mem ∧ u.nv = s.nv := by
  unfold execChunkTimeLimit at h
  grind [kept_putCmd, kept_failMember, → both_ok, → map_ok, trapOf, holdOf, unlessDs.eq_def]
theorem canon_execChunkTransfer (ctx : ℕ) (seq : W32) (s : State) (hc : Memory.wf s.mem = true ∧ Memory.wf s.nv = true) {u : _} (h : execChunkTransfer ctx seq s = .next u) : Memory.wf u.mem = true ∧ Memory.wf u.nv = true := by
  unfold execChunkTransfer at h
  grind [kept_winSend, kept_collChunk, canon_tileChunk, → both_ok, → map_ok, trapOf, holdOf, unlessDs.eq_def]
theorem kept_execCollectiveCompletion (group : ℕ) (s : State) {u : _} (h : execCollectiveCompletion group s = .next u) : u.mem = s.mem ∧ u.nv = s.nv := by
  unfold execCollectiveCompletion at h
  grind [kept_combineGroup, kept_collComplete, foldl_kept, → both_ok, → map_ok, trapOf, holdOf, unlessDs.eq_def]
theorem kept_execExportEntryWrite (index : ℕ) (value : BitVec 192) (s : State) {u : _} (h : execExportEntryWrite index value s = .next u) : u.mem = s.mem ∧ u.nv = s.nv := by
  unfold execExportEntryWrite at h
  grind [→ both_ok, → map_ok, trapOf, holdOf, unlessDs.eq_def]
theorem kept_execFrameLifeExpiry (port : ℕ) (frame : Frame) (s : State) {u : _} (h : execFrameLifeExpiry port frame s = .next u) : u.mem = s.mem ∧ u.nv = s.nv := by
  unfold execFrameLifeExpiry at h
  grind [kept_dropFrame, → both_ok, → map_ok, trapOf, holdOf, unlessDs.eq_def]
theorem kept_execFrameReceive (port : ℕ) (frame : Frame) (s : State) {u : _} (h : execFrameReceive port frame s = .next u) : u.mem = s.mem ∧ u.nv = s.nv := by
  unfold execFrameReceive at h
  grind [kept_acceptFrame, kept_dropFrame, → both_ok, → map_ok, trapOf, holdOf, unlessDs.eq_def]
theorem kept_execImportEntryWrite (index : ℕ) (value : BitVec 192) (s : State) {u : _} (h : execImportEntryWrite index value s = .next u) : u.mem = s.mem ∧ u.nv = s.nv := by
  unfold execImportEntryWrite at h
  grind [→ both_ok, → map_ok, trapOf, holdOf, unlessDs.eq_def]
theorem kept_execKeySlotClear (group : ℕ) (owner : ℕ) (s : State) {u : _} (h : execKeySlotClear group owner s = .next u) : u.mem = s.mem ∧ u.nv = s.nv := by
  unfold execKeySlotClear at h
  grind [→ both_ok, → map_ok, trapOf, holdOf, unlessDs.eq_def]
theorem kept_execPortFailure (port : ℕ) (s : State) {u : _} (h : execPortFailure port s = .next u) : u.mem = s.mem ∧ u.nv = s.nv := by
  unfold execPortFailure at h
  grind [→ both_ok, → map_ok, trapOf, holdOf, unlessDs.eq_def]
theorem kept_execRekey (group : ℕ) (owner : ℕ) (key : ℕ) (s : State) {u : _} (h : execRekey group owner key s = .next u) : u.mem = s.mem ∧ u.nv = s.nv := by
  unfold execRekey at h
  grind [→ both_ok, → map_ok, trapOf, holdOf, unlessDs.eq_def]
theorem kept_execRevoke (index : ℕ) (invalidate : Bool) (s : State) {u : _} (h : execRevoke index invalidate s = .next u) : u.mem = s.mem ∧ u.nv = s.nv := by
  unfold execRevoke at h
  grind [kept_settleRevoke, → both_ok, → map_ok, trapOf, holdOf, unlessDs.eq_def]
theorem canon_execTileCommandCompletion (ctx : ℕ) (seq : W32) (s : State) (hc : Memory.wf s.mem = true ∧ Memory.wf s.nv = true) {u : _} (h : execTileCommandCompletion ctx seq s = .next u) : Memory.wf u.mem = true ∧ Memory.wf u.nv = true := by
  unfold execTileCommandCompletion at h
  grind [canon_tileComplete, → both_ok, → map_ok, trapOf, holdOf, unlessDs.eq_def]
theorem canon_execWindowChunkRequest (frame : Frame) (s : State) (hc : Memory.wf s.mem = true ∧ Memory.wf s.nv = true) {u : _} (h : execWindowChunkRequest frame s = .next u) : Memory.wf u.mem = true ∧ Memory.wf u.nv = true := by
  unfold execWindowChunkRequest at h
  grind [kept_ackChunk, canon_judgeChunk, → both_ok, → map_ok, trapOf, holdOf, unlessDs.eq_def]
theorem kept_execWindowCommandCompletion (ctx : ℕ) (seq : W32) (s : State) {u : _} (h : execWindowCommandCompletion ctx seq s = .next u) : u.mem = s.mem ∧ u.nv = s.nv := by
  unfold execWindowCommandCompletion at h
  grind [kept_winComplete, → both_ok, → map_ok, trapOf, holdOf, unlessDs.eq_def]
theorem canon_answerBell (s : State) (id : ℕ) (q : ℕ) (va : W64) (hc : Memory.wf s.mem = true ∧ Memory.wf s.nv = true) : Memory.wf (answerBell s id q va).mem = true ∧ Memory.wf (answerBell s id q va).nv = true := by
  unfold answerBell
  grind [canon_offerRecord, → both_ok, → map_ok, trapOf, holdOf, unlessDs.eq_def]
theorem canon_execClaim (core : ℕ) (seat : ℕ) (launch : ℕ) (entry : ℕ) (s : State) (hc : Memory.wf s.mem = true ∧ Memory.wf s.nv = true) {u : _} (h : execClaim core seat launch entry s = .next u) : Memory.wf u.mem = true ∧ Memory.wf u.nv = true := by
  unfold execClaim at h
  grind [kept_State_setLaunch, kept_State_setCtx, kept_dropSeatSteals, canon_startBank, canon_notePlaced, → both_ok, → map_ok, trapOf, holdOf, unlessDs.eq_def]
theorem kept_execContextEnd (ctx : ℕ) (s : State) {u : _} (h : execContextEnd ctx s = .next u) : u.mem = s.mem ∧ u.nv = s.nv := by
  unfold execContextEnd at h
  grind [kept_dropSeatSteals, kept_endCtx, → both_ok, → map_ok, trapOf, holdOf, unlessDs.eq_def]
theorem kept_execHostCancel (level : ℕ) (ident : ℕ) (s : State) {u : _} (h : execHostCancel level ident s = .next u) : u.mem = s.mem ∧ u.nv = s.nv := by
  unfold execHostCancel at h
  grind [kept_cancelItem, → both_ok, → map_ok, trapOf, holdOf, unlessDs.eq_def]
theorem canon_execLaunchAccept (id : ℕ) (s : State) (hc : Memory.wf s.mem = true ∧ Memory.wf s.nv = true) {u : _} (h : execLaunchAccept id s = .next u) : Memory.wf u.mem = true ∧ Memory.wf u.nv = true := by
  unfold execLaunchAccept at h
  grind [canon_answerBell, canon_offerRecord, → both_ok, → map_ok, trapOf, holdOf, unlessDs.eq_def]
theorem kept_execLaunchDoorbell (q : ℕ) (va : W64) (s : State) {u : _} (h : execLaunchDoorbell q va s = .next u) : u.mem = s.mem ∧ u.nv = s.nv := by
  unfold execLaunchDoorbell at h
  grind [kept_takeId, → both_ok, → map_ok, trapOf, holdOf, unlessDs.eq_def]
theorem canon_execLaunchEnd (launch : ℕ) (s : State) (hc : Memory.wf s.mem = true ∧ Memory.wf s.nv = true) {u : _} (h : execLaunchEnd launch s = .next u) : Memory.wf u.mem = true ∧ Memory.wf u.nv = true := by
  unfold execLaunchEnd at h
  grind [canon_settle, kept_writeBack, canon_closeLaunch, → both_ok, → map_ok, trapOf, holdOf, unlessDs.eq_def]
theorem canon_execLaunchStart (launch : ℕ) (s : State) (hc : Memory.wf s.mem = true ∧ Memory.wf s.nv = true) {u : _} (h : execLaunchStart launch s = .next u) : Memory.wf u.mem = true ∧ Memory.wf u.nv = true := by
  unfold execLaunchStart at h
  grind [kept_unqueue, kept_State_setLaunch, kept_raiseEvery, canon_traceLaunch, → both_ok, → map_ok, trapOf, holdOf, unlessDs.eq_def]
theorem canon_execQueueReset (q : ℕ) (s : State) (hc : Memory.wf s.mem = true ∧ Memory.wf s.nv = true) {u : _} (h : execQueueReset q s = .next u) : Memory.wf u.mem = true ∧ Memory.wf u.nv = true := by
  unfold execQueueReset at h
  cases h
  have hf := foldl_kept cancelLaunch (fun s l => kept_cancelLaunch s l)
    ((launchIds s).filter (fun l => (s.launch l).alive && decide ((s.launch l).rec_.queue = q))) s
  refine foldl_canon _ (fun _ _ h => canon_endTracesEvery _ _ _ h) _ _ ?_
  exact ⟨hf.1 ▸ hc.1, hf.2 ▸ hc.2⟩
theorem canon_execReportDelivery (ctx : ℕ) (s : State) (hc : Memory.wf s.mem = true ∧ Memory.wf s.nv = true) {u : _} (h : execReportDelivery ctx s = .next u) : Memory.wf u.mem = true ∧ Memory.wf u.nv = true := by
  unfold execReportDelivery at h
  grind [canon_deliver, → both_ok, → map_ok, trapOf, holdOf, unlessDs.eq_def]
theorem kept_execTileStepEntry (ctx : ℕ) (s : State) {u : _} (h : execTileStepEntry ctx s = .next u) : u.mem = s.mem ∧ u.nv = s.nv := by
  unfold execTileStepEntry at h
  grind [kept_State_setCtx, → both_ok, → map_ok, trapOf, holdOf, unlessDs.eq_def]
theorem canon_runUnit (a : UnitAct) (s : State) (hc : Memory.wf s.mem = true ∧ Memory.wf s.nv = true) {u : _} (h : runUnit a s = .next u) : Memory.wf u.mem = true ∧ Memory.wf u.nv = true := by
  unfold runUnit at h
  grind [→ canon_execLoadQueueArrival, → canon_execLaunchAccept, → canon_execWriteStagePass, → canon_execStoreCompletion, → canon_execPersistArrival, → canon_execCrossDieApply, → canon_execStashWriteback, → kept_execBarrierInitMessage, → kept_execBarrierArrivalMessage, → kept_execBarrierReply, → kept_execBarrierCompletionMessage, → canon_execSwbCompletion, → canon_execChunkTransfer, → kept_execWindowCommandCompletion, → kept_execCollectiveCompletion, → canon_execTileCommandCompletion, → kept_execChunkReply, → canon_execWindowChunkRequest, → canon_execReportDelivery, → canon_execPbarCompletion, → kept_execContextEnd, → kept_execTileStepEntry, → canon_execLaunchStart, → canon_execLaunchEnd, → kept_execStopComplete, → kept_execMicroprogramImageLoad, → canon_execClaim, → kept_execStealRequest, → canon_execPreempt, → canon_execStealGrant, → kept_execStealSplit, → canon_execContextResume, → canon_execContextImageWrite, → kept_execShootdownComplete, → canon_execBiasFlipComplete, → canon_execDeviceTriggerPropagation, → kept_execRetireMapChange, → canon_execUncorrectableData, → kept_execChunkTimeLimit, → kept_execKeySlotClear, → canon_execScanRun, → canon_execScanPriorityAbort, → canon_execLogicalCoreRebind, → kept_execMonitorLevelSample, → canon_execTriggerAssert, → both_ok, → map_ok, trapOf, holdOf, unlessDs.eq_def]

end Sys2Proof.Machine
end

