-- ==== Sys2Proof/Laws/Lanes.lean ====
section
/-! SUPPORT. Lanes: an element read from a register built of elements, and what a merge leaves in every element. -/
namespace Sys2Proof.Machine

/-- A digit of a number built from its digits. -/
theorem digit_joinLanes (w : Nat) : ∀ (xs : List Nat) (i : Nat),
    joinLanes w xs / 2 ^ (w * i) % 2 ^ w = (xs.getD i 0) % 2 ^ w
  | [], i => by simp [joinLanes]
  | x :: xs, 0 => by simp [joinLanes]
  | x :: xs, i + 1 => by
    have h : joinLanes w (x :: xs) / 2 ^ (w * (i + 1)) = joinLanes w xs / 2 ^ (w * i) := by
      rw [Nat.mul_add, Nat.mul_one, Nat.add_comm, Nat.pow_add, ← Nat.div_div_eq_div_mul]
      congr 1
      simp only [joinLanes]
      rw [Nat.add_mul_div_left _ _ (Nat.two_pow_pos w), Nat.div_eq_of_lt (Nat.mod_lt _ (Nat.two_pow_pos w)), Nat.zero_add]
    rw [h, digit_joinLanes w xs i]; simp

/-- A number built from n digits lies below 2^(w·n). -/
theorem joinLanes_lt (w : Nat) : ∀ xs : List Nat, joinLanes w xs < 2 ^ (w * xs.length)
  | [] => by simp [joinLanes]
  | x :: xs => by
    have h1 := joinLanes_lt w xs
    have h2 : x % 2 ^ w < 2 ^ w := Nat.mod_lt _ (Nat.two_pow_pos w)
    simp only [joinLanes, List.length_cons]
    rw [Nat.mul_add, Nat.mul_one, Nat.pow_add, Nat.mul_comm (2 ^ (w * xs.length))]
    calc x % 2 ^ w + 2 ^ w * joinLanes w xs < 2 ^ w + 2 ^ w * joinLanes w xs := by omega
      _ = 2 ^ w * (joinLanes w xs + 1) := by ring
      _ ≤ 2 ^ w * 2 ^ (w * xs.length) := Nat.mul_le_mul_left _ h1

theorem toNat_fromLanes {w : Nat} {xs : List Nat} (h : w * xs.length ≤ 1024) : (fromLanes w xs).toNat = joinLanes w xs := by
  unfold fromLanes
  rw [BitVec.toNat_ofNat]
  exact Nat.mod_eq_of_lt (Nat.lt_of_lt_of_le (joinLanes_lt w xs) (Nat.pow_le_pow_right (by omega) h))

/-- An element of a register built from its elements. -/
theorem lane_fromLanes {w : Nat} {xs : List Nat} (h : w * xs.length ≤ 1024) (i : Nat) :
    lane w (fromLanes w xs) i = (xs.getD i 0) % 2 ^ w := by
  unfold lane; rw [toNat_fromLanes h, digit_joinLanes]

/-- An element of a register built by index. -/
theorem lane_fromLanes_map {w n i : Nat} (g : Nat → Nat) (h : w * n ≤ 1024) (hi : i < n) :
    lane w (fromLanes w ((List.range n).map g)) i = g i % 2 ^ w := by
  rw [lane_fromLanes (by simpa using h)]
  simp [List.getD, hi]

theorem lane_lt (w : Nat) (v : Wide) (i : Nat) : lane w v i < 2 ^ w := Nat.mod_lt _ (Nat.two_pow_pos w)

@[simp] theorem lane_mod (w : Nat) (v : Wide) (i : Nat) : lane w v i % 2 ^ w = lane w v i := Nat.mod_eq_of_lt (lane_lt w v i)

/-- Every element after a merge (R134). -/
theorem lane_mergeLanes {m : W32} {w i : Nat} (old : Wide) (g : Nat → Nat) (hi : i < 1024 / w) :
    lane w (mergeLanes m w old g) i = if laneOn m w i then g i % 2 ^ w else lane w old i := by
  unfold mergeLanes
  rw [lane_fromLanes_map _ (Nat.mul_div_le 1024 w) hi]
  split <;> simp

end Sys2Proof.Machine
end

