-- ==== Sys2Proof/Laws/PerInstr.lean ====
section
/-! SUPPORT. What holds of every instruction as syntax: its slot word leaves the stop bit to framing and has a class the
table of R47 names. -/
namespace Sys2Proof.Laws

/-- The word of a slot instruction has its stop bit (bit 31) clear and a class (bits 30..28) of 001 to 111. -/
def WordBits.Statement (i : Instr) : Prop :=
  ∀ w, encodeWord i = some w → w.toNat / 2 ^ 28 ≠ 0 ∧ w.toNat < 2 ^ 31

theorem word_bits {n : Nat} {w : W32} (h : some (BitVec.ofNat 32 n) = some w) (h1 : 2 ^ 28 ≤ n) (h2 : n < 2 ^ 31) :
    w.toNat / 2 ^ 28 ≠ 0 ∧ w.toNat < 2 ^ 31 := by
  cases h
  rw [BitVec.toNat_ofNat, Nat.mod_eq_of_lt (by omega)]
  exact ⟨by omega, h2⟩

theorem vslot_code (sl : VSlot) : 2 ≤ sl.code ∧ sl.code ≤ 3 := by cases sl <;> decide
theorem cslot_code (sl : CSlot) : 5 ≤ sl.code ∧ sl.code ≤ 6 := by cases sl <;> decide

theorem WordBits.bundleIssue (core : Nat) : WordBits.Statement (.bundleIssue core) := fun _ h => nomatch h
theorem WordBits.controlRegisterWrite (die off width : Nat) (value : W64) : WordBits.Statement (.controlRegisterWrite die off width value) := fun _ h => nomatch h
theorem WordBits.nop : WordBits.Statement .nop := fun _ h => word_bits h (by decide) (by decide)
theorem WordBits.add (d a b : BitVec 6) (w : BitVec 2) : WordBits.Statement (.add d a b w) :=
  fun _ h => by
    have h0 := d.isLt
    have h1 := a.isLt
    have h2 := b.isLt
    have h3 := w.isLt
    exact word_bits h (by omega) (by omega)
theorem WordBits.sub (d a b : BitVec 6) (w : BitVec 2) : WordBits.Statement (.sub d a b w) :=
  fun _ h => by
    have h0 := d.isLt
    have h1 := a.isLt
    have h2 := b.isLt
    have h3 := w.isLt
    exact word_bits h (by omega) (by omega)
theorem WordBits.and (d a b : BitVec 6) (w : BitVec 2) : WordBits.Statement (.and d a b w) :=
  fun _ h => by
    have h0 := d.isLt
    have h1 := a.isLt
    have h2 := b.isLt
    have h3 := w.isLt
    exact word_bits h (by omega) (by omega)
theorem WordBits.or (d a b : BitVec 6) (w : BitVec 2) : WordBits.Statement (.or d a b w) :=
  fun _ h => by
    have h0 := d.isLt
    have h1 := a.isLt
    have h2 := b.isLt
    have h3 := w.isLt
    exact word_bits h (by omega) (by omega)
theorem WordBits.xor (d a b : BitVec 6) (w : BitVec 2) : WordBits.Statement (.xor d a b w) :=
  fun _ h => by
    have h0 := d.isLt
    have h1 := a.isLt
    have h2 := b.isLt
    have h3 := w.isLt
    exact word_bits h (by omega) (by omega)
theorem WordBits.andn (d a b : BitVec 6) (w : BitVec 2) : WordBits.Statement (.andn d a b w) :=
  fun _ h => by
    have h0 := d.isLt
    have h1 := a.isLt
    have h2 := b.isLt
    have h3 := w.isLt
    exact word_bits h (by omega) (by omega)
theorem WordBits.shl (d a b : BitVec 6) (w : BitVec 2) : WordBits.Statement (.shl d a b w) :=
  fun _ h => by
    have h0 := d.isLt
    have h1 := a.isLt
    have h2 := b.isLt
    have h3 := w.isLt
    exact word_bits h (by omega) (by omega)
theorem WordBits.shr (d a b : BitVec 6) (w : BitVec 2) : WordBits.Statement (.shr d a b w) :=
  fun _ h => by
    have h0 := d.isLt
    have h1 := a.isLt
    have h2 := b.isLt
    have h3 := w.isLt
    exact word_bits h (by omega) (by omega)
theorem WordBits.sra (d a b : BitVec 6) (w : BitVec 2) : WordBits.Statement (.sra d a b w) :=
  fun _ h => by
    have h0 := d.isLt
    have h1 := a.isLt
    have h2 := b.isLt
    have h3 := w.isLt
    exact word_bits h (by omega) (by omega)
theorem WordBits.rol (d a b : BitVec 6) (w : BitVec 2) : WordBits.Statement (.rol d a b w) :=
  fun _ h => by
    have h0 := d.isLt
    have h1 := a.isLt
    have h2 := b.isLt
    have h3 := w.isLt
    exact word_bits h (by omega) (by omega)
theorem WordBits.mul (d a b : BitVec 6) (w : BitVec 2) : WordBits.Statement (.mul d a b w) :=
  fun _ h => by
    have h0 := d.isLt
    have h1 := a.isLt
    have h2 := b.isLt
    have h3 := w.isLt
    exact word_bits h (by omega) (by omega)
theorem WordBits.mulh (d a b : BitVec 6) (w : BitVec 2) : WordBits.Statement (.mulh d a b w) :=
  fun _ h => by
    have h0 := d.isLt
    have h1 := a.isLt
    have h2 := b.isLt
    have h3 := w.isLt
    exact word_bits h (by omega) (by omega)
theorem WordBits.mulhn (d a b : BitVec 6) (w : BitVec 2) : WordBits.Statement (.mulhn d a b w) :=
  fun _ h => by
    have h0 := d.isLt
    have h1 := a.isLt
    have h2 := b.isLt
    have h3 := w.isLt
    exact word_bits h (by omega) (by omega)
theorem WordBits.div (d a b : BitVec 6) (w : BitVec 2) : WordBits.Statement (.div d a b w) :=
  fun _ h => by
    have h0 := d.isLt
    have h1 := a.isLt
    have h2 := b.isLt
    have h3 := w.isLt
    exact word_bits h (by omega) (by omega)
theorem WordBits.divn (d a b : BitVec 6) (w : BitVec 2) : WordBits.Statement (.divn d a b w) :=
  fun _ h => by
    have h0 := d.isLt
    have h1 := a.isLt
    have h2 := b.isLt
    have h3 := w.isLt
    exact word_bits h (by omega) (by omega)
theorem WordBits.rem (d a b : BitVec 6) (w : BitVec 2) : WordBits.Statement (.rem d a b w) :=
  fun _ h => by
    have h0 := d.isLt
    have h1 := a.isLt
    have h2 := b.isLt
    have h3 := w.isLt
    exact word_bits h (by omega) (by omega)
theorem WordBits.remn (d a b : BitVec 6) (w : BitVec 2) : WordBits.Statement (.remn d a b w) :=
  fun _ h => by
    have h0 := d.isLt
    have h1 := a.isLt
    have h2 := b.isLt
    have h3 := w.isLt
    exact word_bits h (by omega) (by omega)
theorem WordBits.min (d a b : BitVec 6) (w : BitVec 2) : WordBits.Statement (.min d a b w) :=
  fun _ h => by
    have h0 := d.isLt
    have h1 := a.isLt
    have h2 := b.isLt
    have h3 := w.isLt
    exact word_bits h (by omega) (by omega)
theorem WordBits.max (d a b : BitVec 6) (w : BitVec 2) : WordBits.Statement (.max d a b w) :=
  fun _ h => by
    have h0 := d.isLt
    have h1 := a.isLt
    have h2 := b.isLt
    have h3 := w.isLt
    exact word_bits h (by omega) (by omega)
theorem WordBits.minn (d a b : BitVec 6) (w : BitVec 2) : WordBits.Statement (.minn d a b w) :=
  fun _ h => by
    have h0 := d.isLt
    have h1 := a.isLt
    have h2 := b.isLt
    have h3 := w.isLt
    exact word_bits h (by omega) (by omega)
theorem WordBits.maxn (d a b : BitVec 6) (w : BitVec 2) : WordBits.Statement (.maxn d a b w) :=
  fun _ h => by
    have h0 := d.isLt
    have h1 := a.isLt
    have h2 := b.isLt
    have h3 := w.isLt
    exact word_bits h (by omega) (by omega)
theorem WordBits.clz (d a : BitVec 6) (w : BitVec 2) : WordBits.Statement (.clz d a w) :=
  fun _ h => by
    have h0 := d.isLt
    have h1 := a.isLt
    have h2 := w.isLt
    exact word_bits h (by omega) (by omega)
theorem WordBits.popc (d a : BitVec 6) (w : BitVec 2) : WordBits.Statement (.popc d a w) :=
  fun _ h => by
    have h0 := d.isLt
    have h1 := a.isLt
    have h2 := w.isLt
    exact word_bits h (by omega) (by omega)
theorem WordBits.ctz (d a : BitVec 6) (w : BitVec 2) : WordBits.Statement (.ctz d a w) :=
  fun _ h => by
    have h0 := d.isLt
    have h1 := a.isLt
    have h2 := w.isLt
    exact word_bits h (by omega) (by omega)
theorem WordBits.cmov (d a b : BitVec 6) (w : BitVec 2) : WordBits.Statement (.cmov d a b w) :=
  fun _ h => by
    have h0 := d.isLt
    have h1 := a.isLt
    have h2 := b.isLt
    have h3 := w.isLt
    exact word_bits h (by omega) (by omega)
theorem WordBits.ceq (d a b : BitVec 6) (w : BitVec 2) : WordBits.Statement (.ceq d a b w) :=
  fun _ h => by
    have h0 := d.isLt
    have h1 := a.isLt
    have h2 := b.isLt
    have h3 := w.isLt
    exact word_bits h (by omega) (by omega)
theorem WordBits.cne (d a b : BitVec 6) (w : BitVec 2) : WordBits.Statement (.cne d a b w) :=
  fun _ h => by
    have h0 := d.isLt
    have h1 := a.isLt
    have h2 := b.isLt
    have h3 := w.isLt
    exact word_bits h (by omega) (by omega)
theorem WordBits.clt (d a b : BitVec 6) (w : BitVec 2) : WordBits.Statement (.clt d a b w) :=
  fun _ h => by
    have h0 := d.isLt
    have h1 := a.isLt
    have h2 := b.isLt
    have h3 := w.isLt
    exact word_bits h (by omega) (by omega)
theorem WordBits.cle (d a b : BitVec 6) (w : BitVec 2) : WordBits.Statement (.cle d a b w) :=
  fun _ h => by
    have h0 := d.isLt
    have h1 := a.isLt
    have h2 := b.isLt
    have h3 := w.isLt
    exact word_bits h (by omega) (by omega)
theorem WordBits.cltn (d a b : BitVec 6) (w : BitVec 2) : WordBits.Statement (.cltn d a b w) :=
  fun _ h => by
    have h0 := d.isLt
    have h1 := a.isLt
    have h2 := b.isLt
    have h3 := w.isLt
    exact word_bits h (by omega) (by omega)
theorem WordBits.clen (d a b : BitVec 6) (w : BitVec 2) : WordBits.Statement (.clen d a b w) :=
  fun _ h => by
    have h0 := d.isLt
    have h1 := a.isLt
    have h2 := b.isLt
    have h3 := w.isLt
    exact word_bits h (by omega) (by omega)
theorem WordBits.addi (d a : BitVec 6) (imm : BitVec 8) : WordBits.Statement (.addi d a imm) :=
  fun _ h => by
    have h0 := d.isLt
    have h1 := a.isLt
    have h2 := imm.isLt
    exact word_bits h (by omega) (by omega)
theorem WordBits.andi (d a : BitVec 6) (imm : BitVec 8) : WordBits.Statement (.andi d a imm) :=
  fun _ h => by
    have h0 := d.isLt
    have h1 := a.isLt
    have h2 := imm.isLt
    exact word_bits h (by omega) (by omega)
theorem WordBits.ori (d a : BitVec 6) (imm : BitVec 8) : WordBits.Statement (.ori d a imm) :=
  fun _ h => by
    have h0 := d.isLt
    have h1 := a.isLt
    have h2 := imm.isLt
    exact word_bits h (by omega) (by omega)
theorem WordBits.xori (d a : BitVec 6) (imm : BitVec 8) : WordBits.Statement (.xori d a imm) :=
  fun _ h => by
    have h0 := d.isLt
    have h1 := a.isLt
    have h2 := imm.isLt
    exact word_bits h (by omega) (by omega)
theorem WordBits.shli (d a : BitVec 6) (imm : BitVec 8) : WordBits.Statement (.shli d a imm) :=
  fun _ h => by
    have h0 := d.isLt
    have h1 := a.isLt
    have h2 := imm.isLt
    exact word_bits h (by omega) (by omega)
theorem WordBits.shri (d a : BitVec 6) (imm : BitVec 8) : WordBits.Statement (.shri d a imm) :=
  fun _ h => by
    have h0 := d.isLt
    have h1 := a.isLt
    have h2 := imm.isLt
    exact word_bits h (by omega) (by omega)
theorem WordBits.srai (d a : BitVec 6) (imm : BitVec 8) : WordBits.Statement (.srai d a imm) :=
  fun _ h => by
    have h0 := d.isLt
    have h1 := a.isLt
    have h2 := imm.isLt
    exact word_bits h (by omega) (by omega)
theorem WordBits.ceqi (d a : BitVec 6) (imm : BitVec 8) : WordBits.Statement (.ceqi d a imm) :=
  fun _ h => by
    have h0 := d.isLt
    have h1 := a.isLt
    have h2 := imm.isLt
    exact word_bits h (by omega) (by omega)
theorem WordBits.clti (d a : BitVec 6) (imm : BitVec 8) : WordBits.Statement (.clti d a imm) :=
  fun _ h => by
    have h0 := d.isLt
    have h1 := a.isLt
    have h2 := imm.isLt
    exact word_bits h (by omega) (by omega)
theorem WordBits.cltni (d a : BitVec 6) (imm : BitVec 8) : WordBits.Statement (.cltni d a imm) :=
  fun _ h => by
    have h0 := d.isLt
    have h1 := a.isLt
    have h2 := imm.isLt
    exact word_bits h (by omega) (by omega)
theorem WordBits.li (d : BitVec 6) (imm : BitVec 14) : WordBits.Statement (.li d imm) :=
  fun _ h => by
    have h0 := d.isLt
    have h1 := imm.isLt
    exact word_bits h (by omega) (by omega)
theorem WordBits.lis (d : BitVec 6) (imm : BitVec 14) : WordBits.Statement (.lis d imm) :=
  fun _ h => by
    have h0 := d.isLt
    have h1 := imm.isLt
    exact word_bits h (by omega) (by omega)
theorem WordBits.get (d : BitVec 6) (file : BitVec 3) (idx : BitVec 5) (lane : BitVec 6) : WordBits.Statement (.get d file idx lane) :=
  fun _ h => by
    have h0 := d.isLt
    have h1 := file.isLt
    have h2 := idx.isLt
    have h3 := lane.isLt
    exact word_bits h (by omega) (by omega)
theorem WordBits.push (w : BitVec 2) (a : BitVec 6) : WordBits.Statement (.push w a) :=
  fun _ h => by
    have h0 := w.isLt
    have h1 := a.isLt
    exact word_bits h (by omega) (by omega)
theorem WordBits.bz (a : BitVec 6) (hint : BitVec 1) (disp : BitVec 13) : WordBits.Statement (.bz a hint disp) :=
  fun _ h => by
    have h0 := a.isLt
    have h1 := hint.isLt
    have h2 := disp.isLt
    exact word_bits h (by omega) (by omega)
theorem WordBits.bnz (a : BitVec 6) (hint : BitVec 1) (disp : BitVec 13) : WordBits.Statement (.bnz a hint disp) :=
  fun _ h => by
    have h0 := a.isLt
    have h1 := hint.isLt
    have h2 := disp.isLt
    exact word_bits h (by omega) (by omega)
theorem WordBits.blz (a : BitVec 6) (hint : BitVec 1) (disp : BitVec 13) : WordBits.Statement (.blz a hint disp) :=
  fun _ h => by
    have h0 := a.isLt
    have h1 := hint.isLt
    have h2 := disp.isLt
    exact word_bits h (by omega) (by omega)
theorem WordBits.bgez (a : BitVec 6) (hint : BitVec 1) (disp : BitVec 13) : WordBits.Statement (.bgez a hint disp) :=
  fun _ h => by
    have h0 := a.isLt
    have h1 := hint.isLt
    have h2 := disp.isLt
    exact word_bits h (by omega) (by omega)
theorem WordBits.br (hint : BitVec 1) (disp : BitVec 13) : WordBits.Statement (.br hint disp) :=
  fun _ h => by
    have h0 := hint.isLt
    have h1 := disp.isLt
    exact word_bits h (by omega) (by omega)
theorem WordBits.call (hint : BitVec 1) (disp : BitVec 13) : WordBits.Statement (.call hint disp) :=
  fun _ h => by
    have h0 := hint.isLt
    have h1 := disp.isLt
    exact word_bits h (by omega) (by omega)
theorem WordBits.jr (a : BitVec 6) : WordBits.Statement (.jr a) :=
  fun _ h => by
    have h0 := a.isLt
    exact word_bits h (by omega) (by omega)
theorem WordBits.jlr (a : BitVec 6) : WordBits.Statement (.jlr a) :=
  fun _ h => by
    have h0 := a.isLt
    exact word_bits h (by omega) (by omega)
theorem WordBits.loop (level : BitVec 3) (a : BitVec 6) (body : BitVec 11) : WordBits.Statement (.loop level a body) :=
  fun _ h => by
    have h0 := level.isLt
    have h1 := a.isLt
    have h2 := body.isLt
    exact word_bits h (by omega) (by omega)
theorem WordBits.lexit (level : BitVec 3) : WordBits.Statement (.lexit level) :=
  fun _ h => by
    have h0 := level.isLt
    exact word_bits h (by omega) (by omega)
theorem WordBits.wait (ld st cp tl : BitVec 5) : WordBits.Statement (.wait ld st cp tl) :=
  fun _ h => by
    have h0 := ld.isLt
    have h1 := st.isLt
    have h2 := cp.isLt
    have h3 := tl.isLt
    exact word_bits h (by omega) (by omega)
theorem WordBits.frame : WordBits.Statement .frame := fun _ h => word_bits h (by decide) (by decide)
theorem WordBits.mfs (d : BitVec 6) (reg : BitVec 12) : WordBits.Statement (.mfs d reg) :=
  fun _ h => by
    have h0 := d.isLt
    have h1 := reg.isLt
    exact word_bits h (by omega) (by omega)
theorem WordBits.mts (a : BitVec 6) (reg : BitVec 12) : WordBits.Statement (.mts a reg) :=
  fun _ h => by
    have h0 := a.isLt
    have h1 := reg.isLt
    exact word_bits h (by omega) (by omega)
theorem WordBits.spill (id : BitVec 8) (a : BitVec 6) : WordBits.Statement (.spill id a) :=
  fun _ h => by
    have h0 := id.isLt
    have h1 := a.isLt
    exact word_bits h (by omega) (by omega)
theorem WordBits.fill (d : BitVec 6) (id : BitVec 8) : WordBits.Statement (.fill d id) :=
  fun _ h => by
    have h0 := d.isLt
    have h1 := id.isLt
    exact word_bits h (by omega) (by omega)
theorem WordBits.trap (code : BitVec 16) : WordBits.Statement (.trap code) :=
  fun _ h => by
    have h0 := code.isLt
    exact word_bits h (by omega) (by omega)
theorem WordBits.tret : WordBits.Statement .tret := fun _ h => word_bits h (by decide) (by decide)
theorem WordBits.exit : WordBits.Statement .exit := fun _ h => word_bits h (by decide) (by decide)
theorem WordBits.brk (code : BitVec 16) : WordBits.Statement (.brk code) :=
  fun _ h => by
    have h0 := code.isLt
    exact word_bits h (by omega) (by omega)
theorem WordBits.fwcall (service : BitVec 16) : WordBits.Statement (.fwcall service) :=
  fun _ h => by
    have h0 := service.isLt
    exact word_bits h (by omega) (by omega)
theorem WordBits.idle : WordBits.Statement .idle := fun _ h => word_bits h (by decide) (by decide)
theorem WordBits.vnop (sl : VSlot) : WordBits.Statement (.vnop sl) :=
  fun _ h => by
    have h0 := vslot_code sl
    exact word_bits h (by omega) (by omega)
theorem WordBits.vadd (sl : VSlot) (fmt : BitVec 4) (d a b : BitVec 5) (k : BitVec 2) : WordBits.Statement (.vadd sl fmt d a b k) :=
  fun _ h => by
    have h0 := vslot_code sl
    have h1 := fmt.isLt
    have h2 := d.isLt
    have h3 := a.isLt
    have h4 := b.isLt
    have h5 := k.isLt
    exact word_bits h (by omega) (by omega)
theorem WordBits.vsub (sl : VSlot) (fmt : BitVec 4) (d a b : BitVec 5) (k : BitVec 2) : WordBits.Statement (.vsub sl fmt d a b k) :=
  fun _ h => by
    have h0 := vslot_code sl
    have h1 := fmt.isLt
    have h2 := d.isLt
    have h3 := a.isLt
    have h4 := b.isLt
    have h5 := k.isLt
    exact word_bits h (by omega) (by omega)
theorem WordBits.vmul (sl : VSlot) (fmt : BitVec 4) (d a b : BitVec 5) (k : BitVec 2) : WordBits.Statement (.vmul sl fmt d a b k) :=
  fun _ h => by
    have h0 := vslot_code sl
    have h1 := fmt.isLt
    have h2 := d.isLt
    have h3 := a.isLt
    have h4 := b.isLt
    have h5 := k.isLt
    exact word_bits h (by omega) (by omega)
theorem WordBits.vfma (sl : VSlot) (fmt : BitVec 4) (d a b : BitVec 5) (k : BitVec 2) : WordBits.Statement (.vfma sl fmt d a b k) :=
  fun _ h => by
    have h0 := vslot_code sl
    have h1 := fmt.isLt
    have h2 := d.isLt
    have h3 := a.isLt
    have h4 := b.isLt
    have h5 := k.isLt
    exact word_bits h (by omega) (by omega)
theorem WordBits.vfms (sl : VSlot) (fmt : BitVec 4) (d a b : BitVec 5) (k : BitVec 2) : WordBits.Statement (.vfms sl fmt d a b k) :=
  fun _ h => by
    have h0 := vslot_code sl
    have h1 := fmt.isLt
    have h2 := d.isLt
    have h3 := a.isLt
    have h4 := b.isLt
    have h5 := k.isLt
    exact word_bits h (by omega) (by omega)
theorem WordBits.vmin (sl : VSlot) (fmt : BitVec 4) (d a b : BitVec 5) (k : BitVec 2) : WordBits.Statement (.vmin sl fmt d a b k) :=
  fun _ h => by
    have h0 := vslot_code sl
    have h1 := fmt.isLt
    have h2 := d.isLt
    have h3 := a.isLt
    have h4 := b.isLt
    have h5 := k.isLt
    exact word_bits h (by omega) (by omega)
theorem WordBits.vmax (sl : VSlot) (fmt : BitVec 4) (d a b : BitVec 5) (k : BitVec 2) : WordBits.Statement (.vmax sl fmt d a b k) :=
  fun _ h => by
    have h0 := vslot_code sl
    have h1 := fmt.isLt
    have h2 := d.isLt
    have h3 := a.isLt
    have h4 := b.isLt
    have h5 := k.isLt
    exact word_bits h (by omega) (by omega)
theorem WordBits.vabs (sl : VSlot) (fmt : BitVec 4) (d a : BitVec 5) (k : BitVec 2) : WordBits.Statement (.vabs sl fmt d a k) :=
  fun _ h => by
    have h0 := vslot_code sl
    have h1 := fmt.isLt
    have h2 := d.isLt
    have h3 := a.isLt
    have h4 := k.isLt
    exact word_bits h (by omega) (by omega)
theorem WordBits.vneg (sl : VSlot) (fmt : BitVec 4) (d a : BitVec 5) (k : BitVec 2) : WordBits.Statement (.vneg sl fmt d a k) :=
  fun _ h => by
    have h0 := vslot_code sl
    have h1 := fmt.isLt
    have h2 := d.isLt
    have h3 := a.isLt
    have h4 := k.isLt
    exact word_bits h (by omega) (by omega)
theorem WordBits.vtsum (sl : VSlot) (fmt : BitVec 4) (d a b : BitVec 5) (k : BitVec 2) : WordBits.Statement (.vtsum sl fmt d a b k) :=
  fun _ h => by
    have h0 := vslot_code sl
    have h1 := fmt.isLt
    have h2 := d.isLt
    have h3 := a.isLt
    have h4 := b.isLt
    have h5 := k.isLt
    exact word_bits h (by omega) (by omega)
theorem WordBits.vadds (sl : VSlot) (fmt : BitVec 4) (d a b : BitVec 5) (k : BitVec 2) : WordBits.Statement (.vadds sl fmt d a b k) :=
  fun _ h => by
    have h0 := vslot_code sl
    have h1 := fmt.isLt
    have h2 := d.isLt
    have h3 := a.isLt
    have h4 := b.isLt
    have h5 := k.isLt
    exact word_bits h (by omega) (by omega)
theorem WordBits.vsubs (sl : VSlot) (fmt : BitVec 4) (d a b : BitVec 5) (k : BitVec 2) : WordBits.Statement (.vsubs sl fmt d a b k) :=
  fun _ h => by
    have h0 := vslot_code sl
    have h1 := fmt.isLt
    have h2 := d.isLt
    have h3 := a.isLt
    have h4 := b.isLt
    have h5 := k.isLt
    exact word_bits h (by omega) (by omega)
theorem WordBits.vrcp (sl : VSlot) (fmt : BitVec 4) (d a : BitVec 5) (k : BitVec 2) : WordBits.Statement (.vrcp sl fmt d a k) :=
  fun _ h => by
    have h0 := vslot_code sl
    have h1 := fmt.isLt
    have h2 := d.isLt
    have h3 := a.isLt
    have h4 := k.isLt
    exact word_bits h (by omega) (by omega)
theorem WordBits.vrsq (sl : VSlot) (fmt : BitVec 4) (d a : BitVec 5) (k : BitVec 2) : WordBits.Statement (.vrsq sl fmt d a k) :=
  fun _ h => by
    have h0 := vslot_code sl
    have h1 := fmt.isLt
    have h2 := d.isLt
    have h3 := a.isLt
    have h4 := k.isLt
    exact word_bits h (by omega) (by omega)
theorem WordBits.vexp2 (sl : VSlot) (fmt : BitVec 4) (d a : BitVec 5) (k : BitVec 2) : WordBits.Statement (.vexp2 sl fmt d a k) :=
  fun _ h => by
    have h0 := vslot_code sl
    have h1 := fmt.isLt
    have h2 := d.isLt
    have h3 := a.isLt
    have h4 := k.isLt
    exact word_bits h (by omega) (by omega)
theorem WordBits.vlog2 (sl : VSlot) (fmt : BitVec 4) (d a : BitVec 5) (k : BitVec 2) : WordBits.Statement (.vlog2 sl fmt d a k) :=
  fun _ h => by
    have h0 := vslot_code sl
    have h1 := fmt.isLt
    have h2 := d.isLt
    have h3 := a.isLt
    have h4 := k.isLt
    exact word_bits h (by omega) (by omega)
theorem WordBits.vsqrt (sl : VSlot) (fmt : BitVec 4) (d a : BitVec 5) (k : BitVec 2) : WordBits.Statement (.vsqrt sl fmt d a k) :=
  fun _ h => by
    have h0 := vslot_code sl
    have h1 := fmt.isLt
    have h2 := d.isLt
    have h3 := a.isLt
    have h4 := k.isLt
    exact word_bits h (by omega) (by omega)
theorem WordBits.vflr (sl : VSlot) (fmt : BitVec 4) (d a : BitVec 5) (k : BitVec 2) : WordBits.Statement (.vflr sl fmt d a k) :=
  fun _ h => by
    have h0 := vslot_code sl
    have h1 := fmt.isLt
    have h2 := d.isLt
    have h3 := a.isLt
    have h4 := k.isLt
    exact word_bits h (by omega) (by omega)
theorem WordBits.vand (sl : VSlot) (d a b : BitVec 5) (k : BitVec 2) : WordBits.Statement (.vand sl d a b k) :=
  fun _ h => by
    have h0 := vslot_code sl
    have h1 := d.isLt
    have h2 := a.isLt
    have h3 := b.isLt
    have h4 := k.isLt
    exact word_bits h (by omega) (by omega)
theorem WordBits.vor (sl : VSlot) (d a b : BitVec 5) (k : BitVec 2) : WordBits.Statement (.vor sl d a b k) :=
  fun _ h => by
    have h0 := vslot_code sl
    have h1 := d.isLt
    have h2 := a.isLt
    have h3 := b.isLt
    have h4 := k.isLt
    exact word_bits h (by omega) (by omega)
theorem WordBits.vxor (sl : VSlot) (d a b : BitVec 5) (k : BitVec 2) : WordBits.Statement (.vxor sl d a b k) :=
  fun _ h => by
    have h0 := vslot_code sl
    have h1 := d.isLt
    have h2 := a.isLt
    have h3 := b.isLt
    have h4 := k.isLt
    exact word_bits h (by omega) (by omega)
theorem WordBits.vnot (sl : VSlot) (d a : BitVec 5) (k : BitVec 2) : WordBits.Statement (.vnot sl d a k) :=
  fun _ h => by
    have h0 := vslot_code sl
    have h1 := d.isLt
    have h2 := a.isLt
    have h3 := k.isLt
    exact word_bits h (by omega) (by omega)
theorem WordBits.vshl (sl : VSlot) (fmt : BitVec 4) (d a b : BitVec 5) (k : BitVec 2) : WordBits.Statement (.vshl sl fmt d a b k) :=
  fun _ h => by
    have h0 := vslot_code sl
    have h1 := fmt.isLt
    have h2 := d.isLt
    have h3 := a.isLt
    have h4 := b.isLt
    have h5 := k.isLt
    exact word_bits h (by omega) (by omega)
theorem WordBits.vshr (sl : VSlot) (fmt : BitVec 4) (d a b : BitVec 5) (k : BitVec 2) : WordBits.Statement (.vshr sl fmt d a b k) :=
  fun _ h => by
    have h0 := vslot_code sl
    have h1 := fmt.isLt
    have h2 := d.isLt
    have h3 := a.isLt
    have h4 := b.isLt
    have h5 := k.isLt
    exact word_bits h (by omega) (by omega)
theorem WordBits.vsra (sl : VSlot) (fmt : BitVec 4) (d a b : BitVec 5) (k : BitVec 2) : WordBits.Statement (.vsra sl fmt d a b k) :=
  fun _ h => by
    have h0 := vslot_code sl
    have h1 := fmt.isLt
    have h2 := d.isLt
    have h3 := a.isLt
    have h4 := b.isLt
    have h5 := k.isLt
    exact word_bits h (by omega) (by omega)
theorem WordBits.vaddi (sl : VSlot) (fmt : BitVec 4) (d a : BitVec 5) (imm : BitVec 7) : WordBits.Statement (.vaddi sl fmt d a imm) :=
  fun _ h => by
    have h0 := vslot_code sl
    have h1 := fmt.isLt
    have h2 := d.isLt
    have h3 := a.isLt
    have h4 := imm.isLt
    exact word_bits h (by omega) (by omega)
theorem WordBits.vshli (sl : VSlot) (fmt : BitVec 4) (d a : BitVec 5) (imm : BitVec 7) : WordBits.Statement (.vshli sl fmt d a imm) :=
  fun _ h => by
    have h0 := vslot_code sl
    have h1 := fmt.isLt
    have h2 := d.isLt
    have h3 := a.isLt
    have h4 := imm.isLt
    exact word_bits h (by omega) (by omega)
theorem WordBits.vshri (sl : VSlot) (fmt : BitVec 4) (d a : BitVec 5) (imm : BitVec 7) : WordBits.Statement (.vshri sl fmt d a imm) :=
  fun _ h => by
    have h0 := vslot_code sl
    have h1 := fmt.isLt
    have h2 := d.isLt
    have h3 := a.isLt
    have h4 := imm.isLt
    exact word_bits h (by omega) (by omega)
theorem WordBits.vsplat (sl : VSlot) (fmt : BitVec 4) (d a : BitVec 5) (imm : BitVec 7) : WordBits.Statement (.vsplat sl fmt d a imm) :=
  fun _ h => by
    have h0 := vslot_code sl
    have h1 := fmt.isLt
    have h2 := d.isLt
    have h3 := a.isLt
    have h4 := imm.isLt
    exact word_bits h (by omega) (by omega)
theorem WordBits.vceq (sl : VSlot) (fmt : BitVec 4) (d a b : BitVec 5) (k : BitVec 2) : WordBits.Statement (.vceq sl fmt d a b k) :=
  fun _ h => by
    have h0 := vslot_code sl
    have h1 := fmt.isLt
    have h2 := d.isLt
    have h3 := a.isLt
    have h4 := b.isLt
    have h5 := k.isLt
    exact word_bits h (by omega) (by omega)
theorem WordBits.vcne (sl : VSlot) (fmt : BitVec 4) (d a b : BitVec 5) (k : BitVec 2) : WordBits.Statement (.vcne sl fmt d a b k) :=
  fun _ h => by
    have h0 := vslot_code sl
    have h1 := fmt.isLt
    have h2 := d.isLt
    have h3 := a.isLt
    have h4 := b.isLt
    have h5 := k.isLt
    exact word_bits h (by omega) (by omega)
theorem WordBits.vclt (sl : VSlot) (fmt : BitVec 4) (d a b : BitVec 5) (k : BitVec 2) : WordBits.Statement (.vclt sl fmt d a b k) :=
  fun _ h => by
    have h0 := vslot_code sl
    have h1 := fmt.isLt
    have h2 := d.isLt
    have h3 := a.isLt
    have h4 := b.isLt
    have h5 := k.isLt
    exact word_bits h (by omega) (by omega)
theorem WordBits.vcle (sl : VSlot) (fmt : BitVec 4) (d a b : BitVec 5) (k : BitVec 2) : WordBits.Statement (.vcle sl fmt d a b k) :=
  fun _ h => by
    have h0 := vslot_code sl
    have h1 := fmt.isLt
    have h2 := d.isLt
    have h3 := a.isLt
    have h4 := b.isLt
    have h5 := k.isLt
    exact word_bits h (by omega) (by omega)
theorem WordBits.vcun (sl : VSlot) (fmt : BitVec 4) (d a b : BitVec 5) (k : BitVec 2) : WordBits.Statement (.vcun sl fmt d a b k) :=
  fun _ h => by
    have h0 := vslot_code sl
    have h1 := fmt.isLt
    have h2 := d.isLt
    have h3 := a.isLt
    have h4 := b.isLt
    have h5 := k.isLt
    exact word_bits h (by omega) (by omega)
theorem WordBits.kand (sl : VSlot) (d a b : BitVec 5) : WordBits.Statement (.kand sl d a b) :=
  fun _ h => by
    have h0 := vslot_code sl
    have h1 := d.isLt
    have h2 := a.isLt
    have h3 := b.isLt
    exact word_bits h (by omega) (by omega)
theorem WordBits.kor (sl : VSlot) (d a b : BitVec 5) : WordBits.Statement (.kor sl d a b) :=
  fun _ h => by
    have h0 := vslot_code sl
    have h1 := d.isLt
    have h2 := a.isLt
    have h3 := b.isLt
    exact word_bits h (by omega) (by omega)
theorem WordBits.kxor (sl : VSlot) (d a b : BitVec 5) : WordBits.Statement (.kxor sl d a b) :=
  fun _ h => by
    have h0 := vslot_code sl
    have h1 := d.isLt
    have h2 := a.isLt
    have h3 := b.isLt
    exact word_bits h (by omega) (by omega)
theorem WordBits.knot (sl : VSlot) (d a : BitVec 5) : WordBits.Statement (.knot sl d a) :=
  fun _ h => by
    have h0 := vslot_code sl
    have h1 := d.isLt
    have h2 := a.isLt
    exact word_bits h (by omega) (by omega)
theorem WordBits.vsel (sl : VSlot) (d a b : BitVec 5) (k : BitVec 2) : WordBits.Statement (.vsel sl d a b k) :=
  fun _ h => by
    have h0 := vslot_code sl
    have h1 := d.isLt
    have h2 := a.isLt
    have h3 := b.isLt
    have h4 := k.isLt
    exact word_bits h (by omega) (by omega)
theorem WordBits.vmov (sl : VSlot) (d a : BitVec 5) (k : BitVec 2) : WordBits.Statement (.vmov sl d a k) :=
  fun _ h => by
    have h0 := vslot_code sl
    have h1 := d.isLt
    have h2 := a.isLt
    have h3 := k.isLt
    exact word_bits h (by omega) (by omega)
theorem WordBits.vget (sl : VSlot) (d : BitVec 5) (file : BitVec 3) (idx : BitVec 6) (lane : BitVec 5) : WordBits.Statement (.vget sl d file idx lane) :=
  fun _ h => by
    have h0 := vslot_code sl
    have h1 := d.isLt
    have h2 := file.isLt
    have h3 := idx.isLt
    have h4 := lane.isLt
    exact word_bits h (by omega) (by omega)
theorem WordBits.viota (sl : VSlot) (fmt : BitVec 4) (d : BitVec 5) (k : BitVec 2) : WordBits.Statement (.viota sl fmt d k) :=
  fun _ h => by
    have h0 := vslot_code sl
    have h1 := fmt.isLt
    have h2 := d.isLt
    have h3 := k.isLt
    exact word_bits h (by omega) (by omega)
theorem WordBits.vlane (sl : VSlot) (fmt : BitVec 4) (d a b : BitVec 5) (k : BitVec 2) : WordBits.Statement (.vlane sl fmt d a b k) :=
  fun _ h => by
    have h0 := vslot_code sl
    have h1 := fmt.isLt
    have h2 := d.isLt
    have h3 := a.isLt
    have h4 := b.isLt
    have h5 := k.isLt
    exact word_bits h (by omega) (by omega)
theorem WordBits.vradd (sl : VSlot) (fmt : BitVec 4) (d a : BitVec 5) (k : BitVec 2) : WordBits.Statement (.vradd sl fmt d a k) :=
  fun _ h => by
    have h0 := vslot_code sl
    have h1 := fmt.isLt
    have h2 := d.isLt
    have h3 := a.isLt
    have h4 := k.isLt
    exact word_bits h (by omega) (by omega)
theorem WordBits.vrmax (sl : VSlot) (fmt : BitVec 4) (d a : BitVec 5) (k : BitVec 2) : WordBits.Statement (.vrmax sl fmt d a k) :=
  fun _ h => by
    have h0 := vslot_code sl
    have h1 := fmt.isLt
    have h2 := d.isLt
    have h3 := a.isLt
    have h4 := k.isLt
    exact word_bits h (by omega) (by omega)
theorem WordBits.vrmin (sl : VSlot) (fmt : BitVec 4) (d a : BitVec 5) (k : BitVec 2) : WordBits.Statement (.vrmin sl fmt d a k) :=
  fun _ h => by
    have h0 := vslot_code sl
    have h1 := fmt.isLt
    have h2 := d.isLt
    have h3 := a.isLt
    have h4 := k.isLt
    exact word_bits h (by omega) (by omega)
theorem WordBits.vrarg (sl : VSlot) (fmt : BitVec 4) (d a : BitVec 5) (k : BitVec 2) : WordBits.Statement (.vrarg sl fmt d a k) :=
  fun _ h => by
    have h0 := vslot_code sl
    have h1 := fmt.isLt
    have h2 := d.isLt
    have h3 := a.isLt
    have h4 := k.isLt
    exact word_bits h (by omega) (by omega)
theorem WordBits.vcvt (sl : VSlot) (fd : BitVec 4) (d a : BitVec 5) (fs : BitVec 4) (rnd : BitVec 2) (sat : BitVec 1) : WordBits.Statement (.vcvt sl fd d a fs rnd sat) :=
  fun _ h => by
    have h0 := vslot_code sl
    have h1 := fd.isLt
    have h2 := d.isLt
    have h3 := a.isLt
    have h4 := fs.isLt
    have h5 := rnd.isLt
    have h6 := sat.isLt
    exact word_bits h (by omega) (by omega)
theorem WordBits.vdefer (sl : VSlot) (cnt a b : BitVec 5) (k : BitVec 2) : WordBits.Statement (.vdefer sl cnt a b k) :=
  fun _ h => by
    have h0 := vslot_code sl
    have h1 := cnt.isLt
    have h2 := a.isLt
    have h3 := b.isLt
    have h4 := k.isLt
    exact word_bits h (by omega) (by omega)
theorem WordBits.vdrain (sl : VSlot) (d o : BitVec 5) (km : BitVec 2) : WordBits.Statement (.vdrain sl d o km) :=
  fun _ h => by
    have h0 := vslot_code sl
    have h1 := d.isLt
    have h2 := o.isLt
    have h3 := km.isLt
    exact word_bits h (by omega) (by omega)
theorem WordBits.vpush (sl : VSlot) (w : BitVec 2) (a : BitVec 5) : WordBits.Statement (.vpush sl w a) :=
  fun _ h => by
    have h0 := vslot_code sl
    have h1 := w.isLt
    have h2 := a.isLt
    exact word_bits h (by omega) (by omega)
theorem WordBits.vspill (sl : VSlot) (id : BitVec 8) (a : BitVec 5) : WordBits.Statement (.vspill sl id a) :=
  fun _ h => by
    have h0 := vslot_code sl
    have h1 := id.isLt
    have h2 := a.isLt
    exact word_bits h (by omega) (by omega)
theorem WordBits.vfill (sl : VSlot) (d : BitVec 5) (id : BitVec 8) : WordBits.Statement (.vfill sl d id) :=
  fun _ h => by
    have h0 := vslot_code sl
    have h1 := d.isLt
    have h2 := id.isLt
    exact word_bits h (by omega) (by omega)
theorem WordBits.mnop : WordBits.Statement .mnop := fun _ h => word_bits h (by decide) (by decide)
theorem WordBits.mcall (routine : BitVec 10) (nocorr limc e5 : BitVec 1) (ceil start : BitVec 2) : WordBits.Statement (.mcall routine nocorr limc e5 ceil start) :=
  fun _ h => by
    have h0 := routine.isLt
    have h1 := nocorr.isLt
    have h2 := limc.isLt
    have h3 := e5.isLt
    have h4 := ceil.isLt
    have h5 := start.isLt
    exact word_bits h (by omega) (by omega)
theorem WordBits.mset (p : BitVec 3) (imm : BitVec 19) : WordBits.Statement (.mset p imm) :=
  fun _ h => by
    have h0 := p.isLt
    have h1 := imm.isLt
    exact word_bits h (by omega) (by omega)
theorem WordBits.mseth : WordBits.Statement .mseth := fun _ h => word_bits h (by decide) (by decide)
theorem WordBits.mget (p : BitVec 3) (a : BitVec 6) : WordBits.Statement (.mget p a) :=
  fun _ h => by
    have h0 := p.isLt
    have h1 := a.isLt
    exact word_bits h (by omega) (by omega)
theorem WordBits.mabort : WordBits.Statement .mabort := fun _ h => word_bits h (by decide) (by decide)
theorem WordBits.cnop (sl : CSlot) : WordBits.Statement (.cnop sl) :=
  fun _ h => by
    have h0 := cslot_code sl
    exact word_bits h (by omega) (by omega)
theorem WordBits.ldi8 (sl : CSlot) (base : BitVec 4) (q : BitVec 3) (disp : BitVec 14) : WordBits.Statement (.ldi8 sl base q disp) :=
  fun _ h => by
    have h0 := cslot_code sl
    have h1 := base.isLt
    have h2 := q.isLt
    have h3 := disp.isLt
    exact word_bits h (by omega) (by omega)
theorem WordBits.ldn8 (sl : CSlot) (base : BitVec 4) (q : BitVec 3) (disp : BitVec 14) : WordBits.Statement (.ldn8 sl base q disp) :=
  fun _ h => by
    have h0 := cslot_code sl
    have h1 := base.isLt
    have h2 := q.isLt
    have h3 := disp.isLt
    exact word_bits h (by omega) (by omega)
theorem WordBits.ldi16 (sl : CSlot) (base : BitVec 4) (q : BitVec 3) (disp : BitVec 14) : WordBits.Statement (.ldi16 sl base q disp) :=
  fun _ h => by
    have h0 := cslot_code sl
    have h1 := base.isLt
    have h2 := q.isLt
    have h3 := disp.isLt
    exact word_bits h (by omega) (by omega)
theorem WordBits.ldn16 (sl : CSlot) (base : BitVec 4) (q : BitVec 3) (disp : BitVec 14) : WordBits.Statement (.ldn16 sl base q disp) :=
  fun _ h => by
    have h0 := cslot_code sl
    have h1 := base.isLt
    have h2 := q.isLt
    have h3 := disp.isLt
    exact word_bits h (by omega) (by omega)
theorem WordBits.ldi32 (sl : CSlot) (base : BitVec 4) (q : BitVec 3) (disp : BitVec 14) : WordBits.Statement (.ldi32 sl base q disp) :=
  fun _ h => by
    have h0 := cslot_code sl
    have h1 := base.isLt
    have h2 := q.isLt
    have h3 := disp.isLt
    exact word_bits h (by omega) (by omega)
theorem WordBits.ldn32 (sl : CSlot) (base : BitVec 4) (q : BitVec 3) (disp : BitVec 14) : WordBits.Statement (.ldn32 sl base q disp) :=
  fun _ h => by
    have h0 := cslot_code sl
    have h1 := base.isLt
    have h2 := q.isLt
    have h3 := disp.isLt
    exact word_bits h (by omega) (by omega)
theorem WordBits.ld64 (sl : CSlot) (base : BitVec 4) (q : BitVec 3) (disp : BitVec 14) : WordBits.Statement (.ld64 sl base q disp) :=
  fun _ h => by
    have h0 := cslot_code sl
    have h1 := base.isLt
    have h2 := q.isLt
    have h3 := disp.isLt
    exact word_bits h (by omega) (by omega)
theorem WordBits.vld (sl : CSlot) (base : BitVec 4) (q : BitVec 3) (disp : BitVec 14) : WordBits.Statement (.vld sl base q disp) :=
  fun _ h => by
    have h0 := cslot_code sl
    have h1 := base.isLt
    have h2 := q.isLt
    have h3 := disp.isLt
    exact word_bits h (by omega) (by omega)
theorem WordBits.vldg (sl : CSlot) (base : BitVec 4) (q : BitVec 3) (w sc : BitVec 2) : WordBits.Statement (.vldg sl base q w sc) :=
  fun _ h => by
    have h0 := cslot_code sl
    have h1 := base.isLt
    have h2 := q.isLt
    have h3 := w.isLt
    have h4 := sc.isLt
    exact word_bits h (by omega) (by omega)
theorem WordBits.vlds (sl : CSlot) (base a : BitVec 4) (q : BitVec 3) : WordBits.Statement (.vlds sl base a q) :=
  fun _ h => by
    have h0 := cslot_code sl
    have h1 := base.isLt
    have h2 := a.isLt
    have h3 := q.isLt
    exact word_bits h (by omega) (by omega)
theorem WordBits.st8 (sl : CSlot) (base : BitVec 4) (w : BitVec 3) (disp : BitVec 14) : WordBits.Statement (.st8 sl base w disp) :=
  fun _ h => by
    have h0 := cslot_code sl
    have h1 := base.isLt
    have h2 := w.isLt
    have h3 := disp.isLt
    exact word_bits h (by omega) (by omega)
theorem WordBits.st16 (sl : CSlot) (base : BitVec 4) (w : BitVec 3) (disp : BitVec 14) : WordBits.Statement (.st16 sl base w disp) :=
  fun _ h => by
    have h0 := cslot_code sl
    have h1 := base.isLt
    have h2 := w.isLt
    have h3 := disp.isLt
    exact word_bits h (by omega) (by omega)
theorem WordBits.st32 (sl : CSlot) (base : BitVec 4) (w : BitVec 3) (disp : BitVec 14) : WordBits.Statement (.st32 sl base w disp) :=
  fun _ h => by
    have h0 := cslot_code sl
    have h1 := base.isLt
    have h2 := w.isLt
    have h3 := disp.isLt
    exact word_bits h (by omega) (by omega)
theorem WordBits.st64 (sl : CSlot) (base : BitVec 4) (w : BitVec 3) (disp : BitVec 14) : WordBits.Statement (.st64 sl base w disp) :=
  fun _ h => by
    have h0 := cslot_code sl
    have h1 := base.isLt
    have h2 := w.isLt
    have h3 := disp.isLt
    exact word_bits h (by omega) (by omega)
theorem WordBits.vst (sl : CSlot) (base : BitVec 4) (w : BitVec 3) (disp : BitVec 14) : WordBits.Statement (.vst sl base w disp) :=
  fun _ h => by
    have h0 := cslot_code sl
    have h1 := base.isLt
    have h2 := w.isLt
    have h3 := disp.isLt
    exact word_bits h (by omega) (by omega)
theorem WordBits.vsts (sl : CSlot) (base a : BitVec 4) (w : BitVec 2) : WordBits.Statement (.vsts sl base a w) :=
  fun _ h => by
    have h0 := cslot_code sl
    have h1 := base.isLt
    have h2 := a.isLt
    have h3 := w.isLt
    exact word_bits h (by omega) (by omega)
theorem WordBits.vstm (sl : CSlot) (base : BitVec 4) (wd wi sc : BitVec 2) : WordBits.Statement (.vstm sl base wd wi sc) :=
  fun _ h => by
    have h0 := cslot_code sl
    have h1 := base.isLt
    have h2 := wd.isLt
    have h3 := wi.isLt
    have h4 := sc.isLt
    exact word_bits h (by omega) (by omega)
theorem WordBits.aadd (sl : CSlot) (base : BitVec 4) (q scope : BitVec 3) (order : BitVec 2) (disp : BitVec 9) : WordBits.Statement (.aadd sl base q scope order disp) :=
  fun _ h => by
    have h0 := cslot_code sl
    have h1 := base.isLt
    have h2 := q.isLt
    have h3 := scope.isLt
    have h4 := order.isLt
    have h5 := disp.isLt
    exact word_bits h (by omega) (by omega)
theorem WordBits.amin (sl : CSlot) (base : BitVec 4) (q scope : BitVec 3) (order : BitVec 2) (disp : BitVec 9) : WordBits.Statement (.amin sl base q scope order disp) :=
  fun _ h => by
    have h0 := cslot_code sl
    have h1 := base.isLt
    have h2 := q.isLt
    have h3 := scope.isLt
    have h4 := order.isLt
    have h5 := disp.isLt
    exact word_bits h (by omega) (by omega)
theorem WordBits.amax (sl : CSlot) (base : BitVec 4) (q scope : BitVec 3) (order : BitVec 2) (disp : BitVec 9) : WordBits.Statement (.amax sl base q scope order disp) :=
  fun _ h => by
    have h0 := cslot_code sl
    have h1 := base.isLt
    have h2 := q.isLt
    have h3 := scope.isLt
    have h4 := order.isLt
    have h5 := disp.isLt
    exact word_bits h (by omega) (by omega)
theorem WordBits.aand (sl : CSlot) (base : BitVec 4) (q scope : BitVec 3) (order : BitVec 2) (disp : BitVec 9) : WordBits.Statement (.aand sl base q scope order disp) :=
  fun _ h => by
    have h0 := cslot_code sl
    have h1 := base.isLt
    have h2 := q.isLt
    have h3 := scope.isLt
    have h4 := order.isLt
    have h5 := disp.isLt
    exact word_bits h (by omega) (by omega)
theorem WordBits.aor (sl : CSlot) (base : BitVec 4) (q scope : BitVec 3) (order : BitVec 2) (disp : BitVec 9) : WordBits.Statement (.aor sl base q scope order disp) :=
  fun _ h => by
    have h0 := cslot_code sl
    have h1 := base.isLt
    have h2 := q.isLt
    have h3 := scope.isLt
    have h4 := order.isLt
    have h5 := disp.isLt
    exact word_bits h (by omega) (by omega)
theorem WordBits.axch (sl : CSlot) (base : BitVec 4) (q scope : BitVec 3) (order : BitVec 2) (disp : BitVec 9) : WordBits.Statement (.axch sl base q scope order disp) :=
  fun _ h => by
    have h0 := cslot_code sl
    have h1 := base.isLt
    have h2 := q.isLt
    have h3 := scope.isLt
    have h4 := order.isLt
    have h5 := disp.isLt
    exact word_bits h (by omega) (by omega)
theorem WordBits.acas (sl : CSlot) (base : BitVec 4) (q scope : BitVec 3) (order : BitVec 2) (disp : BitVec 9) : WordBits.Statement (.acas sl base q scope order disp) :=
  fun _ h => by
    have h0 := cslot_code sl
    have h1 := base.isLt
    have h2 := q.isLt
    have h3 := scope.isLt
    have h4 := order.isLt
    have h5 := disp.isLt
    exact word_bits h (by omega) (by omega)
theorem WordBits.afadd (sl : CSlot) (base : BitVec 4) (q scope : BitVec 3) (order : BitVec 2) (disp : BitVec 9) : WordBits.Statement (.afadd sl base q scope order disp) :=
  fun _ h => by
    have h0 := cslot_code sl
    have h1 := base.isLt
    have h2 := q.isLt
    have h3 := scope.isLt
    have h4 := order.isLt
    have h5 := disp.isLt
    exact word_bits h (by omega) (by omega)
theorem WordBits.aminn (sl : CSlot) (base : BitVec 4) (q scope : BitVec 3) (order : BitVec 2) (disp : BitVec 9) : WordBits.Statement (.aminn sl base q scope order disp) :=
  fun _ h => by
    have h0 := cslot_code sl
    have h1 := base.isLt
    have h2 := q.isLt
    have h3 := scope.isLt
    have h4 := order.isLt
    have h5 := disp.isLt
    exact word_bits h (by omega) (by omega)
theorem WordBits.amaxn (sl : CSlot) (base : BitVec 4) (q scope : BitVec 3) (order : BitVec 2) (disp : BitVec 9) : WordBits.Statement (.amaxn sl base q scope order disp) :=
  fun _ h => by
    have h0 := cslot_code sl
    have h1 := base.isLt
    have h2 := q.isLt
    have h3 := scope.isLt
    have h4 := order.isLt
    have h5 := disp.isLt
    exact word_bits h (by omega) (by omega)
theorem WordBits.fence (sl : CSlot) (scope : BitVec 3) (order : BitVec 2) : WordBits.Statement (.fence sl scope order) :=
  fun _ h => by
    have h0 := cslot_code sl
    have h1 := scope.isLt
    have h2 := order.isLt
    exact word_bits h (by omega) (by omega)
theorem WordBits.fencex (sl : CSlot) (from_ to_ scope : BitVec 3) : WordBits.Statement (.fencex sl from_ to_ scope) :=
  fun _ h => by
    have h0 := cslot_code sl
    have h1 := from_.isLt
    have h2 := to_.isLt
    have h3 := scope.isLt
    exact word_bits h (by omega) (by omega)
theorem WordBits.pbar (sl : CSlot) : WordBits.Statement (.pbar sl) :=
  fun _ h => by
    have h0 := cslot_code sl
    exact word_bits h (by omega) (by omega)
theorem WordBits.tloadSlot (sl : CSlot) (base a : BitVec 4) (slot : BitVec 8) (pitched : BitVec 1) : WordBits.Statement (.tloadSlot sl base a slot pitched) :=
  fun _ h => by
    have h0 := cslot_code sl
    have h1 := base.isLt
    have h2 := a.isLt
    have h3 := slot.isLt
    have h4 := pitched.isLt
    exact word_bits h (by omega) (by omega)
theorem WordBits.tloadRing (sl : CSlot) (base a : BitVec 4) (ring : BitVec 3) (pitched : BitVec 1) : WordBits.Statement (.tloadRing sl base a ring pitched) :=
  fun _ h => by
    have h0 := cslot_code sl
    have h1 := base.isLt
    have h2 := a.isLt
    have h3 := ring.isLt
    have h4 := pitched.isLt
    exact word_bits h (by omega) (by omega)
theorem WordBits.rpush (sl : CSlot) (slot : BitVec 8) (ring : BitVec 3) : WordBits.Statement (.rpush sl slot ring) :=
  fun _ h => by
    have h0 := cslot_code sl
    have h1 := slot.isLt
    have h2 := ring.isLt
    exact word_bits h (by omega) (by omega)
theorem WordBits.tstore (sl : CSlot) (base a : BitVec 4) (slot : BitVec 8) (pitched : BitVec 1) : WordBits.Statement (.tstore sl base a slot pitched) :=
  fun _ h => by
    have h0 := cslot_code sl
    have h1 := base.isLt
    have h2 := a.isLt
    have h3 := slot.isLt
    have h4 := pitched.isLt
    exact word_bits h (by omega) (by omega)
theorem WordBits.tstoreDur (sl : CSlot) (base a : BitVec 4) (slot : BitVec 8) (pitched : BitVec 1) : WordBits.Statement (.tstoreDur sl base a slot pitched) :=
  fun _ h => by
    have h0 := cslot_code sl
    have h1 := base.isLt
    have h2 := a.isLt
    have h3 := slot.isLt
    have h4 := pitched.isLt
    exact word_bits h (by omega) (by omega)
theorem WordBits.ttrn (sl : CSlot) (base : BitVec 4) (slot : BitVec 8) : WordBits.Statement (.ttrn sl base slot) :=
  fun _ h => by
    have h0 := cslot_code sl
    have h1 := base.isLt
    have h2 := slot.isLt
    exact word_bits h (by omega) (by omega)
theorem WordBits.tcvt (sl : CSlot) (base : BitVec 4) (slot : BitVec 8) (rnd : BitVec 2) : WordBits.Statement (.tcvt sl base slot rnd) :=
  fun _ h => by
    have h0 := cslot_code sl
    have h1 := base.isLt
    have h2 := slot.isLt
    have h3 := rnd.isLt
    exact word_bits h (by omega) (by omega)
theorem WordBits.tzero (sl : CSlot) (slot : BitVec 8) : WordBits.Statement (.tzero sl slot) :=
  fun _ h => by
    have h0 := cslot_code sl
    have h1 := slot.isLt
    exact word_bits h (by omega) (by omega)
theorem WordBits.tfree (sl : CSlot) (slot : BitVec 8) : WordBits.Statement (.tfree sl slot) :=
  fun _ h => by
    have h0 := cslot_code sl
    have h1 := slot.isLt
    exact word_bits h (by omega) (by omega)
theorem WordBits.tgath (sl : CSlot) (base a : BitVec 4) (slot : BitVec 8) (w : BitVec 2) : WordBits.Statement (.tgath sl base a slot w) :=
  fun _ h => by
    have h0 := cslot_code sl
    have h1 := base.isLt
    have h2 := a.isLt
    have h3 := slot.isLt
    have h4 := w.isLt
    exact word_bits h (by omega) (by omega)
theorem WordBits.wget (sl : CSlot) (base a : BitVec 4) (n : BitVec 12) : WordBits.Statement (.wget sl base a n) :=
  fun _ h => by
    have h0 := cslot_code sl
    have h1 := base.isLt
    have h2 := a.isLt
    have h3 := n.isLt
    exact word_bits h (by omega) (by omega)
theorem WordBits.wput (sl : CSlot) (base a : BitVec 4) (n : BitVec 12) : WordBits.Statement (.wput sl base a n) :=
  fun _ h => by
    have h0 := cslot_code sl
    have h1 := base.isLt
    have h2 := a.isLt
    have h3 := n.isLt
    exact word_bits h (by omega) (by omega)
theorem WordBits.wadd (sl : CSlot) (base a : BitVec 4) (n : BitVec 12) (int : BitVec 1) : WordBits.Statement (.wadd sl base a n int) :=
  fun _ h => by
    have h0 := cslot_code sl
    have h1 := base.isLt
    have h2 := a.isLt
    have h3 := n.isLt
    have h4 := int.isLt
    exact word_bits h (by omega) (by omega)
theorem WordBits.coll (sl : CSlot) (base : BitVec 4) (op : BitVec 3) : WordBits.Statement (.coll sl base op) :=
  fun _ h => by
    have h0 := cslot_code sl
    have h1 := base.isLt
    have h2 := op.isLt
    exact word_bits h (by omega) (by omega)
theorem WordBits.smap (sl : CSlot) (base a : BitVec 4) (n : BitVec 8) : WordBits.Statement (.smap sl base a n) :=
  fun _ h => by
    have h0 := cslot_code sl
    have h1 := base.isLt
    have h2 := a.isLt
    have h3 := n.isLt
    exact word_bits h (by omega) (by omega)
theorem WordBits.swb (sl : CSlot) (base : BitVec 4) (n : BitVec 8) : WordBits.Statement (.swb sl base n) :=
  fun _ h => by
    have h0 := cslot_code sl
    have h1 := base.isLt
    have h2 := n.isLt
    exact word_bits h (by omega) (by omega)
theorem WordBits.sinv (sl : CSlot) (base : BitVec 4) (n : BitVec 8) (discard : BitVec 1) : WordBits.Statement (.sinv sl base n discard) :=
  fun _ h => by
    have h0 := cslot_code sl
    have h1 := base.isLt
    have h2 := n.isLt
    have h3 := discard.isLt
    exact word_bits h (by omega) (by omega)
theorem WordBits.pref (sl : CSlot) (base : BitVec 4) (disp : BitVec 14) : WordBits.Statement (.pref sl base disp) :=
  fun _ h => by
    have h0 := cslot_code sl
    have h1 := base.isLt
    have h2 := disp.isLt
    exact word_bits h (by omega) (by omega)
theorem WordBits.enq (sl : CSlot) (base : BitVec 4) (q : BitVec 3) (lq : BitVec 6) : WordBits.Statement (.enq sl base q lq) :=
  fun _ h => by
    have h0 := cslot_code sl
    have h1 := base.isLt
    have h2 := q.isLt
    have h3 := lq.isLt
    exact word_bits h (by omega) (by omega)
theorem WordBits.cancel (sl : CSlot) (base : BitVec 4) (level : BitVec 3) : WordBits.Statement (.cancel sl base level) :=
  fun _ h => by
    have h0 := cslot_code sl
    have h1 := base.isLt
    have h2 := level.isLt
    exact word_bits h (by omega) (by omega)
theorem WordBits.cnt (sl : CSlot) (base : BitVec 4) (q level : BitVec 3) (kind : BitVec 1) : WordBits.Statement (.cnt sl base q level kind) :=
  fun _ h => by
    have h0 := cslot_code sl
    have h1 := base.isLt
    have h2 := q.isLt
    have h3 := level.isLt
    have h4 := kind.isLt
    exact word_bits h (by omega) (by omega)
theorem WordBits.cli (sl : CSlot) (d a : BitVec 4) (imm : BitVec 13) : WordBits.Statement (.cli sl d a imm) :=
  fun _ h => by
    have h0 := cslot_code sl
    have h1 := d.isLt
    have h2 := a.isLt
    have h3 := imm.isLt
    exact word_bits h (by omega) (by omega)
theorem WordBits.cadd (sl : CSlot) (d a : BitVec 4) (imm : BitVec 13) : WordBits.Statement (.cadd sl d a imm) :=
  fun _ h => by
    have h0 := cslot_code sl
    have h1 := d.isLt
    have h2 := a.isLt
    have h3 := imm.isLt
    exact word_bits h (by omega) (by omega)
theorem WordBits.cget (sl : CSlot) (d : BitVec 4) (file : BitVec 3) (idx : BitVec 6) (lane : BitVec 4) : WordBits.Statement (.cget sl d file idx lane) :=
  fun _ h => by
    have h0 := cslot_code sl
    have h1 := d.isLt
    have h2 := file.isLt
    have h3 := idx.isLt
    have h4 := lane.isLt
    exact word_bits h (by omega) (by omega)
theorem WordBits.cstr (sl : CSlot) (d : BitVec 4) (level : BitVec 3) (sreg : BitVec 6) : WordBits.Statement (.cstr sl d level sreg) :=
  fun _ h => by
    have h0 := cslot_code sl
    have h1 := d.isLt
    have h2 := level.isLt
    have h3 := sreg.isLt
    exact word_bits h (by omega) (by omega)
theorem WordBits.xnop : WordBits.Statement .xnop := fun _ h => word_bits h (by decide) (by decide)
theorem WordBits.xget (d : BitVec 4) (file : BitVec 3) (idx : BitVec 6) (lane : BitVec 4) : WordBits.Statement (.xget d file idx lane) :=
  fun _ h => by
    have h0 := d.isLt
    have h1 := file.isLt
    have h2 := idx.isLt
    have h3 := lane.isLt
    exact word_bits h (by omega) (by omega)
theorem WordBits.xmov (fmt d a b : BitVec 4) : WordBits.Statement (.xmov fmt d a b) :=
  fun _ h => by
    have h0 := fmt.isLt
    have h1 := d.isLt
    have h2 := a.isLt
    have h3 := b.isLt
    exact word_bits h (by omega) (by omega)
theorem WordBits.xpack (fmt d a b e : BitVec 4) (rnd : BitVec 2) : WordBits.Statement (.xpack fmt d a b e rnd) :=
  fun _ h => by
    have h0 := fmt.isLt
    have h1 := d.isLt
    have h2 := a.isLt
    have h3 := b.isLt
    have h4 := e.isLt
    have h5 := rnd.isLt
    exact word_bits h (by omega) (by omega)
theorem WordBits.xunpk (fmt d a b e : BitVec 4) : WordBits.Statement (.xunpk fmt d a b e) :=
  fun _ h => by
    have h0 := fmt.isLt
    have h1 := d.isLt
    have h2 := a.isLt
    have h3 := b.isLt
    have h4 := e.isLt
    exact word_bits h (by omega) (by omega)
theorem WordBits.xscal (fmt d a b e : BitVec 4) (rnd : BitVec 2) : WordBits.Statement (.xscal fmt d a b e rnd) :=
  fun _ h => by
    have h0 := fmt.isLt
    have h1 := d.isLt
    have h2 := a.isLt
    have h3 := b.isLt
    have h4 := e.isLt
    have h5 := rnd.isLt
    exact word_bits h (by omega) (by omega)
theorem WordBits.xmxs (fmt a b e : BitVec 4) : WordBits.Statement (.xmxs fmt a b e) :=
  fun _ h => by
    have h0 := fmt.isLt
    have h1 := a.isLt
    have h2 := b.isLt
    have h3 := e.isLt
    exact word_bits h (by omega) (by omega)
theorem WordBits.xshuf (fmt d a b : BitVec 4) : WordBits.Statement (.xshuf fmt d a b) :=
  fun _ h => by
    have h0 := fmt.isLt
    have h1 := d.isLt
    have h2 := a.isLt
    have h3 := b.isLt
    exact word_bits h (by omega) (by omega)
theorem WordBits.xrot (fmt d a b : BitVec 4) : WordBits.Statement (.xrot fmt d a b) :=
  fun _ h => by
    have h0 := fmt.isLt
    have h1 := d.isLt
    have h2 := a.isLt
    have h3 := b.isLt
    exact word_bits h (by omega) (by omega)
theorem WordBits.xzip (fmt d a b : BitVec 4) : WordBits.Statement (.xzip fmt d a b) :=
  fun _ h => by
    have h0 := fmt.isLt
    have h1 := d.isLt
    have h2 := a.isLt
    have h3 := b.isLt
    exact word_bits h (by omega) (by omega)
theorem WordBits.xuzp (fmt d a b : BitVec 4) : WordBits.Statement (.xuzp fmt d a b) :=
  fun _ h => by
    have h0 := fmt.isLt
    have h1 := d.isLt
    have h2 := a.isLt
    have h3 := b.isLt
    exact word_bits h (by omega) (by omega)
theorem WordBits.xlsc (e x : BitVec 4) (imm : BitVec 14) : WordBits.Statement (.xlsc e x imm) :=
  fun _ h => by
    have h0 := e.isLt
    have h1 := x.isLt
    have h2 := imm.isLt
    exact word_bits h (by omega) (by omega)
theorem WordBits.xssc (e x : BitVec 4) (imm : BitVec 14) : WordBits.Statement (.xssc e x imm) :=
  fun _ h => by
    have h0 := e.isLt
    have h1 := x.isLt
    have h2 := imm.isLt
    exact word_bits h (by omega) (by omega)
theorem WordBits.barInit (id : BitVec 11) (scope : BitVec 3) (a : BitVec 4) : WordBits.Statement (.barInit id scope a) :=
  fun _ h => by
    have h0 := id.isLt
    have h1 := scope.isLt
    have h2 := a.isLt
    exact word_bits h (by omega) (by omega)
theorem WordBits.barArr (id : BitVec 11) (scope : BitVec 3) : WordBits.Statement (.barArr id scope) :=
  fun _ h => by
    have h0 := id.isLt
    have h1 := scope.isLt
    exact word_bits h (by omega) (by omega)
theorem WordBits.barWait (id : BitVec 11) (scope : BitVec 3) : WordBits.Statement (.barWait id scope) :=
  fun _ h => by
    have h0 := id.isLt
    have h1 := scope.isLt
    exact word_bits h (by omega) (by omega)
theorem WordBits.barTst (id : BitVec 11) (scope q : BitVec 3) : WordBits.Statement (.barTst id scope q) :=
  fun _ h => by
    have h0 := id.isLt
    have h1 := scope.isLt
    have h2 := q.isLt
    exact word_bits h (by omega) (by omega)
theorem WordBits.spawn (t : BitVec 3) (a b : BitVec 4) : WordBits.Statement (.spawn t a b) :=
  fun _ h => by
    have h0 := t.isLt
    have h1 := a.isLt
    have h2 := b.isLt
    exact word_bits h (by omega) (by omega)
theorem WordBits.yield : WordBits.Statement .yield := fun _ h => word_bits h (by decide) (by decide)
theorem WordBits.microwordMnop : WordBits.Statement .microwordMnop := fun _ h => nomatch h
theorem WordBits.mldw (src : BitVec 9) (sp : BitVec 1) (metaSlot : BitVec 8) : WordBits.Statement (.mldw src sp metaSlot) := fun _ h => nomatch h
theorem WordBits.mswp : WordBits.Statement .mswp := fun _ h => nomatch h
theorem WordBits.mstrm (src : BitVec 9) (tiles : BitVec 3) (blk : BitVec 4) (pop : BitVec 1) : WordBits.Statement (.mstrm src tiles blk pop) := fun _ h => nomatch h
theorem WordBits.mmv (vec : BitVec 8) (nv pa : BitVec 3) (cnt : BitVec 8) (blk wfmt : BitVec 4) (gl : BitVec 1) : WordBits.Statement (.mmv vec nv pa cnt blk wfmt gl) := fun _ h => nomatch h
theorem WordBits.mdrn (blk : BitVec 4) (dst : BitVec 9) (rnd : BitVec 2) (clr : BitVec 1) : WordBits.Statement (.mdrn blk dst rnd clr) := fun _ h => nomatch h
theorem WordBits.mclr (blk nb : BitVec 4) : WordBits.Statement (.mclr blk nb) := fun _ h => nomatch h
theorem WordBits.mloop (pc : BitVec 3) (im : BitVec 1) (cnt : BitVec 16) : WordBits.Statement (.mloop pc im cnt) := fun _ h => nomatch h
theorem WordBits.mend : WordBits.Statement .mend := fun _ h => nomatch h
theorem WordBits.mpop (src : BitVec 9) (n : BitVec 4) : WordBits.Statement (.mpop src n) := fun _ h => nomatch h
theorem WordBits.mbud (pb : BitVec 3) : WordBits.Statement (.mbud pb) := fun _ h => nomatch h
theorem WordBits.mchk (nc : BitVec 1) : WordBits.Statement (.mchk nc) := fun _ h => nomatch h
theorem WordBits.mret : WordBits.Statement .mret := fun _ h => nomatch h
theorem WordBits.mwt : WordBits.Statement .mwt := fun _ h => nomatch h
theorem WordBits.mlad (st cl : BitVec 2) (e5 lc : BitVec 1) : WordBits.Statement (.mlad st cl e5 lc) := fun _ h => nomatch h
theorem WordBits.callStart (core : Nat) : WordBits.Statement (.callStart core) := fun _ h => nomatch h
theorem WordBits.streamStepDecision (core : Nat) : WordBits.Statement (.streamStepDecision core) := fun _ h => nomatch h
theorem WordBits.planeLoadComplete (core : Nat) : WordBits.Statement (.planeLoadComplete core) := fun _ h => nomatch h
theorem WordBits.drainComplete (core : Nat) : WordBits.Statement (.drainComplete core) := fun _ h => nomatch h
theorem WordBits.callEnd (core : Nat) : WordBits.Statement (.callEnd core) := fun _ h => nomatch h
theorem WordBits.loadQueueArrival (id : Nat) : WordBits.Statement (.loadQueueArrival id) := fun _ h => nomatch h
theorem WordBits.storeCompletion (id : Nat) : WordBits.Statement (.storeCompletion id) := fun _ h => nomatch h
theorem WordBits.writeStagePass (id : Nat) : WordBits.Statement (.writeStagePass id) := fun _ h => nomatch h
theorem WordBits.crossDieApply (id die : Nat) : WordBits.Statement (.crossDieApply id die) := fun _ h => nomatch h
theorem WordBits.chunkTransfer (ctx : Nat) (seq : W32) : WordBits.Statement (.chunkTransfer ctx seq) := fun _ h => nomatch h
theorem WordBits.tileCommandCompletion (ctx : Nat) (seq : W32) : WordBits.Statement (.tileCommandCompletion ctx seq) := fun _ h => nomatch h
theorem WordBits.windowCommandCompletion (ctx : Nat) (seq : W32) : WordBits.Statement (.windowCommandCompletion ctx seq) := fun _ h => nomatch h
theorem WordBits.swbCompletion (ctx : Nat) (seq : W32) : WordBits.Statement (.swbCompletion ctx seq) := fun _ h => nomatch h
theorem WordBits.persistArrival (id : Nat) : WordBits.Statement (.persistArrival id) := fun _ h => nomatch h
theorem WordBits.pbarCompletion (ctx : Nat) : WordBits.Statement (.pbarCompletion ctx) := fun _ h => nomatch h
theorem WordBits.barrierInitMessage (id : Nat) : WordBits.Statement (.barrierInitMessage id) := fun _ h => nomatch h
theorem WordBits.barrierArrivalMessage (id : Nat) : WordBits.Statement (.barrierArrivalMessage id) := fun _ h => nomatch h
theorem WordBits.barrierReply (id : Nat) : WordBits.Statement (.barrierReply id) := fun _ h => nomatch h
theorem WordBits.barrierCompletionMessage (id : Nat) : WordBits.Statement (.barrierCompletionMessage id) := fun _ h => nomatch h
theorem WordBits.reportDelivery (ctx : Nat) : WordBits.Statement (.reportDelivery ctx) := fun _ h => nomatch h
theorem WordBits.launchAccept (id : Nat) : WordBits.Statement (.launchAccept id) := fun _ h => nomatch h
theorem WordBits.launchStart (launch : Nat) : WordBits.Statement (.launchStart launch) := fun _ h => nomatch h
theorem WordBits.claim (core seat launch entry : Nat) : WordBits.Statement (.claim core seat launch entry) := fun _ h => nomatch h
theorem WordBits.tileStepEntry (ctx : Nat) : WordBits.Statement (.tileStepEntry ctx) := fun _ h => nomatch h
theorem WordBits.contextEnd (ctx : Nat) : WordBits.Statement (.contextEnd ctx) := fun _ h => nomatch h
theorem WordBits.launchEnd (launch : Nat) : WordBits.Statement (.launchEnd launch) := fun _ h => nomatch h
theorem WordBits.retireMapChange (core : Nat) : WordBits.Statement (.retireMapChange core) := fun _ h => nomatch h
theorem WordBits.retireWrite (die pcore : Nat) (value : W64) : WordBits.Statement (.retireWrite die pcore value) := fun _ h => nomatch h
theorem WordBits.windowChunkRequest (frame : Frame) : WordBits.Statement (.windowChunkRequest frame) := fun _ h => nomatch h
theorem WordBits.chunkReply (frame : Frame) : WordBits.Statement (.chunkReply frame) := fun _ h => nomatch h
theorem WordBits.chunkTimeLimit (ctx : Nat) (seq : W32) (chunk : Nat) : WordBits.Statement (.chunkTimeLimit ctx seq chunk) := fun _ h => nomatch h
theorem WordBits.collectiveCompletion (group : Nat) : WordBits.Statement (.collectiveCompletion group) := fun _ h => nomatch h
theorem WordBits.stashWriteback (ctx index : Nat) : WordBits.Statement (.stashWriteback ctx index) := fun _ h => nomatch h
theorem WordBits.exchangeStart (core : Nat) : WordBits.Statement (.exchangeStart core) := fun _ h => nomatch h
theorem WordBits.exchangeEnd (core : Nat) : WordBits.Statement (.exchangeEnd core) := fun _ h => nomatch h
theorem WordBits.contextImageWrite (core : Nat) : WordBits.Statement (.contextImageWrite core) := fun _ h => nomatch h
theorem WordBits.standbyPrefill (core ctx : Nat) : WordBits.Statement (.standbyPrefill core ctx) := fun _ h => nomatch h
theorem WordBits.microprogramImageLoad (core launch : Nat) : WordBits.Statement (.microprogramImageLoad core launch) := fun _ h => nomatch h
theorem WordBits.stealRequest (core seat : Nat) : WordBits.Statement (.stealRequest core seat) := fun _ h => nomatch h
theorem WordBits.stealSplit (id : Nat) : WordBits.Statement (.stealSplit id) := fun _ h => nomatch h
theorem WordBits.stealGrant (id : Nat) : WordBits.Statement (.stealGrant id) := fun _ h => nomatch h
theorem WordBits.preempt (die launch : Nat) : WordBits.Statement (.preempt die launch) := fun _ h => nomatch h
theorem WordBits.contextResume (ctx : Nat) : WordBits.Statement (.contextResume ctx) := fun _ h => nomatch h
theorem WordBits.hostCancel (level ident : Nat) : WordBits.Statement (.hostCancel level ident) := fun _ h => nomatch h
theorem WordBits.launchDoorbell (q : Nat) (va : W64) : WordBits.Statement (.launchDoorbell q va) := fun _ h => nomatch h
theorem WordBits.queueReset (q : Nat) : WordBits.Statement (.queueReset q) := fun _ h => nomatch h
theorem WordBits.launchStop (launch : Nat) : WordBits.Statement (.launchStop launch) := fun _ h => nomatch h
theorem WordBits.stopComplete (launch : Nat) : WordBits.Statement (.stopComplete launch) := fun _ h => nomatch h
theorem WordBits.stopLimitExpiry (ctx : Nat) : WordBits.Statement (.stopLimitExpiry ctx) := fun _ h => nomatch h
theorem WordBits.stop (core bank : Nat) : WordBits.Statement (.stop core bank) := fun _ h => nomatch h
theorem WordBits.step (core bank : Nat) : WordBits.Statement (.step core bank) := fun _ h => nomatch h
theorem WordBits.run (core bank : Nat) : WordBits.Statement (.run core bank) := fun _ h => nomatch h
theorem WordBits.halt (core bank : Nat) : WordBits.Statement (.halt core bank) := fun _ h => nomatch h
theorem WordBits.release (core bank : Nat) : WordBits.Statement (.release core bank) := fun _ h => nomatch h
theorem WordBits.domainChange (core bank domain : Nat) : WordBits.Statement (.domainChange core bank domain) := fun _ h => nomatch h
theorem WordBits.ownerChange (owner : Nat) : WordBits.Statement (.ownerChange owner) := fun _ h => nomatch h
theorem WordBits.shootdownPages (die space va count : Nat) : WordBits.Statement (.shootdownPages die space va count) := fun _ h => nomatch h
theorem WordBits.shootdownSpace (die space : Nat) : WordBits.Statement (.shootdownSpace die space) := fun _ h => nomatch h
theorem WordBits.shootdownAll (die : Nat) : WordBits.Statement (.shootdownAll die) := fun _ h => nomatch h
theorem WordBits.shootdownComplete (die : Nat) : WordBits.Statement (.shootdownComplete die) := fun _ h => nomatch h
theorem WordBits.biasFlip (die : Nat) (value : W64) : WordBits.Statement (.biasFlip die value) := fun _ h => nomatch h
theorem WordBits.biasFlipComplete (die : Nat) : WordBits.Statement (.biasFlipComplete die) := fun _ h => nomatch h
theorem WordBits.uncorrectableData (die source key : Nat) (vaddr : W64) (seq : W32) (lcore : Nat) : WordBits.Statement (.uncorrectableData die source key vaddr seq lcore) := fun _ h => nomatch h
theorem WordBits.correctedError (die source : Nat) : WordBits.Statement (.correctedError die source) := fun _ h => nomatch h
theorem WordBits.functionRemove (die : Nat) (value : W64) : WordBits.Statement (.functionRemove die value) := fun _ h => nomatch h
theorem WordBits.frameReceive (port : Nat) (frame : Frame) : WordBits.Statement (.frameReceive port frame) := fun _ h => nomatch h
theorem WordBits.frameLifeExpiry (port : Nat) (frame : Frame) : WordBits.Statement (.frameLifeExpiry port frame) := fun _ h => nomatch h
theorem WordBits.portFailure (port : Nat) : WordBits.Statement (.portFailure port) := fun _ h => nomatch h
theorem WordBits.rekey (group owner key : Nat) : WordBits.Statement (.rekey group owner key) := fun _ h => nomatch h
theorem WordBits.keySlotClear (group owner : Nat) : WordBits.Statement (.keySlotClear group owner) := fun _ h => nomatch h
theorem WordBits.exportEntryWrite (index : Nat) (value : BitVec 192) : WordBits.Statement (.exportEntryWrite index value) := fun _ h => nomatch h
theorem WordBits.revoke (index : Nat) (invalidate : Bool) : WordBits.Statement (.revoke index invalidate) := fun _ h => nomatch h
theorem WordBits.alvelLinkFailure : WordBits.Statement .alvelLinkFailure := fun _ h => nomatch h
theorem WordBits.powerOn (authentic : W32) : WordBits.Statement (.powerOn authentic) := fun _ h => nomatch h
theorem WordBits.functionReady (die reg bit : Nat) : WordBits.Statement (.functionReady die reg bit) := fun _ h => nomatch h
theorem WordBits.inputUndervoltage : WordBits.Statement .inputUndervoltage := fun _ h => nomatch h
theorem WordBits.thermalThrottle (die : Nat) (cores : W64) : WordBits.Statement (.thermalThrottle die cores) := fun _ h => nomatch h
theorem WordBits.thermalShutdown : WordBits.Statement .thermalShutdown := fun _ h => nomatch h
theorem WordBits.durableRecovery (launch space : Nat) (p0 p1 : W64) (lcore seat : Nat) : WordBits.Statement (.durableRecovery launch space p0 p1 lcore seat) := fun _ h => nomatch h
theorem WordBits.attestation (nonce : BitVec 256) : WordBits.Statement (.attestation nonce) := fun _ h => nomatch h
theorem WordBits.scanStart (die : Nat) (value : W64) : WordBits.Statement (.scanStart die value) := fun _ h => nomatch h
theorem WordBits.scanAbort (die : Nat) : WordBits.Statement (.scanAbort die) := fun _ h => nomatch h
theorem WordBits.scanRun (die : Nat) : WordBits.Statement (.scanRun die) := fun _ h => nomatch h
theorem WordBits.scanVerdict (die : Nat) (fails rows cols : List Nat) : WordBits.Statement (.scanVerdict die fails rows cols) := fun _ h => nomatch h
theorem WordBits.scanPriorityAbort (die : Nat) : WordBits.Statement (.scanPriorityAbort die) := fun _ h => nomatch h
theorem WordBits.logicalCoreRebind (die lcore : Nat) : WordBits.Statement (.logicalCoreRebind die lcore) := fun _ h => nomatch h
theorem WordBits.lcmapWrite (die lcore : Nat) (value : W64) : WordBits.Statement (.lcmapWrite die lcore value) := fun _ h => nomatch h
theorem WordBits.monitorClear (die unit : Nat) : WordBits.Statement (.monitorClear die unit) := fun _ h => nomatch h
theorem WordBits.monitorLevelSample (die unit : Nat) : WordBits.Statement (.monitorLevelSample die unit) := fun _ h => nomatch h
theorem WordBits.triggerAssert (die line : Nat) : WordBits.Statement (.triggerAssert die line) := fun _ h => nomatch h
theorem WordBits.deviceTriggerPropagation (die line : Nat) : WordBits.Statement (.deviceTriggerPropagation die line) := fun _ h => nomatch h
theorem WordBits.trgfwWrite (die : Nat) : WordBits.Statement (.trgfwWrite die) := fun _ h => nomatch h
theorem WordBits.triggerPinInput (pin : Nat) : WordBits.Statement (.triggerPinInput pin) := fun _ h => nomatch h
theorem WordBits.traceOpen (die session : Nat) (value : W64) : WordBits.Statement (.traceOpen die session value) := fun _ h => nomatch h
theorem WordBits.traceEnd (die session : Nat) : WordBits.Statement (.traceEnd die session) := fun _ h => nomatch h
theorem WordBits.companionAccess (op : CompanionOp) : WordBits.Statement (.companionAccess op) := fun _ h => nomatch h
theorem WordBits.importEntryWrite (index : Nat) (value : BitVec 192) : WordBits.Statement (.importEntryWrite index value) := fun _ h => nomatch h
theorem WordBits.linkCrcRetry (granule : Nat) : WordBits.Statement (.linkCrcRetry granule) := fun _ h => nomatch h

end Sys2Proof.Laws
end

