-- ==== Sys2Proof/Laws/Words.lean ====
section
/-! SUPPORT. A slot word run by itself is its effect in a bundle, completed; and what
settling and sampling leave of the contexts. -/
namespace Sys2Proof.Machine

set_option maxHeartbeats 4000000 in
/-- exec of a slot word is the word's effect in a bundle, completed by itself. -/
theorem exec_word (i : Instr) (s : State) (h : (encodeWord i).isSome) : exec i s = complete s (wordExec i s) := by
  cases i <;> first | exact (Bool.false_ne_true h).elim | rfl

/-- What a class other than 0 says: the instruction is a slot word. -/
theorem classOf_some (i : Instr) (h : classOf i ≠ 0) : (encodeWord i).isSome := by
  unfold classOf at h
  split at h <;> first | (exact absurd rfl h) | skip
  split at h
  · simp [*]
  · exact absurd rfl h

/-- The words a bundle acts through are slot words. -/
theorem actWords_class {ins is : List Instr} {i : Instr} (h : actWords ins = is) (hi : i ∈ is) : (encodeWord i).isSome := by
  subst h
  simp only [actWords, List.mem_flatMap, List.mem_filter, Bool.and_eq_true, decide_eq_true_eq] at hi
  obtain ⟨o, _, _, hc, _⟩ := hi
  exact classOf_some i hc

/-- A slot word answers a next state, or faults where its effect does; it never refuses. -/
theorem exec_word_cases (i : Instr) (s : State) (h : (encodeWord i).isSome) :
    (∃ t, exec i s = .next t) ∨ (∃ f, wordExec i s = .error (.fault f) ∧ exec i s = .fault f) := by
  rw [exec_word i s h]; exact complete_cases s _

/-! What leaves the contexts alone -/

theorem ctxs_foldl {α : Type} (f : State → α → State) (h : ∀ s a, (f s a).ctxs = s.ctxs) (l : List α) (s : State) :
    (l.foldl f s).ctxs = s.ctxs :=
  List.foldlRecOn l f (motive := fun u => u.ctxs = s.ctxs) rfl (fun u hu a _ => (h u a).trans hu)
theorem ctxs_setDie (s : State) (d x) : (s.setDie d x).ctxs = s.ctxs := rfl
theorem ctxs_setTrace (s : State) (d i x) : (setTrace s d i x).ctxs = s.ctxs := rfl
theorem ctxs_raise (s : State) (d x) : (raiseSource s d x).ctxs = s.ctxs := rfl
theorem ctxs_foldOne (s : State) (w) : (foldOne s w).ctxs = s.ctxs := by unfold foldOne; split <;> rfl
theorem ctxs_settle (s : State) : (settle s).ctxs = s.ctxs := by
  unfold settle; rw [ctxs_foldl _ ctxs_foldOne]
  unfold settleCore; simp
theorem ctxs_sampleUnit (s : State) (d u src f v) : (sampleUnit s d u src f v).ctxs = s.ctxs := by
  unfold sampleUnit; simp only; split
  · split <;> rfl
  · rfl
theorem ctxs_sample (s : State) (d src f v) : (sample s d src f v).ctxs = s.ctxs := by
  unfold sample; exact ctxs_foldl _ (fun s a => ctxs_sampleUnit ..) _ _

end Sys2Proof.Machine
end

