-- ==== Sys2Proof/Tests/Slice0.lean ====
section
/-! SUPPORT. The model's own tests: every check of WellFormed on a term it refuses, every slot word and microword decoded from a
word written out by the spec's layouts, values that the spec works out, and for each statement states that meet its hypotheses. -/
namespace Sys2Proof.Tests
set_option Elab.async false
open Sys2Proof.Machine

/-! Small states -/

/-- The reset state with context 0 in issue as given. -/
def on (c : Ctx) : State := State.reset.setCtx 0 c
/-- A context with scalar registers as listed. -/
def sregs (l : List (Nat × W64)) : Ctx := { regs := { s := l } }
/-- A context at a privilege level. -/
def atLevel (l : Nat) : Ctx := { sys := { status := BitVec.ofNat 64 l } }
/-- The state a step answers; reset where it answers none. -/
def got (r : Host.Outcome State Fault Refusal) : State :=
  match r with
  | .next t => t
  | .fault _ => State.reset
  | .refused _ => State.reset
/-- The value that the newest pending write of the issuing context carries. -/
def newest (s : State) : Wide := ((s.my.pend.getLast?).map (·.value)).getD 0

/-- The reasons of R53 to R66 that a list of terms is refused with, one decimal digit each; 0 where a term is well formed. -/
def reasons (l : List Instr) : Nat := l.foldl (fun n i => 10 * n + i.illegal.getD 0) 0

/-! Well-formedness -/

/-- Each check of R53 to R66 on a term that it refuses, with the reason it gives. -/
theorem test_ill_formed_terms_are_refused :
    reasons [.add 1 2 3 3, .add 56 2 3 0, .addi 60 1 0, .shli 1 1 64, .srai 1 1 255, .li 56 0, .mfs 63 0, .fill 56 0] =
      34433444 ∧
    reasons [.get 1 6 0 0, .get 1 0 24 0, .get 1 4 8 0, .get 1 0 0 16, .get 1 2 0 7, .get 1 4 0 2, .get 56 0 0 0, .lexit 6] =
      34433343 ∧
    reasons [.vadd .v0 15 1 2 3 0, .vadd .v0 8 24 2 3 0, .vadd .v0 9 1 2 3 0, .vfma .v1 4 1 2 3 0, .vabs .v0 1 1 2 0, .vadds .v0 8 1 2 3 0,
      .vtsum .v0 8 23 2 3 0, .vtsum .v0 4 1 2 3 0, .vrcp .v0 4 1 2 0, .vand .v0 24 1 2 0, .vmov .v1 31 1 0, .vaddi .v0 14 1 2 0] =
      345555455445 ∧
    reasons [.vshli .v0 0 1 2 8, .vshli .v0 8 1 2 0, .vshri .v1 24 24 2 0, .vsplat .v0 4 1 2 32, .vsplat .v0 11 1 2 0, .vceq .v0 4 4 1 2 0,
      .vceq .v0 12 1 1 2 0, .vcun .v0 4 1 1 2 0, .kand .v0 4 1 2, .kor .v0 1 4 2, .kxor .v1 1 2 4, .knot .v0 1 4] =
      354354554444 ∧
    reasons [.vget .v0 1 6 0 0, .vget .v0 1 0 0 20, .vget .v0 1 1 0 1, .vget .v0 1 0 56 0, .vget .v0 4 4 0 0, .vget .v0 24 0 0 0, .viota .v0 8 1 0,
      .vlane .v0 11 1 2 3 0, .vradd .v0 0 1 2 0, .vrarg .v1 12 1 2 0, .vcvt .v0 9 1 2 8 3 0, .vcvt .v0 12 1 2 8 0 0, .vcvt .v0 9 1 2 14 0 0,
      .vdefer .v0 0 1 2 0, .vdefer .v0 2 1 2 0, .vdrain .v0 23 1 0, .vdrain .v0 1 24 0, .vdrain .v0 1 2 0, .vfill .v0 24 0] =
      3334445555355234444 ∧
    reasons [.mcall 0 0 0 0 3 0, .mcall 0 0 0 0 3 3, .mcall 0 0 0 0 0 1, .st8 .c0 0 4 0, .vst .c1 0 7 0, .aadd .c0 0 0 5 0 0, .fence .c0 5 1,
      .fence .c0 0 0, .fencex .c0 6 0 0, .fencex .c0 0 6 0, .fencex .c0 0 0 5, .tloadSlot .c0 0 1 0 0, .tloadRing .c0 0 1 0 0,
      .tstore .c0 0 1 0 0, .tstoreDur .c0 0 1 0 0, .tcvt .c0 0 0 3, .coll .c0 0 6, .cancel .c0 0 4, .cnt .c0 0 0 4 0, .cget .c0 0 6 0 0,
      .cget .c0 0 0 0 1, .cget .c0 0 1 24 0, .cget .c0 0 4 16 0, .cstr .c0 0 6 0] =
      333443333332222333333443 ∧
    reasons [.xget 0 4 0 0, .xget 0 0 8 0, .xget 0 1 0 1, .xget 0 3 56 0, .xmov 13 0 0 2, .xmov 14 0 0 1, .xmov 8 0 0 0, .xpack 8 0 0 0 0 0,
      .xpack 9 0 0 0 0 3, .xunpk 12 0 0 0 0, .xscal 9 0 0 0 0 0, .xmxs 15 0 0 0, .xshuf 11 0 0 0, .xrot 13 0 0 1, .xrot 8 0 0 0,
      .barInit 0 3 0, .barArr 0 7, .barWait 0 3, .barTst 0 4 0] =
      3434335535535253333 := by
  decide

/-- Headers that R51 and R52 refuse, and words whose opcode or zero bits R53 refuses. -/
theorem test_ill_formed_words_are_refused :
    [0x00000001, 0x00000200, 0x0C000000, 0x00002C00, 0x04000005, 0x00000000].map (judgeHeader false) =
      [some 2, some 2, some 3, some 3, some 6, none] ∧
    judgeHeader true 0x04000005 = none ∧
    [0x11A00000, 0x10000001, 0x21A00000, 0x20000001, 0x41800000, 0x40000001, 0x51600000, 0x50004000, 0x73C00000, 0x70000001,
      0x14100001, 0x16201000, 0x40000080].foldl (fun n w => 10 * n + (match judgeWord w with | .ok _ => 0 | .error r => r)) 0 = 1212121212222 := by
  decide

/-- Bundles that R48 does not frame: no header, a class that does not rise, nine words, three words. -/
theorem test_frames_are_judged :
    (let f := fun (l : List W32) => frameBundle (fun n => (.ok (l.getD n 0) : Except Unit W32))
     f [0x10000000] = .bad 1 0 ∧ f [0x00000000, 0x20000000, 0x10000000] = .bad 3 2 ∧
     f [0x00000000, 0x10000000, 0x20000000, 0x30000000, 0x40000000, 0x50000000, 0x60000000, 0x70000000] = .bad 4 7 ∧
     f [0x00000000, 0x10000000, 0xA0000000] = .bad 2 2 ∧
     f [0x00000000, 0x17200000, 0x20000000, 0xB0000000] = .bundle [0x00000000, 0x17200000, 0x20000000, 0xB0000000]) := by
  decide

/-- The bundle `{ exit }` that R68 assembles, and the `vstm` bundle of R181. -/
theorem test_bundles_decode :
    judgeBundle false [0x00000000, 0x17200000, 0x20000000, 0xB0000000] = .ok [.exit, .vnop .v0, .vnop .v1] ∧
    judgeBundle false [0x00000000, 0x14140500, 0x2B000380, 0xD2C40300] =
      .ok [.push 1 5, .vpush .v0 0 7, .vstm .c0 2 0 1 2] := by
  decide

/-- S words written out by the layouts of R55 and R57 and the opcodes of R56. -/
theorem test_decode_scalar_1 :
    [0x1011491A, 0x1021491A, 0x1031491A, 0x1041491A, 0x1051491A, 0x1061491A, 0x1071491A, 0x1081491A,
     0x1091491A, 0x10A1491A, 0x10B1491A, 0x10C1491A, 0x10D1491A, 0x10E1491A, 0x10F1491A, 0x1101491A,
     0x1111491A, 0x1121491A, 0x1131491A, 0x1141491A, 0x1151491A, 0x1191491A, 0x1201491A, 0x1211491A,
     0x1221491A, 0x1231491A, 0x1241491A, 0x1251491A, 0x11614902, 0x11714902, 0x11814902, 0x1301494D].map judgeWord =
    ([.add 5 9 6 2, .sub 5 9 6 2, .and 5 9 6 2, .or 5 9 6 2,
     .xor 5 9 6 2, .andn 5 9 6 2, .shl 5 9 6 2, .shr 5 9 6 2,
     .sra 5 9 6 2, .rol 5 9 6 2, .mul 5 9 6 2, .mulh 5 9 6 2,
     .mulhn 5 9 6 2, .div 5 9 6 2, .divn 5 9 6 2, .rem 5 9 6 2,
     .remn 5 9 6 2, .min 5 9 6 2, .max 5 9 6 2, .minn 5 9 6 2,
     .maxn 5 9 6 2, .cmov 5 9 6 2, .ceq 5 9 6 2, .cne 5 9 6 2,
     .clt 5 9 6 2, .cle 5 9 6 2, .cltn 5 9 6 2, .clen 5 9 6 2,
     .clz 5 9 2, .popc 5 9 2, .ctz 5 9 2, .addi 5 9 77] : List Instr).map .ok := by
  decide

/-- S words written out by the layouts of R55 and R57 and the opcodes of R56. -/
theorem test_decode_scalar_2 :
    [0x1311494D, 0x1321494D, 0x1331494D, 0x1341492D, 0x1351492D, 0x1361492D, 0x1371494D, 0x1381494D,
     0x1391494D, 0x13A1404D, 0x13B1404D, 0x150260C8, 0x151260C8, 0x152260C8, 0x153260C8, 0x154020C8,
     0x155020C8, 0x15600900, 0x15700900, 0x140153C6, 0x14180900, 0x1588492C, 0x15980000, 0x1601F7F1,
     0x16214123, 0x16324123, 0x164A5240, 0x16516940, 0x1700BEEF, 0x1730BEEF, 0x1740BEEF, 0x10000000].map judgeWord =
    ([.andi 5 9 77, .ori 5 9 77, .xori 5 9 77, .shli 5 9 45,
     .shri 5 9 45, .srai 5 9 45, .ceqi 5 9 77, .clti 5 9 77,
     .cltni 5 9 77, .li 5 77, .lis 5 77, .bz 9 1 200,
     .bnz 9 1 200, .blz 9 1 200, .bgez 9 1 200, .br 1 200,
     .call 1 200, .jr 9, .jlr 9, .get 5 2 15 6,
     .push 2 9, .loop 4 9 300, .lexit 4, .wait 3 29 31 17,
     .mfs 5 291, .mts 9 291, .spill 165 9, .fill 5 165,
     .trap 48879, .brk 48879, .fwcall 48879, .nop] : List Instr).map .ok := by
  decide

/-- S words written out by the layouts of R55 and R57 and the opcodes of R56. -/
theorem test_decode_scalar_3 :
    [0x16100000, 0x17100000, 0x17200000, 0x17500000].map judgeWord =
    ([.frame, .tret, .exit, .idle] : List Instr).map .ok := by
  decide

/-- V words of slot V0 by R58, R59 and R148 to R154. -/
theorem test_decode_vector_1 :
    [0x2030549A, 0x2050549A, 0x2070549A, 0x2090549A, 0x20B0549A, 0x20D0549A, 0x20F0549A, 0x2150549A,
     0x2166549A, 0x2186549A, 0x2386549A, 0x23A6549A, 0x23C6549A, 0x2510349A, 0x2530349A, 0x2550349A,
     0x2570349A, 0x2590349A, 0x2790549A, 0x210C5482, 0x212C5482, 0x22105482, 0x22305482, 0x22505482,
     0x22705482, 0x22905482, 0x22B05482, 0x28105482, 0x28305482, 0x28505482, 0x28705482, 0x231C549A].map judgeWord =
    ([.vadd .v0 8 5 9 6 2, .vsub .v0 8 5 9 6 2, .vmul .v0 8 5 9 6 2, .vfma .v0 8 5 9 6 2,
     .vfms .v0 8 5 9 6 2, .vmin .v0 8 5 9 6 2, .vmax .v0 8 5 9 6 2, .vtsum .v0 8 5 9 6 2,
     .vadds .v0 3 5 9 6 2, .vsubs .v0 3 5 9 6 2, .vshl .v0 3 5 9 6 2, .vshr .v0 3 5 9 6 2,
     .vsra .v0 3 5 9 6 2, .vceq .v0 8 3 9 6 2, .vcne .v0 8 3 9 6 2, .vclt .v0 8 3 9 6 2,
     .vcle .v0 8 3 9 6 2, .vcun .v0 8 3 9 6 2, .vlane .v0 8 5 9 6 2, .vabs .v0 6 5 9 2,
     .vneg .v0 6 5 9 2, .vrcp .v0 8 5 9 2, .vrsq .v0 8 5 9 2, .vexp2 .v0 8 5 9 2,
     .vlog2 .v0 8 5 9 2, .vsqrt .v0 8 5 9 2, .vflr .v0 8 5 9 2, .vradd .v0 8 5 9 2,
     .vrmax .v0 8 5 9 2, .vrmin .v0 8 5 9 2, .vrarg .v0 8 5 9 2, .vand .v0 5 9 6 2] : List Instr).map .ok := by
  decide

/-- V words of slot V0 by R58, R59 and R148 to R154. -/
theorem test_decode_vector_2 :
    [0x233C549A, 0x235C549A, 0x271C549A, 0x237C5482, 0x273C5482, 0x261C3088, 0x263C3088, 0x265C3088,
     0x267C3080, 0x241054CD, 0x2426548D, 0x2446548D, 0x247C5486, 0x27665002, 0x291054B3, 0x2A1C149A,
     0x2A3C5A02, 0x27451BC0, 0x2B100480, 0x2B94A480, 0x2BA5A500, 0x20000000].map judgeWord =
    ([.vor .v0 5 9 6 2, .vxor .v0 5 9 6 2, .vsel .v0 5 9 6 2, .vnot .v0 5 9 2,
     .vmov .v0 5 9 2, .kand .v0 3 1 2, .kor .v0 3 1 2, .kxor .v0 3 1 2,
     .knot .v0 3 1, .vaddi .v0 8 5 9 77, .vshli .v0 3 5 9 13, .vshri .v0 3 5 9 13,
     .vsplat .v0 14 5 9 6, .viota .v0 3 5 2, .vcvt .v0 8 5 9 6 1 1, .vdefer .v0 1 9 6 2,
     .vdrain .v0 5 20 2, .vget .v0 5 0 55 16, .vpush .v0 2 9, .vspill .v0 165 9,
     .vfill .v0 5 165, .vnop .v0] : List Instr).map .ok := by
  decide

/-- M words by R61 and R217. -/
theorem test_decode_matrix :
    [0x40000000, 0x406BC059, 0x40B0004D, 0x40C00000, 0x41352000, 0x41400000].map judgeWord =
    ([.mnop, .mcall 700 1 0 1 2 1, .mset 6 77, .mseth,
     .mget 6 41, .mabort] : List Instr).map .ok := by
  decide

/-- C words of slot C1 by R63 to R65 and R177 to R210. -/
theorem test_decode_copy_1 :
    [0x603780C8, 0x605780C8, 0x607780C8, 0x609780C8, 0x60B780C8, 0x60D780C8, 0x60F780C8, 0x611780C8,
     0x621680C8, 0x623680C8, 0x625680C8, 0x627680C8, 0x629680C8, 0x6A9600C8, 0x60000000, 0x66400000,
     0x61573800, 0x61361AC0, 0x62B73000, 0x62D60D80, 0x64179CC8, 0x64379CC8, 0x64579CC8, 0x64779CC8,
     0x64979CC8, 0x64B79CC8, 0x64D79CC8, 0x64F79CC8, 0x65179CC8, 0x65379CC8, 0x66001C00, 0x662006B0].map judgeWord =
    ([.ldi8 .c1 11 6 200, .ldn8 .c1 11 6 200, .ldi16 .c1 11 6 200, .ldn16 .c1 11 6 200,
     .ldi32 .c1 11 6 200, .ldn32 .c1 11 6 200, .ld64 .c1 11 6 200, .vld .c1 11 6 200,
     .st8 .c1 11 2 200, .st16 .c1 11 2 200, .st32 .c1 11 2 200, .st64 .c1 11 2 200,
     .vst .c1 11 2 200, .pref .c1 11 200, .cnop .c1, .pbar .c1,
     .vlds .c1 11 9 6, .vldg .c1 11 6 2 3, .vsts .c1 11 9 2, .vstm .c1 11 1 2 3,
     .aadd .c1 11 6 3 2 200, .amin .c1 11 6 3 2 200, .amax .c1 11 6 3 2 200, .aand .c1 11 6 3 2 200,
     .aor .c1 11 6 3 2 200, .axch .c1 11 6 3 2 200, .acas .c1 11 6 3 2 200, .afadd .c1 11 6 3 2 200,
     .aminn .c1 11 6 3 2 200, .amaxn .c1 11 6 3 2 200, .fence .c1 3 2, .fencex .c1 1 5 3] : List Instr).map .ok := by
  decide

/-- C words of slot C1 by R63 to R65 and R177 to R210. -/
theorem test_decode_copy_2 :
    [0x67172C38, 0x67173058, 0x67572C38, 0x67573C38, 0x67201874, 0x67761860, 0x67961868, 0x67A01860,
     0x67C01860, 0x67F73870, 0x6817334A, 0x6837334A, 0x6877334B, 0x69161400, 0x6A172F60, 0x6A360F60,
     0x6A560F70, 0x6B161A50, 0x6B360800, 0x6B561940, 0x6C0B3357, 0x6C2B3357, 0x6C4A057F, 0x6C6A1290].map judgeWord =
    ([.tloadSlot .c1 11 9 195 1, .tloadRing .c1 11 9 5 1, .tstore .c1 11 9 195 1, .tstoreDur .c1 11 9 195 1,
     .rpush .c1 195 5, .ttrn .c1 11 195, .tcvt .c1 11 195 1, .tzero .c1 195,
     .tfree .c1 195, .tgath .c1 11 9 195 2, .wget .c1 11 9 2469, .wput .c1 11 9 2469,
     .wadd .c1 11 9 2469 1, .coll .c1 11 5, .smap .c1 11 9 123, .swb .c1 11 123,
     .sinv .c1 11 123 1, .enq .c1 11 6 37, .cancel .c1 11 2, .cnt .c1 11 6 2 1,
     .cli .c1 5 9 4951, .cadd .c1 5 9 4951, .cget .c1 5 1 23 15, .cstr .c1 5 4 41] : List Instr).map .ok := by
  decide

/-- X words by R66, R156, R163 to R170. -/
theorem test_decode_exchange :
    [0x70000000, 0x78800000, 0x70558E60, 0x70B56440, 0x70E965B5, 0x712965B4, 0x717565B5, 0x71A825B4,
     0x71E16580, 0x72396580, 0x72616580, 0x72A16580, 0x74346BCD, 0x74746BCD, 0x76052A90, 0x76452A00,
     0x76852A00, 0x76C52AC0, 0x782CB000].map judgeWord =
    ([.xnop, .yield, .xget 5 3 7 3, .xmov 13 5 9 1,
     .xpack 10 5 9 6 13 1, .xunpk 10 5 9 6 13, .xscal 13 5 9 6 13 1, .xmxs 10 9 6 13,
     .xshuf 8 5 9 6, .xrot 14 5 9 6, .xzip 8 5 9 6, .xuzp 8 5 9 6,
     .xlsc 13 1 11213, .xssc 13 1 11213, .barInit 165 2 9, .barArr 165 2,
     .barWait 165 2, .barTst 165 2 6, .spawn 5 9 6] : List Instr).map .ok := by
  decide

/-- Microwords by R62 and R225. -/
theorem test_decode_microwords :
    [0x0000000000000000, 0x06AB3C0000000000, 0x0800000000000000, 0x0EAB660000000000, 0x139DE5A9B8000000,
     0x16646C0000000000, 0x1A58000000000000, 0x1C6AF34000000000, 0x2000000000000000, 0x26AAE00000000000,
     0x2980000000000000, 0x2E00000000000000, 0x3000000000000000, 0x3400000000000000, 0x39B0000000000000].map decodeMicro =
    ([.microwordMnop, .mldw 341 1 60, .mswp, .mstrm 341 5 9 1,
     .mmv 231 3 6 90 9 11 1, .mdrn 9 291 1 1, .mclr 9 6, .mloop 0 1 43981,
     .mend, .mpop 341 7, .mbud 3, .mchk 1,
     .mret, .mwt, .mlad 1 2 1 1] : List Instr).map some := by
  decide
/-! Values that the spec works out -/

/-- `lis` builds 0x0123_4567_89AB_CDEF, whose last bundle appends the group 0x0DEF (R109). -/
theorem test_lis_builds_a_constant :
    newest (got (exec (.lis 9 0x0DEF) (on (sregs [(9, 0x000048D159E26AF)])))) = 0x0123456789ABCDEF := by decide +kernel
/-- A 32-bit add wraps and is sign-extended (R103). -/
theorem test_add_wraps_at_32_bits :
    newest (got (exec (.add 1 2 3 1) (on (sregs [(2, 0x7FFFFFFF), (3, 1)])))) = 0xFFFFFFFF80000000 := by decide +kernel
/-- Division by zero gives all ones, its remainder the dividend; the most negative number by −1 is itself (R106). -/
theorem test_division_corners :
    newest (got (exec (.div 1 2 0 0) (on (sregs [(2, 7)])))) = 0xFFFFFFFFFFFFFFFF ∧
    newest (got (exec (.rem 1 2 0 0) (on (sregs [(2, 7)])))) = 7 ∧
    newest (got (exec (.div 1 2 3 0) (on (sregs [(2, 0x8000000000000000), (3, 0xFFFFFFFFFFFFFFFF)])))) = 0x8000000000000000 := by decide +kernel
/-- Shift counts are taken modulo the width (R104). -/
theorem test_shift_counts_wrap :
    newest (got (exec (.shl 1 2 3 0) (on (sregs [(2, 3), (3, 65)])))) = 6 ∧
    newest (got (exec (.sra 1 2 3 2) (on (sregs [(2, 0x80000000), (3, 4)])))) = 0xF8000000 := by decide +kernel
/-- The high halves of products, signed and unsigned (R104). -/
theorem test_mulh_signs :
    newest (got (exec (.mulh 1 2 3 0) (on (sregs [(2, 0xFFFFFFFFFFFFFFFF), (3, 5)])))) = 0xFFFFFFFFFFFFFFFF ∧
    newest (got (exec (.mulhn 1 2 3 0) (on (sregs [(2, 0xFFFFFFFFFFFFFFFF), (3, 5)])))) = 4 := by decide +kernel
/-- `trap 7` in a bundle of four words: SW_TRAP with TVAL 0x4_0007 at the handler (R124). -/
theorem test_trap_saves_code_and_length :
    (let t := (got (exec (.trap 7) (on { iss := { len := 4 }, flow := { npc0 := 0x140 }, sys := { tvec := 0x8000 } }))).my
     t.sys.tcause = 0x0D ∧ t.sys.tval = 0x40007 ∧ t.sys.epc0 = 0x140 ∧ t.sys.epc1 = 1 ∧ t.flow.npc0 = 0x8000 ∧ t.lvl = 1) := by decide +kernel
/-- `fill s4, 9` of a 1,024-bit value traps with TVAL 0x0002_5209 (R42). -/
theorem test_fill_of_a_wide_value_traps :
    (got (exec (.fill 4 9) (on { q := { spill := [(9, { value := 1, wide := true, place := .area })] } }))).my.sys.tval = 0x00025209 := by
  decide +kernel
/-- `mfs` below the level of the register traps PRIVILEGE with its number (R119). -/
theorem test_mfs_needs_its_level :
    (got (exec (.mfs 1 0x0F0) (on (atLevel 1)))).my.sys.fcause = 0x03 ∧
    (got (exec (.mfs 1 0x0F0) (on (atLevel 1)))).my.sys.fval = 0x0F0 := by decide +kernel
/-- A write of a read-only register is ignored (R4, R119). -/
theorem test_mts_of_seat_is_ignored :
    mtsCtx (atLevel 1) 0x010 5 = atLevel 1 := by decide +kernel
/-- A taken branch is 4·disp13 from its own bundle: `bnz.t s4` at 0x0140 with disp −16 goes to 0x0100 (R70, R112). -/
theorem test_branch_target :
    (got (exec (.bnz 4 1 0x1FF0) (on { regs := { s := [(4, 1)] }, flow := { npc0 := 0x140 } }))).my.iss.br =
      some { target := some 0x100, bubble := false } := by decide +kernel
/-- `vadd.i32` adds word by word, and a word that its mask leaves out keeps its value (R134, R136). -/
theorem test_vadd_under_a_mask :
    (let t := got (exec (.vadd .v0 4 1 2 3 1) (on { regs := { va := [(1, 0x5500000000), (2, 0x7FFFFFFFF), (3, 0x900000002)], ka := [(1, 1)] } }))
     lane 32 (newest t) 0 = 1 ∧ lane 32 (newest t) 1 = 0x55) := by decide +kernel
/-- `vaddi.f16` adds an integer immediate in the element's format: 1.0 + 2 = 3.0 (R136). -/
theorem test_vaddi_converts_its_immediate :
    lane 16 (newest (got (exec (.vaddi .v0 6 1 2 2) (on { regs := { va := [(2, 0x3C00)] } })))) 0 = 0x4200 := by decide +kernel
/-- E4M3 under RNE: 464 goes to 448, 470 to NaN, and with sat to 448 (R85). -/
theorem test_e4m3_rounding :
    convertElem 9 8 .rne false 0x43E80000 = 0x7E ∧ convertElem 9 8 .rne false 0x43EB0000 = 0x7F ∧
    convertElem 9 8 .rne true 0x43EB0000 = 0x7E := by decide +kernel
/-- E2M1 ties: 2.5 to 2.0, 5.0 to 4.0, 0.25 to +0, 0.75 to 1.0 (R85). -/
theorem test_e2m1_ties :
    convertElem 11 8 .rne true 0x40200000 = 0x4 ∧ convertElem 11 8 .rne true 0x40A00000 = 0x6 ∧
    convertElem 11 8 .rne true 0x3E800000 = 0x0 ∧ convertElem 11 8 .rne true 0x3F400000 = 0x2 := by decide +kernel
/-- The rank keys of R101. -/
theorem test_rank_keys :
    [0xFF800000, 0x80000000, 0x00000000, 0x7F800000, 0x7FC00000].map (rankKey 8) =
      [0x007FFFFF, 0x7FFFFFFF, 0x80000000, 0xFF800000, 2 ^ 32 + 0x00800001] := by decide +kernel
/-- The block of R162: scale 128 and the nibbles 4, 8, 2, 7; unpacked they give 4.0, −0.0, 2.0 and 12.0. -/
theorem test_xpack_example :
    (let vs := [0x40A00000, 0xBE800000, 0x40200000, 0x41400000].map (decF ff32) ++ List.replicate 28 (decF ff32 0)
     (mxBlock 11 (fun _ => .rne) vs).1 = 128 ∧ (mxBlock 11 (fun _ => .rne) vs).2.take 5 = [4, 8, 2, 7, 0]) ∧
    [4, 8, 2, 7].map (fun q => encF ff32 .rne false (mxValue 11 128 q)) = [0x40800000, 0x80000000, 0x40000000, 0x41400000] := by decide +kernel
/-- The cuff of R251: a bf16 tile with GEN 0x102 has CHK 0x5A5A_5B59_5A5A_5A58. -/
theorem test_cuff_checksum :
    (cuffOf 2 0x102 0).extractLsb' 0 64 = 0x0000010200000002 ∧ (cuffOf 2 0x102 0).extractLsb' 448 64 = 0x5A5A5B595A5A5A58 ∧
    cuffOk (cuffOf 2 0x102 0) = true ∧ cuffOk 0 = false := by decide +kernel
/-- The four routes of the 3 × 4 space of R304, one hexadecimal digit a coordinate. -/
theorem test_routes :
    (let p := fun (r : Nat) => ((List.range 12).flatMap (coords { route := r, ndims := 2, exts := [3, 4], n := 12 })).foldl (16 * · + ·) 0
     p 0 = 0x000102031011121320212223 ∧ p 1 = 0x001020011121021222031323 ∧
     p 3 = 0x000102031312111020212223 ∧ p 2 = 0x000110110203121320212223) := by decide +kernel
/-- `vdrain` gives values, origins iteration · 32 + lane, and the mask (R153). -/
theorem test_vdrain_origins :
    (let t := got (exec (.vdrain .v0 8 10 3) (on { q := { defer :=
        [⟨0x40A00000, 0, 3, 0⟩, ⟨0x3F800000, 0, 17, 0⟩, ⟨0x40A00000, 0, 3, 1⟩, ⟨0x3F800000, 0, 17, 1⟩, ⟨0x40A00000, 0, 3, 2⟩,
         ⟨0x3F800000, 0, 17, 2⟩] } }))
     (t.my.pend.map (fun p => (p.kind, p.reg, p.delay))) = [(0, 8, 4), (0, 9, 4), (0, 10, 4), (1, 3, 4)] ∧
     (t.my.pend.map (·.value))[2]? = some (fromLanes 32 ([3, 17, 35, 49, 67, 81] ++ List.replicate 26 0)) ∧
     newest t = 0x3F ∧ t.my.q.defer = []) := by decide +kernel
/-- `cli ca1, ca1, 0x1000` shifts by 13 bits and adds (R210). -/
theorem test_cli_shifts :
    newest (got (exec (.cli .c0 1 1 0x1000) (on { regs := { ca := [(1, 3)] } }))) = 0x7000 := by decide +kernel
/-- Memory: what is written is read back, neighbours stand, and writing 0 leaves the canonical form. -/
theorem test_memory_reads_what_was_written :
    memGet (memSet [] 5 7) 5 = 7 ∧ memGet (memSet [] 5 7) 6 = 0 ∧ memSet (memSet [] 5 7) 5 0 = [] ∧
    Memory.wf (memSet (memSet [] 9 1) 5 7) = true := by decide +kernel
/-- The logical cores of R378 at reset, and after the failed scan of the example: logical core 23 on spare 64. -/
theorem test_logical_cores :
    lcmapOf State.reset 2 23 = 0x97 ∧ pcstat State.reset 2 63 = 0 ∧ pcstat State.reset 2 64 = 1 ∧
    bestSpare State.reset 2 = some 64 := by decide +kernel

/-! States that meet the hypotheses of the statements -/

theorem free_of_none {s : State} (h : s.my.pend = []) (cls kind reg lat : Nat) : s.free cls kind reg lat := by
  intro p hp; rw [h] at hp; exact absurd hp List.not_mem_nil

theorem test_meets_scalar_words :
    (let s := on (sregs [(1, 7), (55, 9)])
     Say.saRow (.sub 55 1 55 2) = some ⟨55, 1, 55, 2, 1, fun _ x y => x - y⟩ ∧ (2 : BitVec 2) ≠ 3 ∧ rdS s.my 1 1 = .ok 7 ∧
     rdS s.my 1 55 = .ok 9 ∧ s.freeS 55 1) :=
  ⟨rfl, by decide, rfl, rfl, .inr (free_of_none rfl _ _ _ _)⟩
theorem test_meets_scalar_words_without_b :
    (let s := on (sregs [(1, 7)])
     Say.saRow (.clz 0 1 0) = some ⟨0, 1, 0, 0, 1, fun n x _ =>
      BitVec.ofNat n (((List.range n).reverse.takeWhile (fun i => !x.getLsbD i)).length)⟩ ∧ rdS s.my 1 1 = .ok 7 ∧
     rdS s.my 1 0 = .ok 0 ∧ s.freeS 0 1) :=
  ⟨rfl, rfl, rfl, .inl rfl⟩
/-- Both outcomes of `cmov`, the second under a 32-bit width, where only the low half of B counts. -/
theorem test_meets_cmov :
    (let s := on (sregs [(2, 5), (3, 0x100000000)])
     rdS s.my 1 2 = .ok 5 ∧ rdS s.my 1 3 = .ok 0x100000000 ∧ Say.saResult 0 (fun _ _ v => v) 5 0x100000000 ≠ 0 ∧
     Say.saResult 1 (fun _ _ v => v) 5 0x100000000 = 0 ∧ s.freeS 1 1) :=
  ⟨rfl, rfl, by decide, by decide, .inr (free_of_none rfl _ _ _ _)⟩
theorem test_meets_scalar_immediates :
    (let s := on (sregs [(55, 9)])
     Say.sbRow (.shli 1 55 63) = some (1, 55, 63, fun x _ => BitVec.ofNat 64 (x.toNat * 2 ^ (63 : BitVec 8).toNat)) ∧
     Instr.wf (.shli 1 55 63) ∧ rdS s.my 1 55 = .ok 9 ∧ s.freeS 1 1 ∧
     Say.sbRow (.addi 0 55 0x80) = some (0, 55, 0x80, fun x i => x + i) ∧ Instr.wf (.addi 0 55 0x80)) :=
  ⟨rfl, rfl, rfl, .inr (free_of_none rfl _ _ _ _), rfl, rfl⟩
theorem test_meets_constants : (let s := on (sregs [(9, 9)]); s.freeS 9 1 ∧ rdS s.my 1 9 = .ok 9) := ⟨.inr (free_of_none rfl _ _ _ _), rfl⟩
/-- Queue heads in each state, at the first and the last queue, and empty ones. -/
theorem test_meets_heads :
    (let c : Ctx := { q := { lq := [(0, [{ st := .arrived, data := 5 }]), (3, [{ st := .reserved }]), (7, [{ st := .faulted, faddr := 64 }])] } }
     (∃ r, fget [] c.q.lq 0 = { st := .arrived, data := 5 } :: r) ∧ (∃ r, fget [] c.q.lq 3 = { st := .reserved } :: r) ∧
     (∃ r, fget [] c.q.lq 7 = { st := .faulted, faddr := 64 } :: r) ∧ fget [] c.q.lq 6 = []) :=
  ⟨⟨_, rfl⟩, ⟨_, rfl⟩, ⟨_, rfl⟩, rfl⟩
theorem test_meets_push : rdS (on (sregs [(5, 9)])).my 1 5 = .ok 9 := rfl
/-- Each file of `get` at its last register and lane; a spill with room, and a value to fill. -/
theorem test_meets_scalar_moves :
    Instr.wf (.get 1 0 23 15) ∧ Instr.wf (.get 1 1 23 15) ∧ Instr.wf (.get 1 2 15 6) ∧ Instr.wf (.get 1 3 15 0) ∧ Instr.wf (.get 1 4 7 1) ∧
    Instr.wf (.get 55 5 15 15) ∧ (on {}).freeS 55 2 ∧ rdS (on (sregs [(1, 7)])).my 1 1 = .ok 7 ∧
    (spillEntry (on (sregs [(1, 7)])) (stagedSpills (on (sregs [(1, 7)])).my) 255 7 false).isSome ∧
    (let s := on { q := { spill := [(255, { value := 5, wide := false, place := .area })] } }
     fget? s.my.q.spill 255 = some { value := 5, wide := false, place := .area } ∧ s.freeS 1 8) :=
  ⟨rfl, rfl, rfl, rfl, rfl, rfl, .inr (free_of_none rfl _ _ _ _), rfl, by decide +kernel, rfl, .inr (free_of_none rfl _ _ _ _)⟩
/-- A branch may stand at the start of a program; its operand on either side of zero. -/
theorem test_meets_branches :
    Say.mayStand (on (sregs [(4, 0xFFFFFFFFFFFFFFFF)])).my true ∧ rdS (on (sregs [(4, 0xFFFFFFFFFFFFFFFF)])).my 1 4 = .ok 0xFFFFFFFFFFFFFFFF ∧
    (∃ p, Say.condRow (.blz 4 1 0x1000) = some (4, 1, 0x1000, p) ∧ p 0xFFFFFFFFFFFFFFFF = true ∧ p 0 = false) ∧
    (∃ p, Say.condRow (.bz 4 0 0xFFF) = some (4, 0, 0xFFF, p) ∧ p 0 = true ∧ p 1 = false) :=
  ⟨⟨rfl, by intro _ l hl; exact absurd hl List.not_mem_nil⟩, rfl, ⟨_, rfl, rfl, rfl⟩, ⟨_, rfl, rfl, rfl⟩⟩
theorem test_meets_jumps :
    (let s := on (sregs [(4, 0x100), (5, 0x101)])
     Say.mayStand s.my true ∧ s.free 1 0 55 1 ∧ rdS s.my 1 4 = .ok 0x100 ∧ rdS s.my 1 5 = .ok 0x101 ∧
     (0x100 : W64).toNat % 4 = 0 ∧ (0x101 : W64).toNat % 4 ≠ 0) :=
  ⟨⟨rfl, by intro _ l hl; exact absurd hl List.not_mem_nil⟩, free_of_none rfl _ _ _ _, rfl, rfl, by decide, by decide⟩
/-- A loop at the first level and at the last, inside another whose body ends no sooner. -/
theorem test_meets_loops :
    (let l : LoopLvl := { start := 0, last := 0xFFFFFFFFFFFFFFFF, after := 0, nbody := 1, rem := 1, iter := 0, finish := false, buf := [] }
     let s := on { regs := { s := [(7, 3)] }, flow := { npc0 := 0x40, framed := true, loops := [l, l, l, l, l] } }
     Say.mayStand s.my false ∧ rdS s.my 1 7 = .ok 3 ∧ s.my.flow.framed = true ∧ (5 : BitVec 3).toNat = s.my.flow.loops.length ∧
     (5 : BitVec 3).toNat < 6 ∧ (1 : BitVec 11) ≠ 0 ∧
     (∀ o, s.my.flow.loops.getLast? = some o → (bodyEnd (0x40 : W64) (frameBody s 1 0x40)).1.toNat ≤ o.last.toNat) ∧
     (4 : BitVec 3).toNat < s.my.flow.loops.length) ∧
    (let s := on { regs := { s := [(7, 0x100000000)] }, flow := { framed := true } }
     rdS s.my 1 7 = .ok 0x100000000 ∧ (0x100000000 : W64).setWidth 32 = (0 : W32) ∧ (0 : BitVec 3).toNat = s.my.flow.loops.length ∧
     s.my.flow.loops.getLast? = none) :=
  ⟨⟨⟨rfl, by intro h; exact absurd h Bool.false_ne_true⟩, rfl, rfl, rfl, by decide, by decide,
    by intro o ho; cases ho; decide +kernel, by decide⟩, rfl, by decide, rfl, rfl⟩
/-- A loop with two passes left, with one, and one that is finishing. -/
theorem test_meets_loop_ends :
    (let l : LoopLvl := { start := 0, last := 0x40, after := 0x50, nbody := 1, rem := 2, iter := 0, finish := false, buf := [] }
     let c : Ctx := { regs := { sa := [(0, 8)], ca := [(0, 64)] }, flow := { npc0 := 0x40, loops := [l] } }
     c.flow.loops = [] ++ [l] ∧ l.last = c.flow.npc0 ∧ c.iss.fx = [] ∧ c.iss.br = none ∧ c.flow.npc1 = 1 ∧ l.finish = false ∧ 1 < l.rem ∧
     fget 0 c.regs.sa (8 * 0 + 0) ≠ 0) ∧
    (let o : LoopLvl := { start := 0, last := 0x80, after := 0x90, nbody := 1, rem := 2, iter := 0, finish := false, buf := [] }
     let l : LoopLvl := { start := 0, last := 0x40, after := 0x50, nbody := 1, rem := 1, iter := 0, finish := false, buf := [] }
     let c : Ctx := { flow := { npc0 := 0x40, loops := [o, l] } }
     c.flow.loops = [o] ++ [l] ∧ l.last = c.flow.npc0 ∧ l.rem ≤ 1 ∧ (∀ x ∈ [o], x.last ≠ c.flow.npc0)) :=
  ⟨⟨rfl, rfl, rfl, rfl, rfl, rfl, by decide, by decide⟩, rfl, rfl, by decide, by decide⟩
theorem test_meets_waits :
    (let s := on { q := { ld := 5 }, flow := { wake := true } }
     ((5 : BitVec 5) = 31 ∨ s.my.q.ld ≤ (5 : BitVec 5).toNat) ∧ (4 : BitVec 5) ≠ 31 ∧ (4 : BitVec 5).toNat < s.my.q.ld ∧ s.my.stamped = false ∧
     s.my.flow.wake = true) ∧
    (.frame ∈ ({ iss := { fx := [.frame] } } : Ctx).iss.fx ∧ .frame ∉ ({} : Ctx).iss.fx ∧ ({} : Ctx).lvl = 0 ∧ (atLevel 1).lvl ≠ 0) :=
  ⟨⟨by decide, by decide, by decide, rfl, rfl⟩, by decide, by decide, rfl, by decide⟩
theorem test_meets_pref_refusal :
    (let wd : W32 := 0x5A804000
     wd.extractLsb' 28 3 = 5 ∧ wd.extractLsb' 21 7 = 0x54 ∧ wd.extractLsb' 14 3 ≠ 0) ∧
    (let wd : W32 := 0x6A81C000
     wd.extractLsb' 28 3 = 6 ∧ wd.extractLsb' 21 7 = 0x54 ∧ wd.extractLsb' 14 3 ≠ 0) := by decide
theorem test_meets_returns :
    (let s := on { sys := { status := 1, estatus := 0 } }
     Say.mayStand s.my false ∧ s.my.lvl ≠ 0 ∧ s.my.pend = [] ∧ (s.my.lvl = 1 → tretOk s.my s.my.sys.estatus = true) ∧ s.my.lvl ≠ 2) ∧
    (let s := on { sys := { status := 2, fstatus := 1 } }
     Say.mayStand s.my false ∧ s.my.lvl ≠ 0 ∧ s.my.pend = [] ∧ s.my.lvl = 2 ∧ tretOk s.my s.my.sys.fstatus = true) ∧
    (let s := on {}
     Say.mayStand s.my false ∧ s.my.lvl = 0 ∧ s.my.pend = [] ∧ s.my.barFault = none ∧
     (∀ p ∈ s.my.q.lq, ∀ e ∈ p.2, e.st ≠ .reserved)) :=
  ⟨⟨⟨rfl, by intro h; exact absurd h Bool.false_ne_true⟩, by decide, rfl, by decide, by decide⟩,
   ⟨⟨rfl, by intro h; exact absurd h Bool.false_ne_true⟩, by decide, rfl, by decide, by decide⟩,
   ⟨rfl, by intro h; exact absurd h Bool.false_ne_true⟩, rfl, rfl, rfl, by intro p hp; exact absurd hp List.not_mem_nil⟩
/-- Trap entry from each level: to the handler, to firmware (from the handler, and for BREAK under a debugger), and the halt. -/
theorem test_meets_trap_levels :
    ((on {}).ctx 0).lvl = 0 ∧ ((0x02 : TrapCode) ≠ 0x0C ∨ ((on {}).ctx 0).dbg.att = false) ∧ ((on (atLevel 1)).ctx 0).lvl = 1 ∧
    (((on { dbg := { att := true } }).ctx 0).lvl = 0 ∧ ((on { dbg := { att := true } }).ctx 0).dbg.att = true) ∧
    2 ≤ ((on (atLevel 2)).ctx 0).lvl := by decide
/-- A register readable at the level, one that is not, one writable, one that is not, one that has no writer, and no register. -/
theorem test_meets_system_registers :
    (∃ v, ((0x0F0 : BitVec 12).toNat, 2, some 2, v) ∈ Say.sysRows ∧ 2 ≤ (on (atLevel 2)).my.lvl ∧ (on (atLevel 1)).my.lvl < 2) ∧
    (∃ v, ((0x000 : BitVec 12).toNat, 0, some 1, v) ∈ Say.sysRows ∧ (on {}).my.lvl < (some 1).getD 0 ∧ (some 1).getD 0 ≤ (on (atLevel 1)).my.lvl) ∧
    (∃ v, ((0x010 : BitVec 12).toNat, 0, none, v) ∈ Say.sysRows ∧ (none : Option Nat).getD 0 ≤ (on {}).my.lvl) ∧
    (0x009 : BitVec 12).toNat ∉ Say.sysRows.map (·.1) ∧ (0xFFF : BitVec 12).toNat ∉ Say.sysRows.map (·.1) ∧ (on {}).freeS 1 2 :=
  ⟨⟨_, List.mem_of_getElem? (i := 27) rfl, by decide, by decide⟩,
   ⟨_, List.mem_of_getElem? (i := 0) rfl, by decide, by decide⟩,
   ⟨_, List.mem_of_getElem? (i := 9) rfl, by decide⟩,
   by decide, by decide, .inr (free_of_none rfl _ _ _ _)⟩

theorem test_meets_vector_words :
    (let s := on { regs := { vb := [(1, 5), (2, 6)], kb := [(3, 0x80000001)] } }
     Say.vRow (.vadd .v1 8 23 1 2 3) = some (.each .v1 8 23 1 2 3 4 (Say.arith 8 (· + ·) addV)) ∧ Instr.wf (.vadd .v1 8 23 1 2 3) ∧
     rdV s.my .v1 1 = .ok 5 ∧ rdV s.my .v1 2 = .ok 6 ∧ s.freeV .v1 23 4 ∧ Say.active (rdK s.my .v1 3) 32 31 ∧
     ¬ Say.active (rdK s.my .v1 3) 32 1 ∧ Say.active (rdK s.my .v1 3) 16 63 ∧ ¬ Say.active (rdK s.my .v1 3) 8 4 ∧
     Say.active (rdK s.my .v1 3) 8 3) ∧
    (Say.vRow (.vlane .v0 14 0 1 2 0)).isSome = true ∧ Instr.wf (.vlane .v0 14 0 1 2 0) ∧ (Say.vRow (.viota .v0 0 23 0)).isSome = true ∧
    Instr.wf (.viota .v0 0 23 0) ∧ (Say.vRow (.vshli .v0 5 0 1 31)).isSome = true ∧ Instr.wf (.vshli .v0 5 0 1 31) :=
  ⟨⟨rfl, rfl, rfl, rfl, free_of_none rfl _ _ _ _, rfl, Bool.false_ne_true, rfl, Bool.false_ne_true, rfl⟩,
    rfl, rfl, rfl, rfl, rfl, rfl⟩
/-- A sum that is finite and inexact, one that is exact, and one that overflows. -/
theorem test_meets_two_sums :
    (let s := on { regs := { va := [(1, 0x7F7FFFFF3F8000003F800000), (2, 0x7F7FFFFF3F80000033800000)] } }
     Instr.wf (.vtsum .v0 8 22 1 2 0) ∧ ffOf (8 : BitVec 4).toNat = some ff32 ∧
     rdV s.my .v0 1 = .ok 0x7F7FFFFF3F8000003F800000 ∧ rdV s.my .v0 2 = .ok 0x7F7FFFFF3F80000033800000 ∧
     s.freeV .v0 22 4 ∧ s.freeV .v0 23 4) ∧
    (let e := fun (x y : Nat) => addV (decF ff32 x) (decF ff32 y)
     let sum := fun (x y : Nat) => encF ff32 .rne false (e x y)
     isFin (decF ff32 (sum 0x7F7FFFFF 0x7F7FFFFF)) = false ∧ isFin (decF ff32 (sum 0x3F800000 0x33800000)) = true ∧
     (match addV (e 0x3F800000 0x33800000) (negV (decF ff32 (sum 0x3F800000 0x33800000))) with | .fin _ q _ => decide (q ≠ 0) | _ => false) = true ∧
     (match addV (e 0x3F800000 0x3F800000) (negV (decF ff32 (sum 0x3F800000 0x3F800000))) with | .fin _ q _ => decide (q = 0) | _ => false) = true) :=
  ⟨⟨rfl, rfl, rfl, rfl, free_of_none rfl _ _ _ _, free_of_none rfl _ _ _ _⟩, by decide +kernel⟩
theorem test_meets_compares :
    (let s := on { regs := { va := [(1, 5)], ka := [(1, 1)] } }
     Say.cmpRow (.vcle .v0 3 3 1 0 1) = some (.v0, 3, 3, 1, 0, 1, fun x y => decide (x ≤ y), fun x y => ltV x y || eqV x y) ∧
     Instr.wf (.vcle .v0 3 3 1 0 1) ∧ rdV s.my .v0 1 = .ok 5 ∧ rdV s.my .v0 0 = .ok 0 ∧ s.freeK .v0 3 2 ∧ s.freeK .v0 0 2 ∧
     (rdK s.my .v0 1).getLsbD 0 = true ∧ (rdK s.my .v0 1).getLsbD 31 = false) :=
  ⟨rfl, rfl, rfl, rfl, .inr (free_of_none rfl _ _ _ _), .inl rfl, rfl, rfl⟩
theorem test_meets_mask_words :
    (on {}).freeK .v1 3 1 ∧ (on {}).freeK .v1 0 1 ∧ 3 < (4 : BitVec 5).toNat ∧ 3 < (31 : BitVec 5).toNat :=
  ⟨.inr (free_of_none rfl _ _ _ _), .inl rfl, by decide, by decide⟩
/-- Reductions over 32 and over 64 elements, with inactive ones. -/
theorem test_meets_reductions :
    (let s := on { regs := { va := [(1, 5)], ka := [(2, 0x7FFFFFFF)] } }
     (∃ op, Say.redRow (.vradd .v0 8 23 1 2) = some (.v0, 8, 23, 1, 2, op, reduceIdent 8 0)) ∧ Instr.wf (.vradd .v0 8 23 1 2) ∧
     (∃ op, Say.redRow (.vrmin .v0 2 0 1 0) = some (.v0, 2, 0, 1, 0, op, reduceIdent 2 2)) ∧ Instr.wf (.vrmin .v0 2 0 1 0) ∧
     rdV s.my .v0 1 = .ok 5 ∧ s.freeV .v0 23 6 ∧ fmtW (8 : BitVec 4).toNat = 32 ∧ fmtW (2 : BitVec 4).toNat = 16 ∧
     (5 : BitVec 4).toNat < 6) :=
  ⟨⟨_, rfl⟩, rfl, ⟨_, rfl⟩, rfl, rfl, free_of_none rfl _ _ _ _, rfl, rfl, by decide⟩
/-- No active element; and a first active element of highest rank among equals. -/
theorem test_meets_rank :
    (let s := on { regs := { ka := [(1, 0), (2, 4)] } }
     Instr.wf (.vrarg .v0 8 23 1 1) ∧ rdV s.my .v0 1 = .ok 0 ∧ s.freeV .v0 23 6 ∧
     (∀ j, ¬(j < 1024 / 32 ∧ Say.active (rdK s.my .v0 1) 32 j)) ∧
     Say.active (rdK s.my .v0 2) 32 2 ∧
     (∀ i, (i < 1024 / 32 ∧ Say.active (rdK s.my .v0 2) 32 i) → rankKey 8 (lane 32 (0 : Wide) i) = rankKey 8 (lane 32 (0 : Wide) 2) → 2 ≤ i)) := by
  refine ⟨rfl, rfl, free_of_none rfl _ _ _ _, ?_, rfl, ?_⟩
  · rintro j ⟨_, h⟩
    exact absurd h (by simp [Say.active, rdK, on, State.my, State.ctx, State.setCtx, State.reset, fget, fset])
  · rintro i ⟨hi, h⟩ _
    have : ∀ i < 32, Say.active (rdK (on { regs := { ka := [(1, 0), (2, 4)] } }).my .v0 2) 32 i → 2 ≤ i := by
      unfold Say.active; decide +kernel
    exact this i hi h
theorem test_meets_conversions :
    (let s := on { regs := { va := [(6, 0x43E80000)] } }
     Instr.wf (.vcvt .v0 9 5 6 8 2 1) ∧ Instr.wf (.vcvt .v0 8 5 6 9 0 0) ∧ Instr.wf (.vcvt .v0 4 5 6 8 1 0) ∧
     rdV s.my .v0 6 = .ok 0x43E80000 ∧ s.freeV .v0 5 3) :=
  ⟨rfl, rfl, rfl, rfl, free_of_none rfl _ _ _ _⟩
theorem test_meets_vector_moves :
    Instr.wf (.vget .v0 23 0 55 0) ∧ Instr.wf (.vget .v0 23 0 55 15) ∧ Instr.wf (.vget .v0 0 0 0 16) ∧ Instr.wf (.vget .v0 0 0 0 17) ∧
    Instr.wf (.vget .v0 0 0 0 18) ∧ Instr.wf (.vget .v0 0 0 0 19) ∧ (on {}).freeV .v0 23 2 ∧ (on {}).freeK .v0 3 2 :=
  ⟨rfl, rfl, rfl, rfl, rfl, rfl, free_of_none rfl _ _ _ _, .inr (free_of_none rfl _ _ _ _)⟩
/-- A `vdefer` of two values that fits, at the 64th entry and beyond it in the spill area; a `vdrain` with and without a mask. -/
theorem test_meets_deferrals :
    (let d : Defer := ⟨1, 2, 31, 3⟩
     let s := on { regs := { ka := [(1, 1)] }, q := { defer := List.replicate 63 d } }
     let c1 : Ctx := { s.my with q := { s.my.q with defer := s.my.q.defer ++ [⟨0, 0, 0, 0⟩] } }
     Instr.wf (.vdefer .v0 1 1 2 1) ∧ rdV s.my .v0 1 = .ok 0 ∧ rdV s.my .v0 2 = .ok 0 ∧ c1.q.defer.length ≤ 64 ∧
     Instr.wf (.vdrain .v0 22 0 3) ∧ s.freeV .v0 22 4 ∧ s.freeV .v0 23 4 ∧ s.freeV .v0 0 4 ∧ s.free (VSlot.cls .v0) 1 3 4 ∧
     s.my.q.defer[31]? = some d ∧ d.lane < 32) ∧
    (on {}).my.q.defer.length ≤ 0 ∧ Instr.wf (.vdrain .v0 0 2 0) :=
  ⟨⟨rfl, rfl, rfl, by decide, rfl, free_of_none rfl _ _ _ _, free_of_none rfl _ _ _ _, free_of_none rfl _ _ _ _,
    free_of_none rfl _ _ _ _, rfl, by decide⟩, by decide, rfl⟩
theorem test_meets_vector_spills :
    (let s := on { regs := { va := [(1, 5)] }, q := { spill := [(0, { value := 7, wide := true, place := .area })] },
                   tiles := { share := { spillLen := 4096 } } }
     rdV s.my .v0 1 = .ok 5 ∧ (spillEntry s (stagedSpills s.my) 255 5 true).isSome = true ∧
     fget? s.my.q.spill 0 = some { value := 7, wide := true, place := .area } ∧ s.freeV .v0 1 8) :=
  ⟨rfl, by decide +kernel, rfl, free_of_none rfl _ _ _ _⟩

/-- A bf16 tile in slot 0 at the start of the share, one in slot 255, and a ring of two. -/
def share0 : Share :=
  { len := 0x40000, slots := [(0, { fmt := 2, gloved := false, depth := 1, base := 0 }), (255, { fmt := 2, gloved := false, depth := 1, base := 0x8000 })]
    rings := [(2, { fmt := 2, gloved := false, depth := 2, base := 0x10000 })], accCnt := 16, stashBase := 0x20000, stashLen := 0x2000
    spillLen := 4096 }
/-- The reset state with context 0 in issue as given, and the first 2 MiB of space 0 mapped readable and writable in its core's TLB,
the die's functions ready. -/
def mapped (c : Ctx) : State :=
  { on c with cores := [(0, { tlb := [{ space := 0, va := 0, bits := 21, leaf := 0x1B }] })], dies := [(0, { ctl := [(0x4500, 0x7F)] })],
              dev := { State.reset.dev with ctl := [(0x4100, 1)] } }
/-- A context with the tiles above and address registers as listed. -/
def copies (l : List (Nat × W64)) : Ctx := { regs := { ca := l }, tiles := { share := share0 } }

/-- The forms of an address at their edges: the last global, the first and last local one, one that has neither form. -/
theorem test_meets_address_forms :
    windowOff 0 0x8000000000000000 = none ∧ (0x8000000000000002 : W64).toNat % 4 ≠ 0 ∧
    (2 ^ 57 ≤ (0x0200000000000000 : W64).toNat ∧ (0x0200000000000000 : W64).toNat / 2 ^ 22 ≠ 2 ^ 41) ∧
    (0x8000000000000000 : W64).toNat / 2 ^ 22 = 2 ^ 41 ∧ (0x80000000003FFFFC : W64).toNat / 2 ^ 22 = 2 ^ 41 ∧
    (0x8000000000400000 : W64).toNat / 2 ^ 22 ≠ 2 ^ 41 ∧
    (∃ d ∈ share0.slots ++ share0.rings, d.2.base ≤ 0x1FFFC ∧ 0x1FFFC < d.2.base + d.2.span) ∧
    (¬ ∃ d ∈ share0.slots ++ share0.rings, d.2.base ≤ 0x20000 ∧ 0x20000 < d.2.base + d.2.span) ∧
    (xlate (mapped {}) 0 0 0x1FFFFC { r := true } = .ok { leaf := 0x1B, bits := 21, key := keyHbm 0 0x1FFFFC }) ∧
    (xlate (mapped {}) 0 0 0x200000 { r := true } = .error (.code 0x07)) ∧ (xlate (mapped {}) 0 0 0 { x := true } = .error (.code 0x08)) := by
  and_intros <;> first | decide +kernel | rfl
/-- Loads at the last count that leaves room: in the seat's tile, in core store elsewhere, in memory; strided and by an index entry. -/
theorem test_meets_loads :
    (let s := mapped { copies [(1, 0x8000000000007FF8), (2, 0x1FFF80), (3, 4), (4, 0x8000000000030000)] with
       q := { ld := 254, sq := [(3, [{ data := 0xFFFFFFFF00000001, count := 8 }])] } }
     s.my.q.ld < 255 ∧ Say.loadRow s (.ld64 .c0 1 7 0) = some (.c0, 7, 0x8000000000007FF8, 8, 8, 0) ∧
     Say.loadRow s (.vld .c0 2 0 0) = some (.c0, 0, 0x1FFF80, 128, 4, 0) ∧ windowOff s.my.run.lcore 0x8000000000007FF8 = none ∧
     windowOff s.my.run.lcore 0x1FFF80 = none ∧
     (checkUnits s (CSlot.cls .c0) 8 { r := true } (Say.named (Say.unitsAt 0x8000000000007FF8 8))).isOk = true ∧
     (checkUnits s (CSlot.cls .c0) 4 { r := true } (Say.named (Say.unitsAt 0x1FFF80 128))).isOk = true ∧
     (checkUnits s (CSlot.cls .c0) 4 { r := true } (Say.named (Say.lanesAt 0x8000000000030000 4))).isOk = true ∧
     fget [] s.my.q.sq 3 = [{ data := 0xFFFFFFFF00000001, count := 8 }] ∧
     (checkUnits s (CSlot.cls .c0) 4 { r := true } (Say.named (Say.indexed 0x1FFF80 3 { data := 0xFFFFFFFF00000001, count := 8 }))).isOk = true) := by
  and_intros <;> first | decide +kernel | rfl
theorem test_meets_stores :
    (let e : WEntry := { data := 0x0000000100000002, count := 8 }
     let s := mapped { copies [(1, 0x8000000000007FF8), (2, 0x1FFF80), (3, 4)] with q := { st := 254, sq := [(0, [e, e]), (3, [e])] } }
     s.my.q.st < 255 ∧ Say.storeRow s (.st64 .c0 1 3 0) = some (.c0, 3, 0x8000000000007FF8, 8, 8) ∧
     Say.storeRow s (.vst .c0 2 0 0) = some (.c0, 0, 0x1FFF80, 128, 4) ∧ windowOff s.my.run.lcore 0x1FFF80 = none ∧
     fget [] s.my.q.sq 3 = e :: [] ∧ fget [] s.my.q.sq 0 = e :: [e] ∧
     (checkUnits s (CSlot.cls .c0) 8 { w := true } (Say.named (Say.unitsAt 0x8000000000007FF8 8))).isOk = true ∧
     (checkUnits s (CSlot.cls .c0) 4 { w := true } (Say.named (Say.unitsAt 0x1FFF80 128))).isOk = true ∧
     (checkUnits s (CSlot.cls .c0) 4 { w := true } (Say.named (Say.lanesAt 0x100 4))).isOk = true ∧
     fget [] (fset s.my.q.sq 0 [e]) 0 = e :: [] ∧
     (checkUnits (s.setMy { s.my with q := { s.my.q with sq := fset (fset s.my.q.sq 0 [e]) 0 [] } }) (CSlot.cls .c0) 4 { w := true }
       (Say.named (Say.indexed 0x1000 2 e))).isOk = true) := by
  and_intros <;> first | decide +kernel | rfl
/-- A management core at program and at handler level; a register of eight bytes, a width that it does not take. -/
theorem test_meets_control_window :
    (let c : Ctx := { regs := { ca := [(1, 0x00F0000000004000), (2, 0x00F0000000004004)] }, run := { lcore := 2048 },
                      q := { sq := [(1, [{ data := 5, count := 8 }])] } }
     let s := on c
     let h := on { c with sys := { status := 1 } }
     windowOff s.my.run.lcore 0x00F0000000004000 = some 0x4000 ∧ windowOff s.my.run.lcore 0x00F000000007FFF8 = some 0x7FFF8 ∧
     Say.loadRow s (.ld64 .c0 1 0 0) = some (.c0, 0, 0x00F0000000004000, 8, 8, 0) ∧ s.my.lvl = 0 ∧ h.my.lvl ≠ 0 ∧
     windowFits 0x4000 8 = true ∧ windowFits 0x4004 4 = false ∧ Say.loadRow h (.ldn32 .c0 2 0 0) = some (.c0, 0, 0x00F0000000004004, 4, 4, 0) ∧
     windowOff h.my.run.lcore 0x00F0000000004004 = some 0x4004 ∧ h.my.q.ld < 255 ∧ h.my.q.st < 255 ∧
     Say.storeRow h (.st64 .c0 1 1 0) = some (.c0, 1, 0x00F0000000004000, 8, 8) ∧
     fget [] h.my.q.sq 1 = [{ data := 5, count := 8 }]) := by
  and_intros <;> first | decide +kernel | rfl
/-- Atomics of one entry and of two, relaxed and in each order, with accesses in flight. -/
theorem test_meets_atomics :
    (let a : WEntry := { data := 5, count := 8 }
     let b : WEntry := { data := 6, count := 4 }
     let l : LoadRec := { id := 7, agent := 0, core := 0, die := 0, ctx := 0, q := 0, kind := .answer 0, counted := false }
     let w : WriteRec := { id := 8, agent := agentOf 0 0, core := 0, die := 0, home := 0, cells := [] }
     let s := { mapped { copies [(1, 0x100)] with q := { ld := 254, sq := [(2, [a, b])] } } with loads := [l], writes := [w] }
     (∃ f, Say.atomicRow s (.aadd .c0 1 6 3 3 8) = some ⟨.c0, 6, 0x108, 3, 3, 1, f⟩) ∧ (∃ f, Say.atomicRow s (.acas .c0 1 6 0 0 0) = some ⟨.c0, 6, 0x100, 0, 0, 2, f⟩) ∧
     s.my.q.ld < 255 ∧ fget [] s.my.q.sq ((6 : BitVec 3).toNat % 4) = [a, b] ++ [] ∧ fget [] s.my.q.sq ((6 : BitVec 3).toNat % 4) = [a] ++ [b] ∧
     (checkUnits s (CSlot.cls .c0) 8 { r := true, w := true } [(0x108, 8)]).isOk = true ∧
     (checkUnits s (CSlot.cls .c0) 8 { r := true, w := true } [(0x100, 8)]).isOk = true ∧
     (∃ m ∈ s.loads, m.ctx = s.me) ∧ (∃ w ∈ s.writes, w.agent = agentOf s.me 0)) :=
  ⟨⟨_, rfl⟩, ⟨_, rfl⟩, by decide, rfl, rfl, by decide +kernel, by decide +kernel, ⟨_, .head _, rfl⟩, ⟨_, .head _, rfl⟩⟩
theorem test_meets_fences :
    (let l : LoadRec := { id := 7, agent := 0, core := 0, die := 0, ctx := 0, q := 0, kind := .answer 0, counted := false }
     let w : WriteRec := { id := 8, agent := agentOf 0 5, core := 0, die := 0, home := 0, cells := [] }
     let x : Cmd := { op := .matrix, pc := 0, seq := 0, lvl := 0, slot := 0, path := 2, counted := 0 }
     let s := { on { cmds := [x] } with loads := [l], writes := [w] }
     (1 : BitVec 2) ≠ 0 ∧ (5 : BitVec 3).toNat ≤ 5 ∧ (4 : BitVec 3).toNat ≤ 4 ∧ (∃ m ∈ s.loads, m.ctx = s.me) ∧
     (∃ w ∈ s.writes, w.agent = agentOf s.me (5 : BitVec 3).toNat) ∧ (∃ x ∈ s.my.cmds, x.path = (2 : BitVec 3).toNat)) :=
  ⟨by decide, by decide, by decide, ⟨_, .head _, rfl⟩, ⟨_, .head _, rfl⟩, ⟨_, .head _, rfl⟩⟩
/-- A durable write still to persist, none, and a barrier armed on a persisted one. -/
theorem test_meets_pbar :
    (let w : WriteRec := { id := 8, agent := agentOf 0 0, core := 0, die := 0, home := 0, cells := [], durable := true }
     let s := { on { q := { durable := [{ id := 8, k := 4 }] }, per := { slot := some 0 } } with writes := [w] }
     ¬(∀ n ∈ s.my.q.durable, n ∉ s.my.iss.dur → needMet s s.me 0 n = true) ∧ s.my.stamped = false) ∧
    (let s := on { per := { slot := some 0 } }
     (∀ n ∈ s.my.q.durable, n ∉ s.my.iss.dur → needMet s s.me 0 n = true) ∧ (recordSlot s s.my).isSome = true) ∧
    (let s := on { per := { slot := some 0, armed := true, wait := [{ id := 8, k := 4 }] } }
     s.dev.powered = true ∧ (s.ctx 0).per.armed = true ∧ (∀ n ∈ (s.ctx 0).per.wait, needMet s 0 0 n = true) ∧
     (recordSlot s (s.ctx 0)).isSome = true ∧ canonicalMemory s) := by
  unfold canonicalMemory; decide +kernel
theorem test_meets_address_words :
    (on {}).free (CSlot.cls .c1) 0 15 1 ∧ (on {}).free (CSlot.cls .c1) 0 15 2 ∧ Instr.wf (.cget .c1 15 0 63 0) ∧ Instr.wf (.cget .c1 15 1 23 15) ∧
    Instr.wf (.cget .c1 15 2 23 0) ∧ Instr.wf (.cget .c1 15 3 15 15) ∧ Instr.wf (.cget .c1 15 4 15 0) ∧ Instr.wf (.cget .c1 15 5 15 0) ∧
    rdS (on (sregs [(9, 7)])).my (CSlot.cls .c1) 9 = .ok 7 :=
  ⟨free_of_none rfl _ _ _ _, free_of_none rfl _ _ _ _, rfl, rfl, rfl, rfl, rfl, rfl, rfl⟩

/-- Tile words that start, wait and are refused: a load into an empty slot and into a filling one, a store of a ready tile, a
transpose, and operands beyond 255, undeclared and named twice. -/
theorem test_meets_tile_words :
    (let t : Tiles := { share := share0, slot := [(255, .ready)] }
     let s := on { regs := { ca := [(1, 0x40), (2, 255), (3, 0x80), (4, 256), (5, 0)] }, tiles := t, q := { tl := 254 } }
     s.my.q.tl < 255 ∧ (∃ r, Say.tileRow s (.tloadSlot .c0 1 3 0 1) = some r ∧ r.bad = false ∧ r.ready = true ∧ r.glove = false ∧
       r.addr = some (0x40, some 0x80)) ∧
     tileFault s.my (.tloadSlot .c0 1 3 0 1) false = none ∧ Say.tileFits false 0x40 (some 0x80) ∧
     (∃ r, Say.tileRow s (.tloadSlot .c0 1 3 255 1) = some r ∧ r.bad = false ∧ r.ready = false) ∧
     tileFault s.my (.tloadSlot .c0 1 3 255 1) false = none ∧ s.my.stamped = false ∧
     (∃ r, Say.tileRow s (.ttrn .c0 2 0) = some r ∧ r.bad = false ∧ r.ready = true ∧ r.addr = none) ∧ tileFault s.my (.ttrn .c0 2 0) false = none ∧
     tileFault s.my (.ttrn .c0 4 0) false = some (4, 256) ∧ tileFault s.my (.ttrn .c0 1 0) false = some (1, 64) ∧
     tileFault s.my (.ttrn .c0 5 0) false = some (3, 0) ∧ tileFault s.my (.tfree .c0 255) false = none ∧ slotSt s.my.tiles 255 = .ready ∧
     tileFault s.my (.tfree .c0 0) false = none ∧ slotSt s.my.tiles 0 = .empty) := by
  refine ⟨by decide, ⟨_, rfl, rfl, rfl, rfl, rfl⟩, by decide +kernel, ⟨by decide, by decide, ?_⟩, ⟨_, rfl, rfl, by decide +kernel⟩, ?_⟩
  · rintro p hp; cases hp; decide
  · refine ⟨by decide +kernel, rfl, ⟨_, rfl, rfl, by decide +kernel, rfl⟩, ?_⟩
    and_intros <;> decide +kernel
theorem test_meets_tgath :
    (let e : WEntry := { data := 7, count := 128 }
     let s := on { regs := { ca := [(1, 0x40), (3, 0x80)] }, tiles := { share := share0 }, q := { sq := [(3, [e, e, e, e, e])] } }
     s.my.q.tl < 255 ∧ tileFault s.my (.tgath .c0 1 3 0 3) (tfScaled (nameFmt s.my (0, 0))) = none ∧ slotSt s.my.tiles 0 = .empty ∧
     Say.tileFits (nameGl s.my (0, 0)) 0x40 (some 0x80) ∧ [e, e, e, e].length = 4 ∧ fget [] s.my.q.sq 3 = [e, e, e, e] ++ [e]) := by
  refine ⟨by decide, by decide +kernel, by decide, ⟨by decide, by decide, ?_⟩, rfl, rfl⟩
  rintro p hp; cases hp; decide
/-- The checks of tile operands one by one, with another word of the bundle that names the same tile. -/
theorem test_meets_tile_checks :
    (let c : Ctx := { copies [(2, 255), (4, 256), (5, 0)] with iss := { ins := [.tzero .c0 0, .tzero .c1 255] } }
     (∃ n ∈ tileNames c (.ttrn .c0 4 0), 256 ≤ n.2) ∧ (∀ n ∈ tileNames c (.ttrn .c0 2 0), n.2 < 256) ∧
     (∃ n ∈ tileNames c (.tzero .c0 1), declOf c n = none) ∧ (∀ n ∈ tileNames c (.ttrn .c0 2 0), declOf c n ≠ none) ∧
     (∃ n ∈ tileNames c (.ttrn .c0 2 0), n ∈ otherNames c (.ttrn .c0 2 0)) ∧ ¬(tileNames c (.ttrn .c0 5 0)).Nodup ∧
     (tileNames c (.tzero .c0 0)).Nodup ∧ (∀ n ∈ tileNames c (.tzero .c0 0), n ∉ otherNames c (.tzero .c0 0))) := by
  and_intros <;> decide +kernel
/-- An import entry of generation 4 and limit 0x1000, writable at index 1 and read-only at index 2: invalid, stale, at the limit and one
byte beyond it, misaligned, and accepted. -/
theorem test_meets_window_words :
    (let lim : WinEntry := BitVec.ofNat 192 (0x1000 * 2 ^ 111 + 4 * 2 ^ 151)
     let s : State := { on { regs := { ca := [(1, 0x100), (2, 0x101), (3, 0x0200000000000000), (4, 0x0001040000000F00), (5, 0x0001040000000F01),
                                             (6, 0x0001050000000000), (7, 0x0002040000000000), (8, 0x0001040000000E80)] }, q := { cp := 254 } } with
                        dev := { State.reset.dev with imports := [(1, lim ||| 1), (2, lim ||| 3)] } }
     Say.windowRow s (.wput .c0 1 4 0) = some (.c0, 0x100, 0x0001040000000F00, 256, false, .wput 0x100 0x0001040000000F00 256) ∧
     Say.windowRow s (.wget .c0 1 7 15) = some (.c0, 0x100, 0x0002040000000000, 4096, true, .wget 0x100 0x0002040000000000 4096) ∧
     s.my.q.cp < 255 ∧ (fget 0 s.dev.imports 0).getLsbD 0 = false ∧ (fget 0 s.dev.imports 1).getLsbD 0 = true ∧
     (0x0001050000000000 : W64).toNat / 2 ^ 40 % 2 ^ 8 ≠ ((fget 0 s.dev.imports 1).extractLsb' 151 8).toNat ∧
     (0x0001040000000F00 : W64).toNat / 2 ^ 40 % 2 ^ 8 = ((fget 0 s.dev.imports 1).extractLsb' 151 8).toNat ∧
     (0x0001040000000F00 : W64).toNat % 2 ^ 40 + 256 ≤ ((fget 0 s.dev.imports 1).extractLsb' 111 40).toNat ∧
     ((fget 0 s.dev.imports 1).extractLsb' 111 40).toNat < (0x0001040000000F01 : W64).toNat % 2 ^ 40 + 256 ∧
     (fget 0 s.dev.imports 2).getLsbD 1 = true ∧ (fget 0 s.dev.imports 1).getLsbD 1 = false ∧ (0x0001040000000E80 : W64).toNat % 2 ^ 40 % 256 ≠ 0 ∧
     (0x0001040000000F00 : W64).toNat % 2 ^ 40 % 256 = 0 ∧ (0x101 : W64).toNat % 256 ≠ 0 ∧ (0x100 : W64).toNat % 256 = 0 ∧
     2 ^ 57 ≤ (0x0200000000000000 : W64).toNat ∧ (0x100 : W64).toNat < 2 ^ 57 ∧ (∀ x ∈ s.my.cmds, x.seq ≠ s.my.ctr.seqno)) := by
  and_intros <;> first | decide +kernel | rfl
/-- A stash of two entries: a range that fits to its last byte and one beyond it, over mapped pages. -/
theorem test_meets_stash_words :
    (let s := mapped (copies [(1, 0x1FE000), (2, 0x1000), (3, 0)])
     s.my.q.cp < 255 ∧ (0x1FE000 : W64).toNat % 64 = 0 ∧ (0x1FE000 : W64).toNat % 4096 = 0 ∧ (0x1FE000 : W64).toNat < 2 ^ 57 ∧
     s.my.tiles.share.stashLen < (0x1000 : W64).toNat + 4096 * ((1 : BitVec 8).toNat + 1) ∧
     (0 : W64).toNat + 4096 * ((1 : BitVec 8).toNat + 1) ≤ s.my.tiles.share.stashLen ∧ (0 : W64).toNat % 4096 = 0 ∧
     (∀ j, j ≤ (1 : BitVec 8).toNat → ∃ x, xlate s s.my.run.lcore s.my.run.space (0x1FE000 + BitVec.ofNat 64 (4096 * j))
        { r := true, w := true, lvl := s.my.lvl } = .ok x ∧ pteDur x.leaf = false)) := by
  refine ⟨by decide, by decide, by decide, by decide, by decide, by decide, by decide, ?_⟩
  intro j hj
  refine ⟨{ leaf := 0x1B, bits := 21, key := keyHbm 0 (0x1FE000 + 4096 * j) }, ?_, show pteDur 0x1B = false by decide⟩
  match j, hj with
  | 0, _ => decide +kernel
  | 1, _ => decide +kernel
/-- A record address for `enq`, and a live launch that `cancel` names at each level, with one that no launch has. -/
theorem test_meets_launch_words :
    (let x : Launch := { rec_ := { graph := 5, phase := 6, job := 7 }, st := .running }
     let s := { mapped (copies [(1, 0x100), (2, 1)]) with dev := { State.reset.dev with ctl := [(0x4100, 1)], launches := [(1, x)] } }
     (0x100 : W64).toNat % 256 = 0 ∧ (0x100 : W64).toNat < 2 ^ 57 ∧
     (checkUnits s (CSlot.cls .c0) 256 { r := true } [(0x100, 256)]).isOk = true ∧ fget? s.dev.launches 1 = some x ∧
     (∀ f, x.st ≠ .ended f) ∧ (0x100 : W64).toNat ≠ 0 ∧ namedLaunches s 0 2 = [] ∧ namedLaunches s 3 7 = [1] ∧ namedLaunches s 1 0 = []) := by
  refine ⟨by decide, by decide, by decide +kernel, rfl, ?_, by decide, by decide +kernel, by decide +kernel, by decide +kernel⟩
  intro f h; cases h
theorem test_meets_exchange_moves :
    (let s := on { q := { lq := [(7, [{ st := .arrived, data := 9 }])] } }
     Instr.wf (.xget 15 0 7 0) ∧ Instr.wf (.xget 15 1 23 0) ∧ Instr.wf (.xget 15 2 23 0) ∧ Instr.wf (.xget 15 3 55 15) ∧ s.free 7 0 15 2 ∧
     headOf s.my 7 7 = .ok 9 ∧ s.free 7 2 15 2) :=
  ⟨rfl, rfl, rfl, rfl, free_of_none rfl _ _ _ _, rfl, free_of_none rfl _ _ _ _⟩
theorem test_meets_exchange_permutes :
    Instr.wf (.xshuf 8 15 0 1) ∧ Instr.wf (.xshuf 14 0 0 0) ∧ Instr.wf (.xshuf 0 0 0 0) ∧ (on {}).free 7 0 15 2 :=
  ⟨rfl, rfl, rfl, free_of_none rfl _ _ _ _⟩
theorem test_meets_blocks :
    Instr.wf (.xpack 11 15 0 15 2 2) ∧ Instr.wf (.xpack 9 0 0 0 0 0) ∧ Instr.wf (.xmxs 10 0 15 15) ∧ Instr.wf (.xunpk 0 0 0 15 0) ∧
    Instr.wf (.xscal 8 0 0 0 0 2) ∧ Instr.wf (.xscal 13 0 0 0 0 0) ∧ (on {}).free 7 0 15 3 ∧ (on {}).free 7 2 15 3 ∧ (on {}).free 7 0 0 2 :=
  ⟨rfl, rfl, rfl, rfl, rfl, rfl, free_of_none rfl _ _ _ _, free_of_none rfl _ _ _ _, free_of_none rfl _ _ _ _⟩
/-- Scale accesses: misaligned, without the local form, inside the seat's tiles at their last 32 bytes, and outside them. -/
theorem test_meets_scale_accesses :
    (let s := on { copies [] with regs := { x := [(1, 0x8000000000000001), (2, 0x100), (3, 0x800000000000FFE0), (4, 0x8000000000020000)] } }
     let va := fun (i : Nat) => ((fget 0 s.my.regs.x i).setWidth 64 : W64)
     (va 1).toNat % 32 ≠ 0 ∧ (va 2).toNat % 32 = 0 ∧ (va 2).toNat / 2 ^ 22 ≠ 2 ^ 41 ∧ (va 3).toNat % 32 = 0 ∧ (va 3).toNat / 2 ^ 22 = 2 ^ 41 ∧
     inRange s.my.tiles.share ((va 3).toNat % 2 ^ 22) = true ∧ (va 4).toNat % 32 = 0 ∧ (va 4).toNat / 2 ^ 22 = 2 ^ 41 ∧
     inRange s.my.tiles.share ((va 4).toNat % 2 ^ 22) = false ∧
     (∀ rd wr, watchCheck s.my 7 rd wr [(va 3, 32)] = .ok ()) ∧ s.free 7 2 1 6 ∧ canonicalMemory s) := by
  repeat' refine And.intro ?_ ?_
  all_goals first
    | decide +kernel
    | exact free_of_none rfl _ _ _ _
    | (unfold canonicalMemory; decide +kernel)
    | (intro rd wr; cases rd <;> cases wr <;> rfl)
/-- A barrier word with no fault stored and with one; without a record, with another's, with its own pending, and with its own complete. -/
theorem test_meets_barrier_words :
    (let r : BarRec := { home := 0, bar := 2047, scope := 2, pending := false, phase := 0, arr := 0 }
     (2 : BitVec 3).toNat ≤ 2 ∧ (on {}).my.barFault = none ∧ (on {}).my.bar = none ∧
     (on { bar := some r }).my.bar = some r ∧ r.bar ≠ (0 : BitVec 11).toNat ∧ r.bar = (2047 : BitVec 11).toNat ∧ r.scope = (2 : BitVec 3).toNat ∧
     (on { bar := some r, barPhase := 1 }).my.barPhase ≠ r.phase ∧ (on { bar := some r }).my.barPhase = r.phase ∧
     (on { bar := some r }).my.stamped = false ∧ (on { barFault := some 5 }).my.barFault = some 5) :=
  ⟨by decide, rfl, rfl, rfl, by decide, rfl, rfl, by decide, rfl, rfl, rfl⟩
/-- A spawn to an idle seat of another core of the quad, to a busy one, to a misaligned entry, and from a flagged context to its own core. -/
theorem test_meets_spawn :
    (let c : Ctx := { regs := { x := [(8, 0x8001), (9, 0x8000)] }, run := { busy := true, live := true } }
     let d : Ctx := { c with run := { busy := true, live := true, det := true } }
     ¬((on c).my.run.det = true ∧ 2 = (on c).my.run.lcore) ∧ ((fget 0 (on c).my.regs.x 9).setWidth 64 : W64).toNat % 4 = 0 ∧
     seatBusy (on c) 2 1 = false ∧ seatBusy (on c) 0 0 = true ∧ ((fget 0 (on c).my.regs.x 8).setWidth 64 : W64).toNat % 4 ≠ 0 ∧
     (on d).my.run.det = true ∧ (0 / 4) * 4 + (0 : BitVec 3).toNat / 2 = (on d).my.run.lcore ∧
     (on d).my.run.det = true ∧ coreDet (on d) 3 = false ∧ seatBusy (on d) 3 1 = false) := by
  exact ⟨by decide +kernel, by decide +kernel, by decide +kernel, by decide +kernel, by decide +kernel, rfl, rfl, rfl, by decide +kernel,
    by decide +kernel⟩
theorem test_meets_yield :
    (let s := State.setCtx (on { sys := { status := 0x20 } }) 2 { run := { live := true, saved := true } }
     s.my.sys.status.getLsbD 5 = true ∧ s.my.sys.status.getLsbD 3 = false ∧ standbyReady s s.my.run.lcore = true) ∧
    standbyReady (on {}) 0 = false ∧ (on {}).my.sys.status.getLsbD 5 = false := by
  and_intros <;> decide +kernel

def call0 : Call :=
  { pc := 0, seq := 0, lvl := 0, routine := 0, nocorr := false, limc := false, e5 := false, ceil := 2, start := 0, prof := 0, sr := 0, p := [] }
/-- A call of context 0 on the core 0 array, one microword before the end of the store. -/
def run0 : ArrayRun := { ctx := 0, call := call0, idx := 16382, start := 0, ceil := 2, e5 := false, limc := false, corr := true }
/-- The reset state with context 0 as given and a call running on core 0, whose sequencer has its turn. -/
def micro0 (c : Ctx) (r : ArrayRun) : State := { on c with cores := [(0, { run := some r })], turn := .micro 0 }

/-- Parameter writes with nothing pending; a matrix call with room for one more command, with a call queued, and commands of another
path and of status 0 for `mabort`, with a running call of the other seat. -/
theorem test_meets_matrix_words :
    (∀ p : Nat, (on {}).free 4 0 p 1) ∧ (on {}).free 4 0 7 2 ∧ (∃ v, rdS (on {}).my 4 55 = .ok v) ∧
    (on { q := { tl := 254 } }).my.call = none ∧ (on { q := { tl := 254 } }).my.q.tl < 255 ∧
    (on { call := some call0 }).my.call = some call0 ∧ (on { call := some call0 }).my.stamped = false ∧
    (let x : Cmd := { op := .matrix, pc := 0, seq := 0, lvl := 0, slot := 4, path := 2, counted := 1 }
     let s : State := { on { cmds := [x, { x with path := 1, status := 3, seq := 1 }] } with cores := [(0, { run := some { run0 with ctx := 1 } })] }
     (∀ x ∈ s.my.cmds, x.path = 2 → x.status = 0) ∧ (s.core s.my.run.lcore).run = some { run0 with ctx := 1 } ∧ run0.ctx = s.me) := by
  refine ⟨fun _ => free_of_none rfl _ _ _ _, free_of_none rfl _ _ _ _, ⟨_, rfl⟩, rfl, by decide, rfl, rfl, ?_⟩
  and_intros <;> first | decide | rfl
/-- A sequencer at the last microword but one, with budgets that fit to the last bit and one beyond; a call with work in progress. -/
theorem test_meets_microwords :
    (let s := micro0 { regs := { p := [(0, 0x003FFFFFFFFFFFFF), (7, 0x0040000000000000)] } } run0
     Say.sequencing s 0 run0 ∧ Say.legalAt s 0 16383 ∧ (fget 0 (s.ctx 0).regs.p 0).toNat < 2 ^ 54 ∧ 2 ^ 54 ≤ (fget 0 (s.ctx 0).regs.p 7).toNat ∧
     run0.steps = [] ∧ run0.drains = [] ∧ run0.loading = false) ∧
    Say.sequencing (micro0 {} { run0 with loading := true }) 0 { run0 with loading := true } := by
  refine ⟨⟨⟨rfl, rfl, rfl, rfl, rfl, rfl⟩, ⟨by decide, ?_⟩, ?_⟩, ⟨rfl, rfl, rfl, rfl, rfl, rfl⟩⟩
  · decide +kernel
  · and_intros <;> first | decide +kernel | rfl
/-- Three loops open and four, a loop on its last pass and one before it, a count of 0 and what closes the loop it skips. -/
theorem test_meets_microloops :
    (let r3 := { run0 with idx := 100, loops := [(50, 1), (40, 2), (30, 3)] }
     let r4 := { run0 with loops := [(50, 2), (40, 2), (30, 3), (20, 4)] }
     let s3 := { micro0 { regs := { p := [(1, 5), (2, 0xFFFFFFFF00000000)] } } r3 with cores := [(0, { run := some r3, ustore := [(103, 0x2000000000000000)] })] }
     Say.sequencing s3 0 r3 ∧ ¬(((1 : BitVec 1) = 1 ∧ (0 : BitVec 3) ≠ 0) ∨ 4 ≤ r3.loops.length) ∧
     ((fget 0 (s3.ctx 0).regs.p 1).toNat % 2 ^ 32 ≠ 0) ∧ (fget 0 (s3.ctx 0).regs.p 2).toNat % 2 ^ 32 = 0 ∧
     Say.legalAt s3 0 101 ∧ Say.legalAt s3 0 104 ∧ skipLoop (s3.core 0) (16384 - 101) 0 101 = 104 ∧ Say.legalAt s3 0 50 ∧
     Say.sequencing (micro0 {} r4) 0 r4 ∧ 4 ≤ r4.loops.length ∧ Say.legalAt (micro0 {} r4) 0 50 ∧ run0.loops = [] ∧
     Say.sequencing (micro0 {} run0) 0 run0) := by
  and_intros <;> first | decide +kernel | rfl
/-- A run of memory that holds one byte. -/
theorem memGet_run (v : Byte) : ∀ (n a k : Nat), a ≤ k → k < a + n → memGet ((List.range' a n).map (fun i => (i, v))) k = v
  | 0, a, k, h1, h2 => by omega
  | n + 1, a, k, h1, h2 => by
    rw [List.range'_succ, List.map_cons, memGet]
    by_cases h : k = a
    · rw [if_pos h]
    · rw [if_neg h, if_neg (by omega)]
      exact memGet_run v n (a + 1) k (by omega) (by omega)
theorem viewBytes_getD (s : State) (w : Viewer) (b : Nat) (h : s.writes = []) : ∀ (n i key : Nat), i < n →
    (viewBytes s w b key n).getD i 0 = memGet s.mem (key + i)
  | 0, i, key, hi => by omega
  | n + 1, 0, key, hi => by simp [viewBytes, viewByte, h, overlayByte]
  | n + 1, i + 1, key, hi => by
    rw [viewBytes, List.getD_cons_succ, viewBytes_getD s w b h n i (key + 1) (by omega)]; congr 1; omega
/-- Selections of the first two of each group of four: every column has them. -/
theorem columnSel_ok (bs : List Byte) (n : Nat) (hn : n < 128) (h : ∀ i, i < 4096 → bs.getD i 0 = 0x44) : ∃ x, columnSel bs n = some x := by
  unfold columnSel
  have e : (List.range 64).map (fun g => let b := (bs.getD (32 * n + g / 2) 0).toNat / 16 ^ (g % 2) % 16; (4 * g + b % 4, 4 * g + b / 4)) =
      (List.range 64).map (fun g => (4 * g, 4 * g + 1)) := by
    apply List.map_congr_left
    intro g hg
    have hg := List.mem_range.1 hg
    rw [h _ (by omega)]
    rcases Nat.mod_two_eq_zero_or_one g with e | e <;> rw [e] <;> simp
  simp only [e]
  exact ⟨_, if_pos (by decide)⟩
theorem foldr_some {α : Type} (g : Nat → Option (List α) → Option (List α)) : ∀ l : List Nat,
    (∀ n ∈ l, ∀ xs, ∃ ys, g n (some xs) = some ys) → ∃ xs, l.foldr g (some []) = some xs
  | [], _ => ⟨_, rfl⟩
  | n :: l, h => by
    obtain ⟨xs, hs⟩ := foldr_some g l (fun m hm => h m (by simp [hm]))
    obtain ⟨ys, hy⟩ := h n (by simp) xs
    exact ⟨ys, by rw [List.foldr_cons, hs, hy]⟩
theorem foldr_not_none {α : Type} (g : Nat → Option (List α) → Option (List α)) (l : List Nat) (h2 : l.foldr g (some []) = none)
    (h : ∀ n ∈ l, ∀ xs, ∃ ys, g n (some xs) = some ys) : False := by
  obtain ⟨xs, hx⟩ := foldr_some g l h
  exact absurd (h2.symm.trans hx) (by simp)
theorem loadPlane_sparse (s : State) (k : Nat) (src : TileRef) (m rung : Nat) (e5 : Bool)
    (h : ∀ i, i < 4096 → (refBytes s k { ring := false, num := m, ent := 0 }).getD i 0 = 0x44) :
    ∃ p, loadPlane s k src true m rung e5 = .ok p := by
  unfold loadPlane
  simp only [if_true]
  split
  · rename_i h2
    refine (foldr_not_none _ _ h2 (fun n hn xs => ?_)).elim
    obtain ⟨x, hx⟩ := columnSel_ok _ n (List.mem_range.1 hn) h
    exact ⟨x :: xs, by rw [hx]⟩
  · exact ⟨_, rfl⟩
/-- The tiles above with an n8 slot, its selections stored, and a ring with both entries ready. -/
def streams : Ctx :=
  { tiles := { share := { share0 with
      slots := [(0, { fmt := 2, gloved := false, depth := 1, base := 0 }), (1, { fmt := 6, gloved := false, depth := 1, base := 0x18000 }),
                (255, { fmt := 2, gloved := false, depth := 1, base := 0x8000 })] }
               slot := [(0, .ready), (1, .ready)], ring := [(128, .ready), (129, .ready)] } }
def planeOf (sp : Bool) : Plane :=
  { ring := false, num := 0, ent := 0, sp := sp, metaSlot := 1, climb := true, kept := true, rung := 0, fmt := 9, data := [], scale := [] }
/-- Dense and sparse loads, a swap, streams from a ring and under a sparse plane up to the last block, a weight step up to the last row,
a drain of the last block, each with what it names ready. -/
theorem test_meets_matrix_work :
    (let s : State := { micro0 streams run0 with mem := (List.range' (keyCore 0 0x18000) 4096).map (fun i => (i, 0x44)) }
     let c := s.ctx 0
     Say.sequencing s 0 run0 ∧ Say.legalAt s 0 16383 ∧
     oneRef c 0 = .ok { ring := false, num := 0, ent := 0 } ∧ admitB run0.call.prof (refDecl c { ring := false, num := 0, ent := 0 }).fmt = true ∧
     run0.shadow = none ∧ run0.loading = false ∧ accepts c run0 { ring := false, num := 0, ent := 0 } = true ∧
     (∃ p, loadPlane s 0 { ring := false, num := 0, ent := 0 } false 0 0 false = .ok p) ∧
     (∃ d, fget? c.tiles.share.slots 1 = some d ∧ d.fmt = 6 ∧ d.gloved = false) ∧ accepts c run0 { ring := false, num := 1, ent := 0 } = true ∧
     (∃ p, loadPlane s 0 { ring := false, num := 0, ent := 0 } true 1 0 false = .ok p) ∧
     (∀ b : Bool, Say.sequencing (micro0 streams { run0 with shadow := some (planeOf false), active := some (planeOf b) }) 0
       { run0 with shadow := some (planeOf false), active := some (planeOf b) }) ∧
     tileRefs c 0x102 2 = .ok [{ ring := true, num := 2, ent := 0 }, { ring := true, num := 2, ent := 1 }] ∧
     (∀ x ∈ [({ ring := true, num := 2, ent := 0 } : TileRef), { ring := true, num := 2, ent := 1 }],
       admitA run0.call.prof (refDecl c x).fmt = true ∧ accepts c run0 x = true) ∧
     (15 : BitVec 4).toNat + (0 : BitVec 3).toNat + 1 ≤ c.tiles.share.accCnt ∧ (14 : BitVec 4).toNat + (1 : BitVec 3).toNat + 1 ≤ c.tiles.share.accCnt ∧
     weightFmt run0.call.prof 7 false = .ok 2 ∧ weightFmt run0.call.prof 12 true = .ok 0x14 ∧ admitA run0.call.prof 2 = true ∧
     128 * (15 : BitVec 4).toNat + 8 * (15 : BitVec 8).toNat + ((7 : BitVec 3).toNat + 1) ≤ 128 * c.tiles.share.accCnt ∧
     drainRef c 255 = .ok { ring := false, num := 255, ent := 0 } ∧ drainRef c 0x102 = .ok { ring := true, num := 2, ent := 0 } ∧
     admitOut run0.call.prof 2 = true ∧ refSt c { ring := false, num := 255, ent := 0 } = .empty ∧ (15 : BitVec 4).toNat < c.tiles.share.accCnt) := by
  refine ⟨⟨rfl, rfl, rfl, rfl, rfl, rfl⟩, ⟨by decide, by decide +kernel⟩, by rfl, by decide, rfl, rfl, by decide, ⟨_, rfl⟩, ⟨_, rfl, rfl, rfl⟩, by decide, ?_,
    fun b => ⟨rfl, rfl, rfl, rfl, rfl, rfl⟩, by rfl, ?_⟩
  · refine loadPlane_sparse _ _ _ _ _ _ (fun i hi => ?_)
    show (viewBytes _ _ _ (keyCore 0 0x18000) 16384).getD i 0 = _
    rw [viewBytes_getD _ _ _ rfl _ _ _ (by omega)]
    exact memGet_run _ _ _ _ (by omega) (by omega)
  · and_intros <;> first | decide +kernel | rfl
/-- Blocks cleared up to the last and one beyond it; a ring with both entries filled, a slot and no step that reads them. -/
theorem test_meets_blocks_and_pops :
    (let s := micro0 streams run0
     let c := s.ctx 0
     Say.sequencing s 0 run0 ∧ Say.legalAt s 0 16383 ∧ run0.steps = [] ∧ run0.drains = [] ∧
     (15 : BitVec 4).toNat + (0 : BitVec 4).toNat + 1 ≤ c.tiles.share.accCnt ∧ c.tiles.share.accCnt < (15 : BitVec 4).toNat + (1 : BitVec 4).toNat + 1 ∧
     (0x102 : BitVec 9).getLsbD 8 = true ∧ (0x102 : BitVec 9).toNat / 8 % 32 = 0 ∧
     fget? c.tiles.share.rings ((0x102 : BitVec 9).toNat % 8) = some { fmt := 2, gloved := false, depth := 2, base := 0x10000 } ∧
     (1 : BitVec 4).toNat + 1 ≤ ringFilled c 2 ∧ (0xFF : BitVec 9).getLsbD 8 = false ∧ (fget? c.tiles.share.slots ((0xFF : BitVec 9).toNat % 256)).isSome) := by
  refine ⟨⟨rfl, rfl, rfl, rfl, rfl, rfl⟩, ⟨by decide, by decide +kernel⟩, ?_⟩
  and_intros <;> first | decide +kernel | rfl
/-- A load of context 0 whose entry is the last of queue 7. -/
def load0 (kind : LoadKind) : LoadRec :=
  { id := 5, agent := 1, core := 0, die := 0, ctx := 0, q := 7, kind := kind, counted := true, va := 0x100 }
def loading0 (kind : LoadKind) : State :=
  { mapped { q := { lq := [(7, [{ acc := 5 }])], ld := 1 } } with loads := [load0 kind] }
/-- Loads that may be performed: clean and poisoned bytes, the link down and up, atomics without a place, in a core store, in memory. -/
theorem test_meets_arrivals :
    (let r : LoadKind := .read [some (keyHbm 0 0x100, 0x100), none] 0
     (∀ k ∈ [r, .atomic 0x20 none 0 1 0, .atomic 0x26 (some (keyCore 0 0x40)) 0 1 0, .atomic 0x29 (some (keyHbm 0 0x100)) 0x1B 1 0,
        .answer 7, .barTst 0 2047 1], (loading0 k).loads.find? (fun x => decide (x.id = (load0 k).id)) = some (load0 k) ∧ mayRead (loading0 k) (load0 k) = true) ∧
     (load0 r).host = false ∧ linkReady (loading0 r) = false ∧
     linkReady { loading0 r with dev := { State.reset.dev with ctl := [(0x4528, 1)] } } = true ∧
     poisoned (loading0 r) (keyHbm 0 0x100) = false ∧ poisoned { loading0 r with poison := [4] } (keyHbm 0 0x100) = true ∧
     mayRead { loading0 r with poison := [4] } (load0 r) = true ∧
     (let s := loading0 (.atomic 0x26 (some (keyCore 0 0x40)) 0 1 0)
      mayAtomic s (load0 (.atomic 0x26 (some (keyCore 0 0x40)) 0 1 0)) (keyCore 0 0x40) 0 = true ∧ isCoreKey (keyCore 0 0x40) = true ∧
      isCoreKey (keyCore 2079 0x3FFFF8) = true ∧ (∀ i, i < 8 → poisoned s (keyCore 0 0x40 + i) = false) ∧ canonicalMemory s) ∧
     (let s := loading0 (.atomic 0x29 (some (keyHbm 0 0x100)) 0x1B 1 0)
      mayAtomic s (load0 (.atomic 0x29 (some (keyHbm 0 0x100)) 0x1B 1 0)) (keyHbm 0 0x100) 0x1B = true ∧ s.writes = [] ∧
      (∀ i, i < 8 → isCoreKey (keyHbm 0 0x100 + i) = false ∧ poisoned s (keyHbm 0 0x100 + i) = false)) ∧
     mayAtomic (loading0 r) (load0 (.atomic 0x20 (some (keyHbm 0 0x100)) 0x1B 1 0)) (keyHbm 0 0x100) 0x1B = true) := by
  and_intros <;> first | decide +kernel | (unfold canonicalMemory; decide +kernel)
/-- A write of two bytes at a stage. -/
def write0 (stage : Nat) : WriteRec :=
  { id := 9, agent := 1, core := 0, die := 0, home := 0, cells := [(keyHbm 0 0x100, 1), (keyHbm 0 0x101, 0)], stage := stage, va := 0x100 }
def writing0 (c : Ctx) (w : WriteRec) : State := { on c with writes := [w] }
theorem alone_of_one (c : Ctx) (w : WriteRec) : Say.alone (writing0 c w) w :=
  ⟨by simp [writing0], fun x hx _ => by simpa [writing0] using hx⟩
/-- Writes alone in flight at each stage: in memory, in a core store, bound to a stash entry and not, crossing to the last die but one
and the last. -/
theorem test_meets_stage_passes :
    (let wc := { write0 0 with cells := [(keyCore 0 0, 1), (keyCore 0 1, 0)] }
     let w3 := { write0 3 with applied := 1, coh := some 0, clock := [(0, 1)] }
     let wl := { write0 3 with applied := 0x7FFFFFFF, coh := some 0, clock := [(0, 1)] }
     let bound : Ctx := { tiles := { stash := [(1, { va := 0, space := 0, key := 0, held := 0 })] } }
     (∀ n, n < 3 → mayPass (writing0 {} (write0 n)) (write0 n) = true) ∧ (∀ c ∈ (write0 1).cells, isCoreKey c.1 = false) ∧
     mayPass (writing0 {} wc) wc = true ∧ wc.cells ≠ [] ∧ (∀ c ∈ wc.cells, isCoreKey c.1 = true) ∧ (wc.cells.map (·.1)).Nodup ∧
     canonicalMemory (writing0 {} wc) ∧ (∀ c ∈ (write0 2).cells, poisoned (writing0 {} (write0 2)) c.1 = false) ∧
     (write0 2).agent = agentOf 0 0 ∧ stashAt ((writing0 bound (write0 2)).ctx 0) 0 0x100 = some 1 ∧ mayPass (writing0 bound (write0 2)) (write0 2) = true ∧
     stashAt ((writing0 {} (write0 2)).ctx 0) 0 0x100 = none ∧
     mayApply (writing0 {} w3) w3 31 = true ∧ w3.applied ||| BitVec.ofNat 32 (2 ^ 31) ≠ BitVec.allOnes 32 ∧
     mayApply (writing0 {} wl) wl 31 = true ∧ wl.applied ||| BitVec.ofNat 32 (2 ^ 31) = BitVec.allOnes 32 ∧ wl.store = false ∧ wl.durable = false ∧
     (wl.cells.map (·.1)).Nodup) := by
  and_intros <;> first | decide +kernel | (unfold canonicalMemory; decide +kernel)
/-- A store that has reached its home, with and without an error met, a durable write at its home, a dirty stash line. -/
theorem test_meets_completions :
    (let w := { write0 3 with store := true, applied := 1 }
     let b := { w with bad := some 0x140 }
     let d := { write0 3 with durable := true, applied := 1, cells := [(keyNv 5, 1), (keyNv 6, 0)] }
     let st := { write0 3 with stash := some (0, 1) }
     (∀ x ∈ [w, b, d, st], (writing0 {} x).writes.find? (fun y => decide (y.id = x.id)) = some x) ∧ storeDone w = true ∧
     (∀ x ∈ (writing0 {} b).writes, x.bad = some 0x140) ∧ (∀ x ∈ (writing0 {} w).writes, x.bad = none) ∧ storeDone b = true ∧
     ((writing0 {} b).ctx 0).run.halted = false ∧ mayPersist (writing0 {} d) d = true ∧ (d.cells.map (·.1)).Nodup ∧ canonicalMemory (writing0 {} d) ∧
     st.stash = some (0, 1) ∧ st.host = false ∧ (∀ c ∈ st.cells, isCoreKey c.1 = false)) := by
  and_intros <;> first | decide +kernel | (unfold canonicalMemory; decide +kernel)
/-- A queued call of a valid routine, of an invalid one, under DET behind another; a running call; a call returned, stopped. -/
theorem test_meets_calls :
    (let c : Ctx := { call := some call0, cmds := [{ op := .matrix, pc := 0, seq := 0, lvl := 0, slot := 4, path := 2, counted := 0 }], q := { tl := 1 } }
     let s : State := { on c with cores := [(0, { calls := [0, 1] })] }
     let b := { call0 with routine := 3 }
     let r := { run0 with returned := true }
     let e := { run0 with stop := some (255, 16383, 3, 2047, 127, 9) }
     (s.core 0).run = none ∧ (s.core 0).calls = 0 :: [1] ∧ (∀ j ∈ [1], (s.ctx j).run.det = false) ∧ (s.ctx 0).savedCall = none ∧
     (s.ctx 0).call = some call0 ∧ needsMet s 0 2 call0.needs = true ∧ (s.core 0).busyMap = 0 ∧ (routineAt (s.core 0) 0).getLsbD 31 = true ∧
     Say.legalAt s 0 ((routineAt (s.core 0) 0).toNat % 2 ^ 14) ∧ (routineAt (s.core 0) b.routine).getLsbD 31 = false ∧
     ((micro0 c r).core 0).run = some r ∧ r.drains = [] ∧ ((micro0 c r).ctx r.ctx).cmds.length = 1 ∧ ((micro0 c r).ctx r.ctx).cmds.all (fun x => x.seq == r.call.seq) = true ∧
     r.stop = none ∧ e.drains = [] ∧ ((micro0 c e).ctx 0).run.halted = false) := by
  and_intros <;> first | decide +kernel | rfl
/-- A dense step with no rows within its budgets, one over them, and a drain of a clear block. -/
theorem test_meets_steps :
    (let p := { planeOf false with climb := false }
     let st : StepRec := { mmv := none, srcs := [], blk := 15, tiles := 1, pop := false, index := 3, start := 0, ceil := 2, e5 := false, limc := false, corr := true, bud := [0, 0, 0, 63] }
     let r := { run0 with steps := [st], active := some p }
     let x := streamStep 0 63 (aRows false []) p.cols 128 (tops []) (tops [p.op]) (128 * 15) 0
     ((micro0 streams r).core 0).run = some r ∧ r.stop = none ∧ p.climbs = false ∧ p.sp = false ∧ ((micro0 streams r).core 0).ckinj.getLsbD 63 = false ∧
     ¬(0 < x.sat ∨ 0 < x.und ∨ 0 < x.can) ∧ stepRows 0 (decide (p.fmt = 0x14)) x = [] ∧ stepCols 0 (decide (p.fmt = 0x14)) x = [] ∧
     0 < (streamStep 0 63 (aRows false []) p.cols 128 (tops []) (tops [p.op]) (128 * 15) 1).sat) := by
  and_intros <;> first | decide +kernel | rfl
/-- A clear block of profile 3: every line sums to 0. -/
theorem denseGo_nil : ∀ n lo : Nat, denseGo (0 : W32) n lo [] = List.replicate n 0
  | 0, _ => rfl
  | n + 1, lo => by rw [denseGo, denseGo_nil n, List.replicate_succ]
theorem pairsOf_zeros : ∀ n : Nat, pairsOf (List.replicate (2 * n) 0) = List.replicate n (0, 0)
  | 0 => rfl
  | n + 1 => by
    rw [show 2 * (n + 1) = (2 * n + 1) + 1 by omega, List.replicate_succ, List.replicate_succ, pairsOf, pairsOf_zeros n]; rfl
theorem piecesOf_zeros (n : Nat) : ∀ f : Nat, ∀ ps : List (Nat × Nat), (∀ p ∈ ps, p = (0, 0)) →
    ∀ r ∈ piecesOf n f ps, ∀ p ∈ r, p = (0, 0)
  | 0, ps, _, r, hr => by simp [piecesOf] at hr
  | f + 1, ps, h, r, hr => by
    rw [piecesOf] at hr
    split at hr
    · simp at hr
    · rcases List.mem_cons.1 hr with e | e
      · subst e; intro p hp; exact h p (List.mem_of_mem_take hp)
      · exact piecesOf_zeros n f _ (fun p hp => h p (List.mem_of_mem_drop hp)) r e
theorem sum_zeros : ∀ ps : List (Nat × Nat), (∀ p ∈ ps, p = (0, 0)) → (ps.map (fun p => (p.1 : Int))).sum = 0
  | [], _ => rfl
  | p :: ps, h => by
    rw [List.map_cons, List.sum_cons, sum_zeros ps (fun q hq => h q (by simp [hq])), h p (by simp)]; rfl
theorem drainBeyond_zeros (b line0 : Nat) (ls : List (List (Nat × Nat))) (h : ∀ r ∈ ls, ∀ p ∈ r, p = (0, 0)) :
    drainBeyond 3 [] [] b line0 ls = [] := by
  unfold drainBeyond
  rw [List.filterMap_eq_nil_iff]
  rintro ⟨r, i⟩ hr
  have hz := sum_zeros r (h r (List.fst_mem_of_mem_zipIdx hr))
  have : drainLine 3 [] [] b (line0 + i) r = some (0, 0) := by
    unfold drainLine; rw [if_pos rfl, hz, show (fget 0 [] (3 * (256 * b + (line0 + i))) : W32) = 0 from rfl]; decide
  simp [this]
theorem judgeDrain_clear (b : Nat) (y : CoreSt) (ha : y.acc = []) (hc : y.chk = []) (ht : y.tol = []) :
    let v := judgeDrain 3 y b (pairsOf (dense 0 y.acc (32768 * b) 32768))
    v.rows = [] ∧ v.cols = [] := by
  have hp : ∀ p ∈ pairsOf (dense 0 y.acc (32768 * b) 32768), p = (0, 0) := by
    rw [ha, dense, List.filter_nil, denseGo_nil, show 32768 = 2 * 16384 by rfl, pairsOf_zeros]
    exact fun p hp => List.eq_of_mem_replicate hp
  have hr := piecesOf_zeros 128 128 _ hp
  simp only [judgeDrain, hc, ht, blockRows]
  refine ⟨drainBeyond_zeros _ _ _ hr, drainBeyond_zeros _ _ _ ?_⟩
  intro r h p hq
  obtain ⟨j, _, rfl⟩ := List.mem_map.1 h
  obtain ⟨x, hx, rfl⟩ := List.mem_map.1 hq
  rw [List.getD_eq_getElem?_getD]
  cases e : x[j]? with
  | none => rfl
  | some z => exact hr x hx z (List.mem_of_getElem? e)
theorem test_meets_drains :
    (let d : DrainRec := { blk := 15, dst := { ring := false, num := 255, ent := 0 }, rnd := 0, clr := true, draw := 0, index := 3, corr := true }
     let r := { run0 with drains := [d], call := { call0 with prof := 3 } }
     let s := micro0 streams r
     let v := judgeDrain 3 (s.core 0) 15 (pairsOf (dense 0 (s.core 0).acc (32768 * 15) 32768))
     (s.core 0).run = some r ∧ (s.ctx 0).img = none ∧ v.rows = [] ∧ v.cols = [] ∧ canonicalMemory s) :=
  ⟨rfl, rfl, (judgeDrain_clear 15 _ rfl rfl rfl).1, (judgeDrain_clear 15 _ rfl rfl rfl).2, by unfold canonicalMemory; decide +kernel⟩
/-- RETIRE values at their edges: four lines named, a spare named, one line named twice; a core with a map to take; an image to load. -/
theorem test_meets_retirement :
    (let field := fun (v : W64) (i : Nat) => v.toNat / 2 ^ (9 * i) % 2 ^ 8
     let on := fun (v : W64) (i : Nat) => v.getLsbD (9 * i + 8)
     let good := fun (v : W64) => (∀ i, i < 4 → on v i = true → field v i < 130) ∧ ¬(on v 0 = true ∧ on v 1 = true ∧ field v 0 = field v 1) ∧
       ¬(on v 2 = true ∧ on v 3 = true ∧ field v 2 = field v 3)
     good (BitVec.ofNat 64 (0x181 + 0x100 * 2 ^ 9 + 0x181 * 2 ^ 18 + 0x100 * 2 ^ 27)) ∧ ¬good 0x182 ∧ ¬good (BitVec.ofNat 64 (0x105 + 0x105 * 2 ^ 9))) ∧
    (let s : State := { on {} with dies := [(0, { phys := [(0, { retire := 0x105 })] })] }
     (s.core 0).run = none ∧ (s.core 0).calls = [] ∧ (s.core 0).busyMap = 0 ∧ (∀ row, ∀ j ∈ markedLines (relOf s 0) row, 130 ≤ j) ∧
     (relOf s 0).retire ≠ (relOf s 0).mapped) := by
  refine ⟨?_, ?_⟩
  · and_intros <;> decide
  · refine ⟨rfl, rfl, rfl, ?_, by decide +kernel⟩
    intro row; cases row <;> decide +kernel
/-- A die whose functions are ready and whose MMU maps the first 2 MiB of space 0. -/
def ready0 : DieSt := { ctl := [(0x4500, 0x7F), (0x4508, 0xFFFFFFFFFFFFFFFF)], tlb := [{ space := 0, va := 0, bits := 21, leaf := 0x1B }] }
/-- One word at store index 16383 and one table entry, in memory at 0x1000. -/
theorem test_meets_images :
    (let i : MicroImage := { first := 16383, words := [0x2000000000000000], entries := [(7, 0x80003FFF)] }
     let x : Launch := { rec_ := { micro := 0x1000 }, st := .running, image := some i,
                         pools := [{ a := 0, b := 4, lo := 0, hi := 4, die := 0, cores := 1, claimed := [], static := [] }] }
     let m := memWrite [] 0x1000 (bytesOf 16 (1 + 16383 * 2 ^ 32 + 2 ^ 64) ++ (bytesOf 8 (16383 + 2 ^ 31 + 7 * 2 ^ 32) ++ bytesOf 8 0x2000000000000000))
     let s : State := { on {} with dies := [(0, ready0)], dev := { State.reset.dev with ctl := [(0x4100, 1)], launches := [(1, x)] }, mem := m }
     mayLoad s 0 1 = true ∧ readImage s (dieOf 0) (s.launch 1).rec_.space (s.launch 1).rec_.micro = some i) := by
  and_intros <;> decide +kernel
/-- An engine command of context 0 alone in flight. -/
def cmd0 (op : CmdOp) (path : Nat) : Cmd := { op := op, pc := 0, seq := 7, lvl := 0, slot := 0, path := path, counted := 0 }
def engine0 (x : Cmd) : State := mapped { streams with cmds := [x], q := { tl := 1 }, tiles := { streams.tiles with slot := [(0, .filling), (255, .draining 1)] } }
theorem test_meets_tile_commands :
    (let l := cmd0 (.tload 0x1000 none false 0 0) 1
     let n := cmd0 (.tload 0x200000 none false 0 0) 1
     let f := { l with status := 4 }
     let d := { l with done := 8 }
     let st := { cmd0 (.tstore 0x1000 none 255 false) 1 with done := 9 }
     let z := { cmd0 (.tzero 0) 1 with done := 1 }
     let w := cmd0 (.swb 0x1000 1) 5
     (∀ x ∈ [l, n, f, d, st, z, w], cmdOf (engine0 x) 0 x.seq = some x) ∧ cmdMoves (engine0 l) 0 l = true ∧ ((engine0 l).ctx 0).img = none ∧
     (cmdPieces ((engine0 l).ctx 0) l)[l.done]? = some { va := 0x1000, len := 4096, off := 0 } ∧ flipBlocks (engine0 l) 0 0x1000 = false ∧
     (readChunk (engine0 l) 0 1 0 l.lvl true 0x1000 4096).isOk = true ∧ canonicalMemory (engine0 l) ∧ cmdMoves (engine0 n) 0 n = true ∧
     readChunk (engine0 n) 0 1 0 n.lvl true 0x200000 4096 = .error (4, 0x200000) ∧ (cmdPieces ((engine0 n).ctx 0) n)[n.done]? = some { va := 0x200000, len := 4096, off := 0 } ∧
     f.path = 1 ∧ cmdWrites (engine0 f) 0 7 = [] ∧ slotSt ((engine0 st).ctx 0).tiles 255 = .draining 1 ∧ tileMoved ((engine0 d).ctx 0) d = true ∧
     loadVerifies ((engine0 d).ctx 0) d = true ∧ tileMoved ((engine0 st).ctx 0) st = true ∧ tileMoved ((engine0 z).ctx 0) z = true ∧
     (cmdDecl ((engine0 z).ctx 0) false 0).gloved = false ∧ (cmdDecl ((engine0 z).ctx 0) false 0).fmt ≠ 0x14 ∧
     needsMet (engine0 w) 0 0 w.needs = true ∧ w.done = 0 ∧ w.writes = []) := by
  and_intros <;> first | decide +kernel | rfl | (unfold canonicalMemory; decide +kernel)
/-- The reset state with a window or collective command of context 0, every port up, and the export and import entries as listed. -/
def fabric0 (x : Cmd) (es is : FMap WinEntry) (inbox : List Frame) : State :=
  { mapped { cmds := [x], q := { cp := 1 } } with
    dev := { State.reset.dev with ctl := [(0x4100, 1), (0x4518, 0xFFFFFFFFFFFFFFFF), (0x4520, 0xFF), (0x4528, 1)], exports := es, imports := is, inbox := inbox } }
theorem ports_up (x : Cmd) (es is : FMap WinEntry) (inbox : List Frame) (d : Nat) : ∃ port, portFor (fabric0 x es is inbox) d = some port := by
  have h : ∀ p : Fin 72, portUp (fabric0 (cmd0 .matrix 2) [] [] []) p = true := by decide +kernel
  have h1 : portUp (fabric0 x es is inbox) (Config.routePort d % 72) = true := h ⟨Config.routePort d % 72, Nat.mod_lt _ (by decide)⟩
  exact ⟨_, by rw [portFor, List.find?_cons, h1]⟩
theorem cutBoth_length (ph : Option Nat) : ∀ (f : Nat) (va : W64) (n off : Nat), (cutBoth ph f va n off).length ≤ f
  | 0, _, _, _ => by simp [cutBoth]
  | f + 1, va, n, off => by
    rw [cutBoth]; split
    · simp
    · simpa using cutBoth_length ph f _ _ _
/-- A `wget` with nothing sent, a `wput` with its chunk sent and a reply or a refusal in the inbox, and commands settled done, refused,
timed out and failed locally. -/
theorem test_meets_window_commands :
    (let g := { cmd0 (.wget 0x100 0x0001040000000F00 256) 4 with peer := BitVec.ofNat 192 (0x1000 * 2 ^ 111 + 4 * 2 ^ 151 + 1) }
     let p := { g with op := .wput 0x100 0x0001040000000F00 256, chunks := [(0, .sent)] }
     let d := fun (c : ChunkState) => { g with chunks := [(0, c), (1, .done)] }
     let f := fun (type why : Nat) => ({ hdr := BitVec.ofNat 256 (type * 2 ^ 120 + why * 2 ^ 48 + tagOf 0 7 0), data := [], tag := 0 } : Frame)
     (∀ x ∈ [g, p, d .done, d .timeout], cmdOf (fabric0 x [] [] []) 0 x.seq = some x) ∧ cmdMoves (fabric0 g [] [] []) 0 g = true ∧ localFailed g = false ∧
     firstChunk g (· == .unsent) = some 0 ∧ (∃ q, (winPieces g)[0]? = some q) ∧ flipBlocks (fabric0 g [] [] []) 0 0x100 = false ∧
     (∃ port, portFor (fabric0 g [] [] []) (impDev g.peer).toNat = some port) ∧ (∃ q, winOp g.op = some q) ∧ chunkSt p 0 = .sent ∧ chunkSt g 0 ≠ .sent ∧
     (let u := fabric0 p [] [] []
      let v : State := { u with dies := [(0, { cycle := 120000 })] }
      cmdOf v 0 p.seq = some p ∧ (nowAt u p.core - fget 0 p.sentAt 0).toNat < linkTmo u ∧ linkTmo v ≤ (nowAt v p.core - fget 0 p.sentAt 0).toNat) ∧
     (∀ t ∈ [f 9 0, f 10 1, f 10 2, f 10 3], t ∈ (fabric0 p [] [(1, p.peer)] [f 9 0, f 10 1, f 10 2, f 10 3]).dev.inbox ∧
       taggedCmd (fabric0 p [] [(1, p.peer)] [f 9 0, f 10 1, f 10 2, f 10 3]) (frTag t) = some (0, p, 0)) ∧
     (∃ q, (winPieces p)[0]? = some q) ∧ frType (f 9 0) = 9 ∧ frType (f 10 3) = 0x0A ∧ frStatus (f 10 2) = 2 ∧ frStatus (f 10 1) = 1 ∧ frStatus (f 10 3) = 3 ∧
     (∀ c ∈ [.done, .refused 1 5, .refused 2 5, .localFault 4 0x100, .timeout],
       (∀ i, i < (winPieces (d c)).length → chunkSt (d c) i ≠ .sent) ∧ (∀ i, i < (winPieces (d c)).length → chunkSt (d c) i ≠ .unsent) ∧
       0 < (winPieces (d c)).length ∧ chunkSt (d c) 0 = c ∧ cmdWrites (fabric0 (d c) [] [] []) 0 7 = [])) := by
  refine ⟨by decide +kernel, by decide +kernel, rfl, ?_, ⟨_, rfl⟩, by decide +kernel, ports_up _ _ _ _ _, ⟨_, rfl⟩, rfl, by decide, by decide +kernel, by decide +kernel, ⟨_, rfl⟩,
    by decide, by decide, by decide, by decide, by decide, ?_⟩
  · unfold firstChunk winPieces
    simp only [winOp, cmd0]
    unfold cutBoth
    simp [List.range_succ_eq_map, chunkSt, fget]
  · intro c hc
    have hl : ∀ i, i < (winPieces { cmd0 (.wget 0x100 0x0001040000000F00 256) 4 with
        peer := BitVec.ofNat 192 (0x1000 * 2 ^ 111 + 4 * 2 ^ 151 + 1), chunks := [(0, c), (1, .done)] }).length → i = 0 ∨ i = 1 := by
      intro i hi
      have := Nat.lt_of_lt_of_le hi (cutBoth_length _ _ _ _ _)
      simp at this; omega
    have e0 : ∀ i, i = 0 ∨ i = 1 → chunkSt { cmd0 (.wget 0x100 0x0001040000000F00 256) 4 with
        peer := BitVec.ofNat 192 (0x1000 * 2 ^ 111 + 4 * 2 ^ 151 + 1), chunks := [(0, c), (1, .done)] } i = (if i = 0 then c else .done) := by
      rintro i (rfl | rfl) <;> rfl
    refine ⟨fun i hi => ?_, fun i hi => ?_, ?_, rfl, rfl⟩
    · rw [e0 i (hl i hi)]; simp at hc; rcases hc with rfl | rfl | rfl | rfl | rfl <;> split <;> simp
    · rw [e0 i (hl i hi)]; simp at hc; rcases hc with rfl | rfl | rfl | rfl | rfl <;> split <;> simp
    · unfold winPieces; simp only [winOp, cmd0]; unfold cutBoth; simp
/-- Requests that an export entry refuses, each for one reason, up to the last byte of its limit; a table index at its edge; a revoke with
no chunk outstanding, at the last generation, and with a write of an accepted chunk in flight. -/
theorem test_meets_exports :
    (let e := fun (v ro gen limit owner : Nat) => BitVec.ofNat 192 (v + 2 * ro + gen * 2 ^ 128 + limit * 2 ^ 136 + owner * 2 ^ 176)
     let f : Frame := { hdr := BitVec.ofNat 256 (0x100 * 2 ^ 56 + 5 * 2 ^ 96 + 9 * 2 ^ 104 + 2 * 2 ^ 120 + 7 * 2 ^ 126 + 2 ^ 176), data := List.replicate 256 1, tag := 0 }
     let s := fun (x : WinEntry) => fabric0 (cmd0 .matrix 2) [(9, x)] [] [f]
     let ent := fun (x : WinEntry) => fget 0 (s x).dev.exports (frIndex f)
     (∀ x, f ∈ (s x).dev.inbox) ∧ (∀ x, (s x).dev.served = []) ∧ frType f = 2 ∧ frLife f ≠ 0 ∧ (∀ x, ∃ port, portFor (s x) (frSrc f).toNat = some port) ∧
     (ent (e 0 0 5 0x200 7)).getLsbD 0 = false ∧ (ent (e 1 0 5 0x200 8)).getLsbD 0 = true ∧ ((ent (e 1 0 5 0x200 8)).extractLsb' 176 16).toNat ≠ frOwner f ∧
     ((ent (e 1 0 4 0x200 7)).extractLsb' 176 16).toNat = frOwner f ∧ ((ent (e 1 0 4 0x200 7)).extractLsb' 128 8).toNat ≠ frGen f ∧
     ((ent (e 1 0 5 0x1FF 7)).extractLsb' 128 8).toNat = frGen f ∧ ((ent (e 1 0 5 0x1FF 7)).extractLsb' 136 40).toNat < frOffset f + f.data.length ∧
     ((ent (e 1 0 5 0x1FF 7)).extractLsb' 176 16).toNat = frOwner f ∧ (ent (e 1 1 5 0x200 7)).getLsbD 1 = true ∧
     ¬((ent (e 1 1 5 0x200 7)).extractLsb' 136 40).toNat < frOffset f + f.data.length ∧ 65535 < 65536 ∧
     fget? (s (e 1 0 5 0x200 7)).dev.revokes 9 = none ∧ (fget 0 (s (e 1 0 5 0x200 7)).dev.exports 9).getLsbD 0 = true ∧
     ((fget 0 (s (e 1 0 255 0x200 7)).dev.exports 9).extractLsb' 128 8).toNat = 255 ∧
     (let t : State := { s (e 1 0 5 0x200 7) with writes := [{ write0 3 with id := 4 }], dev := { (s (e 1 0 5 0x200 7)).dev with served := [(f, [4])] } }
      (f, [4]) ∈ t.dev.served ∧ frIndex f = 9 ∧ (∀ w ∈ t.writes, w.id ∈ [4] ∧ w.stage < 4))) := by
  refine ⟨fun x => List.mem_singleton.2 rfl, fun x => rfl, by decide +kernel, by decide +kernel, fun x => ports_up _ _ _ _ _, ?_⟩
  and_intros <;> decide +kernel
/-- Descriptors in memory at 0x100 that break the table, that name no group, and a group of one; a member that has failed and one whose
result is written. -/
theorem test_meets_collectives :
    (let x := { cmd0 (.coll 0x100 3) 3 with needs := [{ id := 1, k := 0 }] }
     let a : W64 := 0x1000
     let desc := fun (op k : Nat) => BitVec.ofNat 512 (a.toNat + 0x2000 * 2 ^ 64 + 6 * 2 ^ 128 + 2 ^ 192 + 8 * 2 ^ 224 + k * 2 ^ 232 + op * 2 ^ 600)
     let m := fun (k : Nat) => memWrite [] 0x100 (bytesOf 64 (desc 0 k).toNat)
     let s := fun (k : Nat) (gs : FMap Group) (x : Cmd) => { fabric0 x [] [] [] with mem := m k, dev := { (fabric0 x [] [] []).dev with groups := gs } }
     let bad := { x with status := 5, phase := 1, buf := bytesOf 64 (desc 0 1).toNat }
     let fin := { x with status := 0, phase := 3, done := 5, total := 5, buf := bytesOf 64 (desc 0 1).toNat ++ List.replicate 8 0 }
     (∀ y ∈ [x, bad, fin], cmdOf (s 1 [] y) 0 y.seq = some y) ∧ cmdMoves (s 0 [] x) 0 x = true ∧ x.phase = 0 ∧
     (∀ k, k < 3 → (readChunk (s k [] x) 0 x.path (x.coreOf ((s k [] x).ctx 0)) x.lvl x.needs.isEmpty 0x100 64) = .ok (bytesOf 64 (desc 0 k).toNat)) ∧
     descOk 3 (BitVec.ofNat 512 (ofBytes (bytesOf 64 (desc 0 0).toNat))) = false ∧ descOk 3 (BitVec.ofNat 512 (ofBytes (bytesOf 64 (desc 0 1).toNat))) = true ∧
     descOk 3 (desc 0 4096) = true ∧ descOk 3 (desc 0 4097) = false ∧ fget? (s 1 [] x).dev.groups 6 = none ∧
     (descOf (desc 0 1)).group = 6 ∧ fget? (s 1 [(6, { size := 1 })] x).dev.groups 6 = some { size := 1 } ∧
     (cmdDesc bad).group = 6 ∧ (cmdDesc fin).group = 6 ∧ bad.status ≠ 0 ∧ fin.total ≤ fin.done ∧ cmdWrites (s 1 [(6, { size := 1 })] fin) 0 7 = []) := by
  and_intros <;> first | decide +kernel | rfl
/-- Barrier messages in flight to a barrier as given at core 2079's home. -/
def barriers0 (b : Barrier) (c : Ctx) (ms : List BarMsg) : State :=
  { on c with cores := [(2079, { bars := [(2047, b)] })], bmsgs := ms }
/-- Counts at their edges, a barrier with arrivals, without initialisation, one short of its count; answers and completions that name
the record's barrier and another; a message behind an earlier one. -/
theorem test_meets_barriers :
    (let init := fun (n : Nat) => BarMsg.init 5 2079 2047 2 n 0
     let arr := BarMsg.arrive 5 2079 2047 2 0 []
     let b : Barrier := { init := true, n := 3, count := 2, phase := 65535, arrived := [0, 4] }
     let r : BarRec := { home := 2079, bar := 2047, scope := 2, pending := true, phase := 0, arr := 4 }
     let rep := fun (v : Option W64) => BarMsg.reply 5 0 2079 2047 2 4 v 65535 0 [3]
     let comp := BarMsg.complete 5 0 2079 2047 7 [3]
     (∀ n, barMsg (barriers0 {} {} [init n]) 5 = some (init n)) ∧ (∀ n, barFirst (barriers0 {} {} [init n]) (init n) = true) ∧
     fget {} ((barriers0 b {} []).core 2079).bars 2047 = b ∧ b.count ≠ 0 ∧ ({} : Barrier).count = 0 ∧ ({} : Barrier).init = false ∧
     barMsg (barriers0 b {} [arr]) 5 = some arr ∧ barFirst (barriers0 b {} [arr]) arr = true ∧ needsMet (barriers0 b {} [arr]) 0 3 [] = true ∧
     b.count + 1 = b.n ∧ { b with n := 4 }.count + 1 ≠ { b with n := 4 }.n ∧ b.init = true ∧
     (∀ v, barMsg (barriers0 b { bar := some r } [rep v]) 5 = some (rep v) ∧ barFirst (barriers0 b { bar := some r } [rep v]) (rep v) = true) ∧
     ((barriers0 b { bar := some r } [rep none]).ctx 0).bar = some r ∧ r.arr = 4 ∧
     ((barriers0 b { bar := some r, barFault := some 9 } [rep none]).ctx 0).barFault = some 9 ∧
     barMsg (barriers0 b { bar := some r } [comp]) 5 = some comp ∧ barFirst (barriers0 b { bar := some r } [comp]) comp = true ∧
     ((barriers0 b { bar := some { r with home := 0 } } [comp]).ctx 0).bar = some { r with home := 0 } ∧
     barMsg (barriers0 b {} [.init 4 2079 2047 2 1 0, init 1]) 5 = some (init 1) ∧ barFirst (barriers0 b {} [.init 4 2079 2047 2 1 0, init 1]) (init 1) = false) := by
  refine ⟨fun n => rfl, fun n => ?_, ?_⟩
  · simp [barFirst, barriers0, on, BarMsg.id]
  · and_intros <;> first | (intro v; exact ⟨rfl, by simp [barFirst, barriers0, on, BarMsg.id]⟩) | decide +kernel
/-- A kernel launch record of four tile steps at 0x1000, its partition at 0x2000 and its placement map at 0x3000, on die `d`. -/
def record0 (d : Nat) : List Host.Cell :=
  memWrite (memWrite (memWrite (memWrite [] 0x1000 (bytesOf 256 (1 + 2 ^ 16 + 4 * 2 ^ 320 + 0x3000 * 2 ^ 512 + 0x2000 * 2 ^ 576))) 0x2000
    (bytesOf 64 (0x4000 * 2 ^ 32))) 0x3000 (bytesOf 64 1)) 0x3040 (bytesOf 32 (4 * 2 ^ 64 + 2 ^ 128 + d * 2 ^ 192))
/-- The reset state with context 0 as given, die 0 ready with code pages mapped, the link up, memory and launches as listed. -/
def launching0 (c : Ctx) (m : List Host.Cell) (ls : FMap Launch) : State :=
  { on c with mem := m, dies := [(0, { ready0 with tlb := [{ space := 0, va := 0, bits := 21, leaf := 0x3B }] })],
              dev := { State.reset.dev with ctl := [(0x4100, 1), (0x4528, 1)], launches := ls } }
/-- A full queue and one with a place; a record misaligned, of a refused shape, event-only, and a kernel launch on a die that is ready and
on one that is not; an `enq` in its queue's space and in another. -/
theorem test_meets_records :
    (let s := launching0 {} (record0 0) []
     let full : State := { s with dev := { s.dev with queues := [(63, List.replicate 256 1)] } }
     let rd := fun (s : State) => dispRead s 0 (queueSpace s 63) 0x1000 256 { r := true, lvl := 2 }
     let x := 1 + 2 ^ 16 + 4 * 2 ^ 320 + 0x3000 * 2 ^ 512 + 0x2000 * 2 ^ 576
     linkReady s = true ∧ linkReady full = true ∧ 256 ≤ (fget [] full.dev.queues 63).length ∧
     (fget [] { full with dev := { full.dev with queues := [(63, List.replicate 255 1)] } }.dev.queues 63).length < 256 ∧
     (0x1080 : W64).toNat % 256 ≠ 0 ∧ (0x1000 : W64).toNat % 256 = 0 ∧ rd s = some (bytesOf 256 x) ∧ ofBytes (bytesOf 256 x) = x ∧
     rd (launching0 {} [] []) = some (List.replicate 256 0) ∧ recordShape (ofBytes (List.replicate 256 0)) = false ∧
     rd (launching0 {} [(0x1000, 2)] []) = some (bytesOf 256 2) ∧ recordShape (ofBytes (bytesOf 256 2)) = true ∧ ofBytes (bytesOf 256 2) % 256 = 2 ∧
     recordShape x = true ∧ x % 256 ≠ 2 ∧
     ((judgeKernel s 0 0 63 x).map (fun p => placesReady s p.1.det p.2.1)) = some true ∧
     ((judgeKernel (launching0 {} (record0 1) []) 0 0 63 x).map (fun p => placesReady (launching0 {} (record0 1) []) p.1.det p.2.1)) = some false ∧
     (let l : LoadRec := { load0 (.enq 0x1000 63) with space := 0 }
      let t : State := { s with loads := [l] }
      t.loads.find? (fun y => decide (y.id = l.id)) = some l ∧ needsMet t l.ctx 3 l.needs = true ∧ queueSpace t 63 = l.space ∧
      queueSpace t 63 ≠ { l with space := 63 }.space)) := by
  and_intros <;> first | decide +kernel | rfl
/-- A queued launch whose predecessor failed, one whose turn it is, an event-only one; what a cancel and a reset queue name. -/
theorem test_meets_starts :
    (let a : Launch := { st := .ended true }
     let b : Launch := { rec_ := { kind := 1, n := 4, after1 := 1, graph := 5 } }
     let e : Launch := { rec_ := { kind := 2, n := 1, prio := 7, queue := 63 } }
     let s : State := { launching0 {} [] [(1, a), (2, b), (3, e)] with dev := { (launching0 {} [] [(1, a), (2, b), (3, e)]).dev with queues := [(0, [2]), (63, [3])] } }
     (s.launch 2).st = .queued ∧ (predFailed s (s.launch 2).rec_.after0 = true ∨ predFailed s (s.launch 2).rec_.after1 = true) ∧
     (s.launch 2).cancelled = false ∧ (s.launch 3).st = .queued ∧ nextLaunchOf s = some 3 ∧
     ¬(predFailed s (s.launch 3).rec_.after0 = true ∨ predFailed s (s.launch 3).rec_.after1 = true) ∧ (s.launch 3).rec_.kind = 2 ∧
     linkReady s = true ∧ linkReady (on {}) = false ∧ namedLaunches s 1 5 = [2] ∧ fget? s.dev.launches 3 = some e ∧ (∀ f, e.st ≠ .ended f) ∧ e.rec_.queue = 63) := by
  refine ⟨rfl, by decide +kernel, rfl, rfl, by decide +kernel, by decide +kernel, rfl, by decide +kernel, by decide +kernel, by decide +kernel, rfl, ?_, rfl⟩
  intro f h; cases h
/-- A running launch with a pool of one core of die 0, whose context 0 is as given. -/
def working0 (r : LaunchRec) (p : Pool) (run : Run) : State :=
  launching0 { run := run } [] [(1, { rec_ := { r with n := 4, exts := [4], ndims := 1 }, st := .running, pools := [p] })]
def pool0 : Pool := { a := 0, b := 4, lo := 0, hi := 4, die := 0, cores := 1, claimed := [], static := [(0, 0, 4)] }
/-- A claim by a resting walker, by an idle seat, under DET; a walker at the first and at the last step of its range. -/
theorem test_meets_claims :
    (let rest : Run := { busy := true, live := true, launch := 1 }
     mayClaim (working0 {} pool0 rest) 0 0 1 0 = some (0, 4) ∧ restsOn (working0 {} pool0 rest) 0 0 1 = true ∧
     ((working0 {} pool0 rest).launch 1).pools[0]? = some pool0 ∧
     mayClaim (working0 {} pool0 {}) 0 0 1 0 = some (0, 4) ∧ restsOn (working0 {} pool0 {}) 0 0 1 = false ∧
     mayClaim (working0 { det := true } pool0 {}) 0 0 1 0 = some (0, 4) ∧
     (∀ cur ∈ [0, 3], let run := { rest with wst := .enter, cur := cur, hi := 4 }
        let s := working0 {} pool0 run
        atBoundary s 0 = true ∧ (s.ctx 0).run.wst = .enter ∧ (s.ctx 0).lvl = 0 ∧ stepEligible s 0 = true ∧ reportDue (s.ctx 0) = none)) := by
  and_intros <;> first | decide +kernel | rfl
/-- A context without work, with a write in flight; a launch whose units are counted and whose writes are performed. -/
theorem test_meets_ends :
    (let run : Run := { busy := true, live := true, launch := 1, ending := true }
     let s : State := { working0 {} pool0 run with writes := [write0 2] }
     let c := s.ctx 0
     c.run.live = true ∧ c.run.halted = false ∧ c.run.saved = false ∧ c.lvl = 0 ∧ c.quiet = true ∧ c.per.armed = false ∧ workDone s 0 = true ∧
     exchanging s c.run.lcore c.run.bank = false ∧ c.run.bank < 2 ∧ (∀ w ∈ s.writes, w.agent ≠ 0 ∧ w.ctx = 0)) ∧
    (let x : Launch := { rec_ := { n := 4 }, st := .running, done := 3, failed := 1, writes := [9] }
     let s : State := { launching0 { run := { launch := 1 } } [] [(1, x)] with writes := [write0 4] }
     launchOver s 1 = true ∧ (∀ w ∈ launchWrites s 1, w.stash = none ∧ w.performedAt 3 = true) ∧ launchWrites s 1 = [write0 4]) := by
  and_intros <;> first | decide +kernel | rfl
/-- A resting walker with no pool left, without and with a victim of two steps; a steal to split, granted, and of a cancelled launch. -/
theorem test_meets_steals :
    (let rest : Run := { busy := true, live := true, launch := 1 }
     let dry := { pool0 with a := 4 }
     let s := working0 {} dry rest
     let v : State := s.setCtx 3 { run := { busy := true, live := true, launch := 1, wst := .run, cur := 1, hi := 3, lcore := 1 } }
     let st : Steal := { id := 8, core := 0, seat := 0, victim := 3, launch := 1 }
     let w := fun (x : Steal) (l : Bool) => ({ v with dev := { v.dev with steals := [x], launches := [(1, { v.launch 1 with cancelled := l })] } } : State)
     restsOn s 0 0 1 = true ∧ (s.launch 1).rec_.det = false ∧ (s.launch 1).working = true ∧ hasWork s 0 0 1 = false ∧ resumeDue s 0 0 1 = false ∧
     s.dev.steals = [] ∧ victimOf s 1 0 [] = none ∧ victimOf v 1 0 [] = some 3 ∧ restsOn v 0 0 1 = true ∧ hasWork v 0 0 1 = false ∧ resumeDue v 0 0 1 = false ∧
     (∀ l, (w st l).dev.steals.find? (fun t => decide (t.id = st.id)) = some st) ∧ st.range = none ∧ ((w st false).launch 1).working = true ∧
     mayLose (w st false) 1 3 = true ∧
     (∀ l, ((w { st with range := some (2, 3) } l).launch 1).cancelled = l ∧ restsOn (w { st with range := some (2, 3) } l) 0 0 1 = true)) := by
  and_intros <;> first | decide +kernel | rfl
/-- Core 0 with context 0 on seat 0 and context 2 saved in the standby bank, of two launches. -/
def swap0 (a b : Ctx) (x : CoreSt) : State :=
  { (launching0 a [] [(1, { rec_ := { n := 4 }, st := .running, pools := [pool0] }), (2, { rec_ := { n := 4, prio := 5, entry := 0x40 }, st := .running, pools := [pool0] })]).setCtx 2 b with
    cores := [(0, x)], dies := [(0, { ready0 with ctl := [(0x4010, 4), (0x4500, 0x7F), (0x4508, 0xFFFFFFFFFFFFFFFF)] })] }
/-- A walker's run on core 0. -/
def walk0 (l : Nat) : Run := { busy := true, live := true, launch := l, wst := .run, hi := 4, pre := true }
theorem test_meets_exchanges :
    (let t := swap0 { run := walk0 1, dbg := { st := 1 } } { run := { walk0 2 with saved := true, bank := 2 } } { want := some 0 }
     let s : State := { t with mem := memWrite [] 4 (bytesOf 12 0xB00000002000000017200000),
                               dies := [(0, { t.die 0 with tlb := [{ space := 0, va := 0, bits := 21, leaf := 0x3B }] })] }
     (s.core 0).want = some 0 ∧ mayExchange s 0 0 = true) ∧
    (let s := swap0 { run := walk0 1 } { run := { walk0 2 with saved := true } } { exch := some { seat := 0, left := 0 } }
     (s.core 0).exch = some { seat := 0, left := 0 } ∧ s.bankOf 0 0 ≠ s.bankOf 0 2) := by
  and_intros <;> first | decide +kernel | rfl
/-- A saved context to write out with a free image slot, one to prefill, one whose seat is idle to resume, and a seat to pre-empt. -/
theorem test_meets_saves :
    (let sv : Ctx := { run := { walk0 1 with saved := true } }
     let put := fun (s : State) (d : DieSt) => ({ s with dies := [(0, d)] } : State)
     let d0 : DieSt := { ready0 with ctl := [(0x4010, 1), (0x4500, 0x7F), (0x4508, 0xFFFFFFFFFFFFFFFF)], savedq := [2] }
     let s := put (swap0 {} sv {}) d0
     let p := put { (swap0 {} {} {}).setCtx 9 sv with cores := [] } { d0 with savedq := [9], pool := [(0, 9)] }
     let e := swap0 { run := walk0 1 } {} {}
     unwritten s 0 2 = true ∧ parkedQuiet s 0 2 = true ∧ s.bankOf 0 2 = 2 ∧ firstFree (s.die 0).pool 0 < imageSlots s 0 ∧ (s.core 0).exch = none ∧
     2 ≠ 2 ^ 20 + s.nextId ∧
     (p.ctx (p.bankOf 0 2)).run.live = false ∧ (p.core 0).exch = none ∧ (∃ q ∈ p.dies, ∃ e ∈ q.2.pool, e.2 = 9) ∧ mayResume p 9 = true ∧
     coreOpen p 0 = true ∧ (∃ q ∈ (p.launch (p.ctx 9).run.launch).pools, q.names 0 = true) ∧
     (e.launch 2).working = true ∧ (∃ q ∈ seatsOn e 0 2, hasWork e q.1 q.2 2 = true) ∧
     (∀ q ∈ seatsOn e 0 2, hasWork e q.1 q.2 2 = true → seatFor e q.1 q.2 2 = false) ∧ victimSeat e 0 2 = some (0, 0) ∧
     resumeSeat p 9 = some (0, 0) ∧ savedList p = 9 :: [] ∧ bestFor { p with dev := { p.dev with launches := [(1, p.launch 1)] } } 0 0 1 = true ∧
     resumeSeat { p with dev := { p.dev with launches := [(1, p.launch 1)] } } 9 = some (0, 0) ∧
     imageLoaded p 0 1 = true ∧ parkedQuiet p 0 9 = true ∧ 9 < 2 ^ 20 + p.nextId) := by
  and_intros <;> first | decide +kernel | rfl
theorem test_meets_domains :
    (let s : State := { on {} with cores := [(0, { domains := [(0, 3)] })] }
     (s.ctx (s.bankOf 0 0)).run.live = false ∧ (s.ctx (s.bankOf 0 0)).run.halted = false ∧ (s.ctx (s.bankOf 0 0)).cmds = [] ∧ fget 0 (s.core 0).domains 0 ≠ 4) ∧
    (let s : State := launching0 {} [] [(1, { st := .ended false })]
     (∀ p ∈ s.dev.launches, (s.launch p.1).alive = false) ∧ (∀ p ∈ s.ctxs, p.2.run.live = false ∧ p.2.cmds = [])) := by
  and_intros <;> first | decide +kernel | rfl
/-- The oldest report at its level, with its block mapped and not; at each level that takes one. -/
theorem test_meets_reports :
    (let r := fun (l : Nat) => ({ cause := 0x17, status := 4, kind := 1, lvl := l, seq := 1, pc := 0, detail := 0, bytes := 0 } : Report)
     let s := fun (l : Nat) => launching0 { run := { live := true, busy := true }, sys := { status := BitVec.ofNat 64 l }, reports := [r l], nrep := 15 } [] []
     let bad : State := { s 0 with dies := [(0, { ctl := [(0x4500, 0x7F)] })] }
     (∀ l ∈ [0, 1], ((s l).ctx 0).reports = r l :: [] ∧ (r l).lvl = ((s l).ctx 0).lvl ∧ atBoundary (s l) 0 = true ∧
       (dieStore (s l) 0 0 (dieReg (s l) 0 0x4000 0 + BitVec.ofNat 64 (64 * 15)) (reportBytes (r l) 16)).isOk = true ∧ (r l).cause ≠ 0x0C) ∧
     (bad.ctx 0).reports = r 0 :: [] ∧ atBoundary bad 0 = true ∧
     (dieStore bad 0 0 (dieReg bad 0 0x4000 0 + BitVec.ofNat 64 (64 * 15)) (reportBytes (r 0) 16)).isOk = false) := by
  and_intros <;> first | decide +kernel | rfl
/-- A running launch with a seat that runs; a stop that gathers with its seat still; a cut that its seat has reached, missed, or not. -/
theorem test_meets_stops :
    (let w := fun (st : Option (Option W64)) (d : Debug) =>
       ({ launching0 { run := walk0 1, dbg := d, ctr := { msord := 5 } } [] [(1, { rec_ := { n := 4 }, st := .running, stopping := st })] with ticks := 0 } : State)
     let s := w none { st := 1 }
     (s.launch 1).st = .running ∧ (s.launch 1).cancelled = false ∧ (s.launch 1).stopping = none ∧ stopCtxs s 1 = [0] ∧ (s.ctx 0).runs = true ∧ (s.ctx 0).dbg.st ≠ 3 ∧
     ((w (some none) { st := 3 }).launch 1).stopping = some none ∧ (∀ k ∈ stopCtxs (w (some none) { st := 3 }) 1, standsStill (w (some none) { st := 3 }) k = true) ∧
     ((w (some (some 5)) { st := 3, at_ := true }).launch 1).stopping = some (some 5) ∧ ((w (some (some 5)) { st := 3, at_ := true }).launch 1).stopped = false ∧
     (∀ d ∈ [({ st := 3, at_ := true } : Debug), { st := 3, missed := true }], ∀ k ∈ stopCtxs (w (some (some 5)) d) 1,
       (((w (some (some 5)) d).ctx k).dbg.st = 3 ∨ ((w (some (some 5)) d).ctx k).run.saved = true) ∧
       ((((w (some (some 5)) d).ctx k).dbg.at_ = true ∧ ((w (some (some 5)) d).ctx k).ctr.msord = 5) ∨ ((w (some (some 5)) d).ctx k).dbg.missed = true)) ∧
     ((w (some (some 6)) { st := 1 }).ctx 0).run.launch = 1 ∧ ((w (some (some 6)) { st := 1 }).ctx 0).dbg.at_ = false) := by
  and_intros <;> first | decide +kernel | rfl
/-- Seats in each state that the SCTL commands tell apart. -/
theorem test_meets_debug :
    (let s := fun (r : Run) (d : Debug) => on { run := r, dbg := d }
     (∀ r d, ((s r d).die (dieOf 0)).scan = none) ∧ stOf (s (walk0 1) { st := 1 }) 0 0 = 1 ∧ (s (walk0 1) { st := 1 }).my.runs = true ∧
     stOf (s (walk0 1) { st := 3 }) 0 0 = 3 ∧ stOf (s (walk0 1) { st := 4 }) 0 0 = 4 ∧ stOf (s {} {}) 0 0 = 0 ∧ stOf (s { walk0 1 with halted := true } {}) 0 0 = 5 ∧
     (s { walk0 1 with halted := true } {}).my.run.halted = true ∧ (s {} {}).my.run.halted = false) := by
  refine ⟨fun _ _ => rfl, ?_⟩
  and_intros <;> first | decide +kernel | rfl
/-- Page tables of space 0 at 0x1000 to 0x4000 on die 0, whose last entry maps 2 MiB. -/
def tables0 : List Host.Cell := memWriteCells [] [(0x1000, 1), (0x1001, 0x20), (0x2000, 1), (0x2001, 0x30), (0x3000, 1), (0x3001, 0x40), (0x4000, 0x1B)]
/-- A die without and with a shootdown in progress and nothing it waits for; a page to flip, flips that break a rule, one in progress. -/
theorem test_meets_shootdowns :
    (let s : State := { on {} with dies := [(0, ready0)], mem := tables0, dev := { State.reset.dev with ctl := [(0x4100, 0x1001)] } }
     let b : State := { s with dies := [(0, { ready0 with shoot := { busy := true, ids := [9] } })], writes := [write0 4] }
     (s.die 0).shoot.busy = false ∧ 63 < 64 ∧ 2 ^ 22 - 1 < 2 ^ 22 ∧ (b.die 0).shoot.busy = true ∧
     (∀ i ∈ (b.die 0).shoot.ids, (∀ l ∈ b.loads, l.id ≠ i) ∧ (∀ w ∈ b.writes, w.id = i → w.performedAt 3 = true)) ∧
     (s.die 0).flip = none ∧ (flipFor s 0 0x2000000000000000).isSome = true ∧ flipFor s 0 0x0080000000000000 = none ∧
     (let f : Flip := { space := 0, va := 0, bits := 21, pteKey := 0x4000, new := true }
      let g : State := { s with dies := [(0, { ready0 with flip := some f })] }
      (g.die 0).flip = some f ∧ g.writes = [] ∧ flipQuiet g f = true)) := by
  and_intros <;> first | decide +kernel | rfl
/-- An abort that waits to be logged and none; functions that can be removed and not, in each register; a die whose firmware is authentic and not. -/
theorem test_meets_errors :
    (let can := fun (v : W64) => (v.toNat / 256 % 8 = 0 ∧ 1 ≤ v.toNat % 256 ∧ v.toNat % 256 ≤ 6) ∨ ((v.toNat / 256 % 8 = 2 ∧ v.toNat % 256 < 16) ∨
       (v.toNat / 256 % 8 = 3 ∧ v.toNat % 256 < 64) ∨ (v.toNat / 256 % 8 = 4 ∧ v.toNat % 256 < 8))
     let s : State := { on {} with dev := { State.reset.dev with auth := 0x80000000, removed := [(31, 0, 2)] } }
     (can 1 ∧ can 6 ∧ can 0x20F ∧ can 0x33F ∧ can 0x407 ∧ ¬can 0 ∧ ¬can 7 ∧ ¬can 0x210 ∧ ¬can 0x340 ∧ ¬can 0x408 ∧ ¬can 0x100) ∧
     s.dev.auth.getLsbD 31 = true ∧ (31, 0, 1) ∉ s.dev.removed ∧ (31, 0, 2) ∈ s.dev.removed ∧ s.dev.auth.getLsbD 0 = false ∧
     (let a : Abort := { die := 0, source := 8, key := 64, va := 0x40, seq := 1, lcore := 0 }
      a ∉ s.dev.found ∧ a ∈ { s with dev := { s.dev with found := [a] } }.dev.found ∧ ∀ i, (traceOf s 0 i).records 8 0 = false)) := by
  and_intros <;> first | decide | (intro i; show TraceSes.records {} 8 0 = false; decide)
theorem test_meets_power :
    State.reset.dev.powered = true ∧ State.reset.dev.auth = 0 ∧ { State.reset with dev := { State.reset.dev with powered := false } }.dev.powered = false ∧
    { State.reset with dev := { State.reset.dev with auth := 1 } }.dev.auth ≠ 0 := by
  and_intros <;> decide
/-- A frame for each reason to drop it and one to accept, at a port of the last group that is up, with an owner's key in slot 1; groups of
three and four other owners. -/
theorem test_meets_ports :
    (let h := fun (life type key seq : Nat) => (BitVec.ofNat 256 (key * 2 ^ 51 + type * 2 ^ 120 + 7 * 2 ^ 126 + life * 2 ^ 176 + seq * 2 ^ 192) : BitVec 256)
     let f := fun (life type key seq : Nat) => ({ hdr := h life type key seq, data := [1], tag := kmac256 5 (bytesOf 32 (h life type key seq).toNat ++ [1]) } : Frame)
     let s0 := fabric0 (cmd0 .matrix 2) [] [] []
     let s : State := { s0 with dev := { s0.dev with keys := [(65536 * 7 + 7, { cur := 1, k1 := some 5 })], accepted := [(65536 * 71 + 7, 8)] } }
     let full := fun (n : Nat) => (List.range n).map (fun i => (65536 * 7 + i, ({} : KeySlot)))
     let late : State := { s with dies := [(0, { cycle := 120000 })] }
     (fget? late.dev.keys (65536 * 7 + 7) = some { cur := 1, k1 := some 5 } ∧ linkTmo late ≤ ((late.die 0).cycle - ({} : KeySlot).since).toNat ∧
      ((s.die 0).cycle - ({} : KeySlot).since).toNat < linkTmo s) ∧
     portUp s 71 = true ∧ fget? s.dev.keys (65536 * (71 / 9) + frOwner (f 1 1 1 9)) = some { cur := 1, k1 := some 5 } ∧ fget? s0.dev.keys (65536 * (71 / 9) + 7) = none ∧
     frSeq (f 1 1 1 8) ≤ fget 0 s.dev.accepted (65536 * 71 + 7) ∧ fget 0 s.dev.accepted (65536 * 71 + 7) < frSeq (f 1 1 1 9) ∧
     frKey (f 1 1 0 9) = 0 ∧ frKey (f 1 1 1 9) ≠ 0 ∧ (f 1 1 1 9).tag = kmac256 5 (bytesOf 32 (f 1 1 1 9).hdr.toNat ++ (f 1 1 1 9).data) ∧
     { f 1 1 1 9 with tag := (f 1 1 1 9).tag + 1 }.tag ≠ kmac256 5 (bytesOf 32 (f 1 1 1 9).hdr.toNat ++ (f 1 1 1 9).data) ∧
     frLife (f 0 1 1 9) = 0 ∧ frLife (f 1 5 1 9) ≠ 0 ∧ frType (f 1 5 1 9) ∉ [1, 2, 3, 4, 8, 9, 10, 16, 17] ∧ frType (f 1 10 1 9) ∈ [1, 2, 3, 4, 8, 9, 10] ∧
     ((full 3).filter (fun p => decide (p.1 / 65536 = 7) && decide (p.1 ≠ 65536 * 7 + 7))).length < 4 ∧ fget? (full 4) (65536 * 7 + 7) = none ∧
     4 ≤ ((full 4).filter (fun p => decide (p.1 / 65536 = 7) && decide (p.1 ≠ 65536 * 7 + 7))).length) := by
  and_intros <;> first | decide +kernel | rfl | skip
theorem frDst_ofNat (d : BitVec 17) (h : d.toNat * 2 ^ 159 < 2 ^ 256) :
    frDst { hdr := BitVec.ofNat 256 (d.toNat * 2 ^ 159), data := [], tag := 0 } = d := by
  simp only [frDst, fld]
  apply BitVec.eq_of_toNat_eq
  rw [BitVec.toNat_ofNat, BitVec.toNat_ofNat, Nat.mod_eq_of_lt h, Nat.mul_div_cancel _ (by positivity), Nat.mod_eq_of_lt d.isLt]
/-- A frame whose destination is the device's own number, whatever that is. -/
theorem test_meets_own_frames : ∃ hdr : BitVec 256, frDst { hdr := hdr, data := [], tag := 0 } = Config.deviceNumber :=
  ⟨_, frDst_ofNat Config.deviceNumber (Nat.lt_of_lt_of_le (Nat.mul_lt_mul_of_pos_right Config.deviceNumber.isLt (by decide)) (by decide))⟩
theorem test_meets_scans :
    (let x := fun (r : Bool) => ({ pcore := 67, prev := 0, lcore := none, bin := 0, runs := r } : Scan)
     let s := fun (x : Option Scan) (ctl : FMap W64) => ({ on {} with dies := [(0, { ctl := ctl, scan := x })] } : State)
     let scanning := s (some (x false)) [(0x4A40, BitVec.ofNat 64 (2 ^ 56))]
     (scanSt (s none []) 0 ≠ 1 ∧ scanSt (s none []) 0 ≠ 2 ∧ pcstat (s none []) 0 0 = 0 ∧ pcstat (s none []) 0 64 = 1) ∧
     (scanning.die 0).scan = some (x false) ∧ scanSt scanning 0 = 1 ∧ ((s (some (x true)) []).die 0).scan = some (x true) ∧
     scanPressed (s (some (x true)) []) 0 (x true) = false ∧
     (let p := working0 { prio := 7 } pool0 {}
      scanPressed { p with dies := [(0, { p.die 0 with scan := some { x false with lcore := some 0 } })] } 0 { x false with lcore := some 0 } = true) ∧
     (let e := s none [(0x4800, 2)]
      coreEmpty e 0 = true ∧ fget? (e.die 0).rebind 0 = none ∧ bit (lcmapOf e 0 0) 7 = true ∧
      pcState (pcstat e 0 (physOf e 0)) = 2 ∧ bestSpare e 0 = some 64 ∧
      bestSpare (s none [(0x4800, 3), (0x4A00, 3), (0x4A08, 3), (0x4A10, 3), (0x4A18, 3)]) 0 = none ∧
      pcState (pcstat (s none [(0x4800, 3), (0x4A00, 3), (0x4A08, 3), (0x4A10, 3), (0x4A18, 3)]) 0 0) = 3)) := by
  and_intros <;> first | decide +kernel | rfl
/-- Monitors with a level source at both edges and not, lines that select each source, asserted, sent and acting; sessions; the companion. -/
theorem test_meets_monitors :
    (let m := fun (n : Nat) => ({ cfg := BitVec.ofNat 64 (2 ^ 63 + n * 2 ^ 50) } : Monitor)
     let s : State := { launching0 {} [] [] with
       dies := [(0, { ready0 with cycle := 64, ctl := [(0x4500, 0x7F), (0x61F8, 0x8000000008800000), (0x63F8, 0x12)], mons := [(0, m 10), (1, m 12), (2, m 9)], lines := [(63, 0x8000000)],
                                  remote := [63], trace := [(0, {}), (1, { ctl := 0x8000000000000000 })] })] }
     (∀ u ∈ [0, 1], (fget {} (s.die 0).mons u).cfg.getLsbD 63 = true ∧ 10 ≤ ((fget {} (s.die 0).mons u).cfg.extractLsb' 50 6).toNat ∧
       ((fget {} (s.die 0).mons u).cfg.extractLsb' 50 6).toNat ≤ 12 ∧ (fget {} (s.die 0).mons u).spans.toNat < (s.die 0).cycle.toNat / 64) ∧
     (s.die 1).cycle.toNat / 64 ≤ (fget {} (s.die 1).mons 0).spans.toNat ∧ ((fget {} (s.die 0).mons 2).cfg.extractLsb' 50 6).toNat < 10 ∧
     (fget 0 (s.die 0).ctl (0x6000 + 8 * 63)).getLsbD (24 + 3) = true ∧ (fget 0 (s.die 0).ctl (0x6000 + 8 * 63)).getLsbD 23 = true ∧
     (0x6000 + 8 * 63, fget 0 (s.die 0).ctl (0x6000 + 8 * 63)) ∈ (s.die 0).ctl ∧ fget 0 (s.die 0).lines 0 = 0 ∧ fget 0 (s.die 0).lines 63 ≠ 0 ∧
     (dieReg s 0 (0x6000 + 8 * 63) 0).getLsbD 63 = true ∧ (trgAct s 0 63).getLsbD 1 = true ∧ (trgAct s 0 63).getLsbD 4 = true ∧ 63 ∈ (s.die 0).remote ∧
     0 ∉ (s.die 0).remote ∧ (traceOf s 0 0).open_ = false ∧ (traceOf s 0 1).open_ = true ∧ linkReady s = true ∧ companionWaits s = false ∧
     linkReady (on {}) = false ∧
     (let c : State := { launching0 {} tables0 [] with dev := { State.reset.dev with ctl := [(0x4100, 0x1001), (0x4528, 1)] } }
      (companionRead c 0 0x1000 2).isSome = true)) := by
  and_intros <;> first | decide +kernel | rfl
/-- Values that the registers of the window take and refuse, at their edges. -/
theorem test_meets_control_writes :
    (∀ n ∈ [1, 2, 3, 4, 5], (BitVec.ofNat 64 (n * 2 ^ 28)).toNat / 2 ^ 28 % 16 = n) ∧ (0xF0000000 : W64).toNat / 2 ^ 28 % 16 = 15 ∧
    (let s : State := { on {} with dies := [(0, { ctl := [(0x4800, 3)] })] }
     (pcstat s 0 0).toNat % 8 = 3 ∧ (pcstat s 0 1).toNat % 8 = 0 ∧ (pcstat s 0 67).toNat % 8 = 1) ∧
    ((0x21 : W64).toNat % 8 ≠ 0 ∧ (0x21 : W64).toNat % 8 < 5 ∧ (0x21 : W64).toNat / 16 % 4 ≠ 3) ∧
    ((0x0080000000000000 : W64).toNat / 2 ^ 60 = 0 ∧ (0x0080000000000000 : W64).getLsbD 55 = true) ∧
    ((0x1000000000000000 : W64).toNat / 2 ^ 60 = 1 ∧ (0x1000000000000000 : W64).getLsbD 55 = false) ∧
    ((0x3000000000000000 : W64).getLsbD 62 = false ∧ (0x3000000000000000 : W64).toNat / 2 ^ 60 % 4 = 3) := by
  and_intros <;> decide +kernel
/-- Context 0 running a bundle with one S word at address 0 on seat 0 of core 0. -/
def issue0 (i : Instr) (c : Ctx) : State :=
  launching0 { c with run := walk0 1, dbg := { st := 1 } } (memWrite [] 4 (bytesOf 4 ((encodeWord i).getD 0).toNat ++ bytesOf 8 0xB000000020000000)) [(1, { st := .running })]
def words0 (i : Instr) : List W32 := [0, (encodeWord i).getD 0, 0x20000000, 0xB0000000]
def ins0 (i : Instr) : List Instr := [i, .vnop .v0, .vnop .v1]
/-- What a word comes to: 0 an effect, 1 a trap, 2 a hold, 3 a fault. -/
def outcome (r : Res State) : Nat :=
  match r with
  | .ok _ => 0
  | .error (.trap _) => 1
  | .error (.hold _) => 2
  | .error (.fault _) => 3
def queue0 (st : QState) : Ctx := { q := { lq := [(0, [{ st := st, data := 5 }])] } }
/-- A seat's bundle of `exit`, of an `add` that finds its queue's head, of one that waits for it and of one that finds none, and of NOPs;
what each comes to, with room in the queues. -/
theorem test_meets_issues :
    (∀ p ∈ [(Instr.exit, ({} : Ctx)), (.add 1 56 2 0, queue0 .arrived), (.add 1 56 2 0, queue0 .reserved), (.add 1 56 2 0, {}), (.nop, {})],
      Say.issues (issue0 p.1 p.2) 0 (words0 p.1) (ins0 p.1) (if p.1 = .nop then [] else [p.1]) ∧
      Say.fits (issueState (issue0 p.1 p.2) 0 (words0 p.1) (ins0 p.1)) (ins0 p.1)) ∧
    (let go := fun (i : Instr) (c : Ctx) => outcome (wordExec i (issueState (issue0 i c) 0 (words0 i) (ins0 i)))
     go .exit {} = 0 ∧ go (.add 1 56 2 0) (queue0 .arrived) = 0 ∧ go (.add 1 56 2 0) (queue0 .reserved) = 2 ∧ go (.add 1 56 2 0) {} = 1) := by
  refine ⟨?_, by decide +kernel, by decide +kernel, by decide +kernel, by decide +kernel⟩
  intro p hp
  simp only [List.mem_cons, List.not_mem_nil, or_false] at hp
  rcases hp with rfl | rfl | rfl | rfl | rfl <;> unfold Say.issues Say.fits <;> and_intros <;> first | decide +kernel | rfl
/-- Classes of a seat that is ready. -/
def readyClasses (r : Ready) : List Nat :=
  match r with
  | .ready cs _ _ => cs
  | _ => []
/-- A core from which issue is withheld, one of whose seats exchanges, and two ready seats that share a class with each order of priority. -/
theorem test_meets_cycles :
    (let s := issue0 .exit {}
     let two := fun (n : Nat) (d0 d1 : Bool) =>
       ({ ((s.setCtx 0 { s.ctx 0 with run := { walk0 1 with det := d0 } }).setCtx 1 { s.ctx 0 with run := { walk0 1 with bank := 1, det := d1 } }) with
          cores := [(0, { starve1 := n })] } : State)
     withheld { s with dev := { s.dev with powered := false } } 0 = true ∧ withheld s 0 = false ∧ exchanging s 0 0 = false ∧
     exchanging { s with cores := [(0, { exch := some { seat := 1, left := 3 } })] } 0 1 = true ∧
     exchanging { s with cores := [(0, { exch := some { seat := 1, left := 3 } })] } 0 0 = false ∧
     (∀ n ∈ [3, 4, 7], ∃ x ∈ readyClasses (seatReady (atCycle (two n false false) 0) 0), x ∈ readyClasses (seatReady (atCycle (two n false false) 0) 1)) ∧
     (∃ x ∈ readyClasses (seatReady (atCycle (two 0 true true) 0) 0), x ∈ readyClasses (seatReady (atCycle (two 0 true true) 0) 1)) ∧
     (∃ x ∈ readyClasses (seatReady (atCycle (two 0 false true) 0) 0), x ∈ readyClasses (seatReady (atCycle (two 0 false true) 0) 1)) ∧
     withheld (two 0 false true) 0 = false) := by
  and_intros <;> decide +kernel
/-- A bundle's end with writes due and not, with and without a branch, a chain, a loop that ends elsewhere and one with a pass to go. -/
theorem test_meets_bundle_ends :
    (let l : LoopLvl := { start := 0, last := 8, after := 24, nbody := 1, rem := 2, iter := 0, finish := false, buf := [] }
     let c : Ctx := { flow := { npc0 := 8, loops := [l], pend0 := [{ cls := 1, reg := 3, kind := 0, delay := 1, value := 5 }, { cls := 1, reg := 4, kind := 0, delay := 2, value := 6 }] },
                      iss := { br := some { target := some 64, bubble := true } } }
     (on c).my.iss.fx = [] ∧ (∃ p ∈ (on c).my.pend, 1 < p.delay) ∧ (∃ p ∈ (on c).my.pend, p.delay ≤ 1) ∧ (on c).my.flow.npc1 = 1 ∧ (on {}).my.iss.br = none ∧
     loopEnd (12 : W64) c.flow.loops.reverse = ([], c.flow.loops.reverse, none) ∧ c.flow.loops = [] ++ [l] ∧ l.last = c.flow.npc0 ∧ l.finish = false ∧ 1 < l.rem) := by
  and_intros <;> first | decide +kernel | rfl
/-- A step that answers a state, and has a next instruction in its agenda, in a core's cycle, or among a call's microwords. -/
def answers (r : Host.Outcome State Fault Refusal) : Bool :=
  match r with
  | .next _ => true
  | _ => false
theorem test_meets_steps_of_the_device :
    ({ State.reset with agenda := [.thermalShutdown] }.agenda = .thermalShutdown :: []) ∧ State.reset.agenda = [] ∧ State.reset.held = none ∧
    State.reset.turn = .issue 0 ∧ answers (exec (.bundleIssue 0) State.reset) = true ∧
    (let s := micro0 {} run0
     s.turn = .micro 0 ∧ (s.core 0).run = some run0 ∧ run0.stop = none ∧ run0.returned = false ∧ run0.loading = false ∧ run0.steps = [] ∧ run0.drains = [] ∧
     decodeMicro (storeAt (s.core 0) run0.idx) = some .microwordMnop ∧ answers (exec .microwordMnop s) = true) ∧
    canonicalMemory (issue0 .exit {}) ∧ answers (step (issue0 .exit {})) = true := by
  refine ⟨rfl, rfl, rfl, rfl, by decide +kernel, ?_, by unfold canonicalMemory; decide +kernel, by decide +kernel⟩
  and_intros <;> first | decide +kernel | rfl
/-- Well-formed words of each class encode, with either stop bit, and microwords do. -/
theorem test_meets_encodings :
    (∀ i ∈ [Instr.add 1 2 3 0, .vadd .v1 8 1 2 3 0, .mcall 1023 1 1 1 2 0, .vstm .c1 15 3 3 3, .barArr 2047 2], i.illegal = none ∧ (encodeWord i).isSome = true) ∧
    (∀ i ∈ [Instr.microwordMnop, .mldw 511 1 255, .mloop 0 1 65535], (encodeMicro i).isSome = true) ∧
    (judgeWord 0x94010083).isOk = true := by
  and_intros <;> decide
/-- `li 1 7` and `lis 9 0xDEF`, placed where the reset machine fetches, run in its first step. -/
theorem test_placed_words_run :
    (∀ w ∈ [(0x13B24DEF : Nat), ((encodeWord (.li 1 7)).getD 0).toNat], answers (step (State.reset.withFetchWord 32 w)) = true) := by
  decide +kernel
/-- A context with arrived and faulted loads, a store-queue entry, spilled values and a pending write; a pool that one block maps. -/
def imaged0 : Ctx :=
  { q := { lq := [(1, [{ st := .arrived, data := 5 }, { st := .faulted, faddr := 0x8000000000000010 }])], sq := [(2, [{ data := 7, count := 8 }])]
           spill := [(3, { value := 9, wide := true, place := .accumulator }), (4, { value := 9, wide := false, place := .area })] }
    flow := { pend0 := [{ cls := 1, reg := 4, kind := 0, delay := 2, value := 6 }] } }
def pooled0 : State := { on {} with dies := [(0, ready0)], dev := { State.reset.dev with ctl := [(0x4100, 1)] } }
theorem test_meets_image_layouts :
    ((fget [] imaged0.q.lq 1)[0]? = some { st := .arrived, data := 5 } ∧ (fget [] imaged0.q.lq 1)[1]? = some { st := .faulted, faddr := 0x8000000000000010 } ∧
     (fget [] imaged0.q.sq 2)[0]? = some { data := 7, count := 8 } ∧ (fget? imaged0.q.spill 3).isSome = true ∧ (fget? imaged0.q.spill 4).isSome = true ∧
     imaged0.flow.pend0[0]? = some { cls := 1, reg := 4, kind := 0, delay := 2, value := 6 }) ∧
    (∃ x, (imageLayout pooled0 0)[0]? = some x ∧ x.fixed = 0xFF) ∧ Memory.wf pooled0.mem = true ∧
    (imageBytes pooled0 0).length = 0x10000 ∧
    (∀ j, 4096 * j < (imageBytes pooled0 0).length → poolPage pooled0 0 (pooled0.ctx 0).run.space
        (dieReg pooled0 0 0x4008 0 + BitVec.ofNat 64 (2 ^ 23 * 0) + BitVec.ofNat 64 (4096 * j)) = some (0 + 4096 * j)) := by
  have hl : (imageBytes pooled0 0).length = 0x10000 := by
    rw [imageBytes, settleBytes_len, imageLayout_len, show ((imageSections pooled0 0).map (fun p => p.2.length)).sum = 0 by decide +kernel]
  have hp : ∀ j, j < 16 → poolPage pooled0 0 (pooled0.ctx 0).run.space
      (dieReg pooled0 0 0x4008 0 + BitVec.ofNat 64 (2 ^ 23 * 0) + BitVec.ofNat 64 (4096 * j)) = some (0 + 4096 * j) := by decide +kernel
  refine ⟨by and_intros <;> decide +kernel, ⟨{ fixed := 0xFF, val := 1 }, rfl, rfl⟩, rfl, hl, fun j h => hp j ?_⟩
  rw [hl] at h
  omega
/-- The pending write of s3 that R332 saves: CLASS 001, REG 3, DELAY 1, LEVEL 0. -/
theorem test_pending_entry_of_the_saved_seat :
    (pendBytes 0 { cls := 1, reg := 3, kind := 0, delay := 1, value := 0x55 }).take 17 =
      fixedBytes ([0x80, 0x21, 0x01, 0x00] ++ List.replicate 12 0 ++ [0x55]) := by decide +kernel

/-! Further states that meet hypotheses, part by part -/

/-- A value parked in the standby bank to fill; a spill that finds no place, with the standby bank held. -/
theorem test_meets_spill_places :
    (let s := on { q := { spill := [(0, { value := 5, wide := false, place := .standby })] } }
     fget? s.my.q.spill 0 = some { value := 5, wide := false, place := .standby } ∧ s.freeS 55 8) ∧
    (let s := State.setCtx (on { tiles := { share := { accCnt := 16 } } }) 2 { run := { live := true, saved := true } }
     spillEntry s (stagedSpills s.my) 255 7 false = none ∧ fget? s.my.q.spill 255 = none) :=
  ⟨⟨rfl, .inr (free_of_none rfl _ _ _ _)⟩, by decide +kernel, rfl⟩
/-- Loops not yet framed, one level too deep, of no bundle, and ending behind the enclosing body; the effects of loop words at their
bundle's end, an outermost and an inner level marked. -/
theorem test_meets_loop_refusals :
    (let l : LoopLvl := { start := 0, last := 0x40, after := 0x50, nbody := 1, rem := 1, iter := 0, finish := false, buf := [] }
     let s := on { flow := { npc0 := 0x40, framed := true, loops := [l] } }
     Say.mayStand s.my false ∧ (2 : BitVec 3).toNat ≠ s.my.flow.loops.length ∧ s.my.flow.loops.length ≤ (1 : BitVec 3).toNat ∧
     (1 : BitVec 3).toNat = s.my.flow.loops.length ∧ s.my.flow.loops.getLast? = some l ∧
     ¬(bodyEnd (0x44 : W64) (frameBody s 1 0x44)).1.toNat ≤ l.last.toNat ∧
     (issueState (issue0 .nop {}) 0 (words0 .nop) (ins0 .nop)).my.flow.framed = false ∧
     0 < ((frameBody (issue0 .nop {}) 1 0).map (·.words)).sum) ∧
    (let l : LoopLvl := { start := 0, last := 0x40, after := 0x50, nbody := 1, rem := 1, iter := 0, finish := false, buf := [] }
     let c := fun (fx : EndFx) => ({ flow := { npc0 := 0x20, loops := [l, l] }, iss := { fx := [fx] } } : Ctx)
     (c (.loopOpen 2 l)).iss.fx = [.loopOpen 2 l] ∧ (c (.loopSkip 0x60)).iss.fx = [.loopSkip 0x60] ∧ (loopEndOf (c (.loopSkip 0x60))).2.2 = none ∧
     (c (.loopSkip 0x60)).flow.npc1 = 1 ∧ (c (.lexit 1)).iss.fx = [.lexit 1] ∧ (c (.lexit 1)).flow.loops[1]? = some l) := by
  refine ⟨⟨⟨rfl, by intro h; exact absurd h Bool.false_ne_true⟩, ?_⟩, ?_⟩ <;> and_intros <;> first | decide +kernel | rfl
/-- A branch in a delay position, and one at the last of a body's bundles. -/
theorem test_meets_misplaced_branches :
    (on { flow := { delay := 1 } }).my.flow.delay ≠ 0 ∧ Say.controlRow (.bz 4 0 1) = some true ∧ Say.controlRow .exit = some false ∧
    (let b : BodyBundle := { addr := 0x40, words := 1, text := none }
     let l : LoopLvl := { start := 0x40, last := 0x40, after := 0x50, nbody := 1, rem := 1, iter := 0, finish := false, buf := [b] }
     let s := on { flow := { npc0 := 0x40, loops := [l] } }
     s.my.flow.delay = 0 ∧ s.my.flow.loops.find? (fun l => ((l.buf.reverse.take 3).map (·.addr)).contains s.my.flow.npc0) = some l) := by
  and_intros <;> first | decide +kernel | rfl
/-- `tret` with a pending write, in a stamped context and in another, and with a STATUS it refuses; `exit` above program level, behind a
load, behind a pending write, with a barrier's fault; `fwcall` in firmware; both levels to return from; a spawned context and a walker's. -/
theorem test_meets_waiting_returns :
    (let p : Pend := { cls := 1, reg := 3, kind := 0, delay := 1, value := 5 }
     let h := fun (st : Bool) => on { sys := { status := 1, estatus := 4 }, flow := { pend1 := [p] }, run := { stmp := st } }
     (∀ st, Say.mayStand (h st).my false ∧ (h st).my.lvl = 1 ∧ (h st).my.pend ≠ [] ∧ (h st).my.run.stmp = st) ∧
     (on { sys := { status := 1, estatus := 4 } }).my.pend = [] ∧ tretOk (on { sys := { status := 1, estatus := 4 } }).my 4 = false ∧
     (on (queue0 .reserved)).my.lvl = 0 ∧ ¬(∀ p ∈ (on (queue0 .reserved)).my.q.lq, ∀ e ∈ p.2, e.st ≠ .reserved) ∧
     (∀ p ∈ (on (queue0 .arrived)).my.q.lq, ∀ e ∈ p.2, e.st ≠ .reserved) ∧ (on { flow := { pend0 := [p] } }).my.pend ≠ [] ∧
     (on { barFault := some 9 }).my.barFault = some 9 ∧ (on (atLevel 2)).my.lvl = 2) ∧
    ((atLevel 1).lvl = 1 ∧ tretOk (atLevel 1) 0 = true ∧ (atLevel 2).lvl = 2 ∧ tretOk { atLevel 2 with sys := { status := 2, fstatus := 1 } } 1 = true) ∧
    (on { run := { spawned := true } }).my.run.spawned = true ∧ (on {}).my.run.spawned = false := by
  refine ⟨⟨fun st => ⟨⟨rfl, by intro h; exact absurd h Bool.false_ne_true⟩, by cases st <;> decide, by cases st <;> decide, rfl⟩, ?_⟩, ?_⟩ <;> and_intros <;>
    first | decide +kernel | rfl
/-- A seat with an access, an atomic, writes of its own and a write-back in flight, and writes that its reads and a command of it have
observed. -/
theorem test_meets_orders :
    (let l : LoadRec := { id := 7, agent := 1, core := 0, die := 0, ctx := 0, q := 0, kind := .answer 0, counted := false }
     let at_ : LoadRec := { l with id := 6, kind := .atomic 0x20 none 0 1 0 }
     let w := fun (id agent : Nat) => ({ id := id, agent := agent, core := 0, die := 0, home := 0, cells := [] } : WriteRec)
     let x : Cmd := { op := .matrix, pc := 0, seq := 4, lvl := 0, slot := 0, path := 2, counted := 0 }
     let s : State := { on { cmds := [x], q := { observed := [3], saw := [(2, 4, 2)] } } with
       loads := [l, at_], writes := [w 1 1, { w 5 1 with wb := true }, w 3 9, w 2 9] }
     (∃ l ∈ s.loads, l.isAtomic s.me = true) ∧ (∃ w ∈ s.writes, w.agent = agentOf s.me 0) ∧ (∃ i ∈ s.my.q.observed, ∃ w ∈ s.writes, w.id = i) ∧
     (∃ w ∈ s.writes, w.ctx = s.me ∧ w.wb = true) ∧ (∃ e ∈ s.my.q.saw, e.1 = 2 ∧ ∃ w ∈ s.writes, w.id = e.2.2) ∧
     (s.writes.map (·.id)).Nodup ∧ (∃ w ∈ (flushWrites s 0).writes, w.agent = agentOf 0 0 ∧ w.stage < 3)) := by
  and_intros <;> decide +kernel
/-- A scale access that no order holds and one that an earlier load's order holds; a stash word that its path's order holds and not; a
misaligned stash offset; a barrier word whose record carries writes in flight. -/
theorem test_meets_held_orders :
    (let l : LoadRec := { id := 7, agent := 1, core := 0, die := 0, ctx := 0, q := 0, kind := .answer 0, counted := false }
     let f : Fence := { reads := [7], writes := [], toRead := true, toWrite := true, scope := 2, full := false }
     let s : State := { on { q := { fences := [f] } } with loads := [l] }
     let p : PathFence := { to_ := some 5, ids := [7], cmds := [], scope := 3 }
     let h : State := { mapped { copies [(1, 0x1000), (2, 0x800)] with q := { pfences := [p] } } with loads := [l] }
     (∀ wr, (scaleOrder s (keyCore 0 0x100) wr).isOk = false) ∧ (∀ wr, (scaleOrder (on {}) (keyCore 0 0x100) wr).isOk = true) ∧
     needsMet h 0 3 (pathNeeds h.my 5) = false ∧ needsMet (on {}) 0 3 (pathNeeds (on {}).my 5) = true ∧
     h.my.tiles.share.stashLen = 0x2000 ∧ (0x800 : W64).toNat % 4096 ≠ 0 ∧ (0x800 : W64).toNat + 4096 ≤ h.my.tiles.share.stashLen ∧
     (let r : BarRec := { home := 0, bar := 1, scope := 0, pending := false, phase := 0, arr := 0, obs := [9] }
      let b : State := { on { bar := some r, barPhase := 1 } with writes := [write0 0] }
      b.my.bar = some r ∧ b.my.barPhase ≠ r.phase ∧ (∃ i ∈ r.obs, ∃ w ∈ b.writes, w.id = i))) := by
  and_intros <;> first | decide +kernel | rfl
/-- Spawns that are turned away: to a seat that runs, from a flagged context to a core with another, and while the launch stops. -/
theorem test_meets_spawns_turned_away :
    (let c : Ctx := { run := { busy := true, live := true, launch := 1, wst := .run } }
     let s : State := launching0 c [] [(1, { st := .running, stopping := some none })]
     let d : State := (on { run := { busy := true, live := true, det := true } }).setCtx 4 { run := { busy := true, live := true, det := true, lcore := 1 } }
     spawnBusy (on c) 0 0 = true ∧ spawnBusy (on c) 2 1 = false ∧ (s.launch s.my.run.launch).stopping ≠ none ∧
     ((on c).launch (on c).my.run.launch).stopping = none ∧ d.my.run.det = true ∧ coreDet d 1 = true ∧ spawnBusy d 1 1 = false) := by
  and_intros <;> first | decide +kernel | rfl
/-- A full tl, and a ring whose second filled entry has failed to fill. -/
theorem test_meets_waits_of_the_matrix :
    (on { q := { tl := 255 } }).my.call = none ∧ 255 ≤ (on { q := { tl := 255 } }).my.q.tl ∧
    (let c : Ctx := { streams with tiles := { streams.tiles with ring := [(128, .ready)] } }
     (0x102 : BitVec 9).toNat % 8 = 2 ∧ (1 : BitVec 4).toNat + 1 ≤ ringFilled c 2 ∧ ringSt c.tiles 2 ((fget 0 c.tiles.head 2 + 1) % 2) = .empty ∧
     (∀ i, i ≤ (1 : BitVec 4).toNat → ringSt streams.tiles 2 ((fget 0 streams.tiles.head 2 + i) % 2) ≠ .empty)) := by
  and_intros <;> first | decide +kernel | rfl
/-- A read of memory and one of core store; a control-window load; an atomic that meets a dirty line; a host-bias load with the link down
and up. -/
theorem test_meets_further_arrivals :
    (isCoreKey (keyCore 0 0x40) = true ∧ isCoreKey (keyHbm 0 0x40) = false ∧ readFloor (on {}) 0 0 (keyHbm 0 0x40) ≤ (on {}).ticks ∧
     readFloor (on {}) 0 8 (keyHbm 0 0x40) ≤ (on {}).ticks) ∧
    (let c : LoadKind := .ctl 0x4100 8 0
     let h := { load0 (.read [some (keyHbm 0 0x100, 0x100)] 0) with host := true }
     let a := load0 (.atomic 0x29 (some (keyHbm 0 0x100)) 0x1B 1 0)
     let s : State := { loading0 a.kind with writes := [{ write0 3 with stash := some (0, 1) }] }
     let p : State := { loading0 a.kind with poison := [4] }
     (loading0 c).loads.find? (fun x => decide (x.id = 5)) = some (load0 c) ∧ mayRead (loading0 c) (load0 c) = true ∧
     mayRead { loading0 h.kind with loads := [h] } h = true ∧ linkReady (loading0 h.kind) = false ∧
     s.writes.any (atomicFlush a) = true ∧ mayRead s a = true ∧ mayAtomic p a (keyHbm 0 0x100) 0x1B = true ∧
     poisoned p (keyHbm 0 0x100 + 7) = true) := by
  and_intros <;> first | decide +kernel | rfl
/-- A write at its die stage to a host-bias page, with the link up and down, and one that met an error. -/
theorem test_meets_host_writes :
    (let w := { write0 2 with host := true }
     let s : State := writing0 {} w
     let up : State := { s with dev := { s.dev with ctl := [(0x4528, 1)] } }
     mayPass up w = true ∧ linkReady up = true ∧ mayPass s w = true ∧ linkReady s = false ∧ w.bad = none ∧ ({ w with bad := some 0x100 } : WriteRec).bad.isSome = true ∧
     (∀ x ∈ s.writes, x.stash = none) ∧ stashAt (s.ctx w.ctx) w.space w.va = none ∧ w.id < ({ s with nextId := 10 } : State).nextId ∧
     mayPass { s with nextId := 10 } w = true) := by
  and_intros <;> first | decide +kernel | rfl
/-- A dirty line whose home is its own die and one whose home is another, and a write that has settled. -/
theorem test_meets_dirty_lines :
    (let d := { write0 3 with store := true, stash := some (0, 1) }
     (if d.stash.isSome then d.home = d.die else d.applied.toNat.testBit d.home = true) ∧ 4 ≤ (write0 4).stage ∧
     ((writing0 {} d).writes.find? (fun y => decide (y.id = d.id))) = some d ∧ (∀ c ∈ d.cells, poisoned (writing0 {} d) c.1 = false)) := by
  and_intros <;> first | decide +kernel | rfl
/-- Launch 1's index 2 with a consumer that has ranges on two dies, the first placed on die 1, and its dirty line once its step is over;
an index that nobody consumes. -/
theorem test_meets_consumers :
    (let c : Launch := { rec_ := { n := 4, after1 := 1 }, st := .running, placed := [(7, 0, 2, 3), (3, 2, 4, 1), (9, 2, 4, 0)] }
     let p : Launch := { rec_ := { n := 4 }, st := .running }
     let w := { write0 3 with stash := some (0, 1), launch := 1, step := some 2 }
     let s : State := { launching0 { run := { launch := 1, wst := .enter, lo := 0, cur := 3, hi := 4 } } [] [(1, p), (2, c)] with writes := [w] }
     consumerDie s 1 2 = some 1 ∧ consumerDie s 1 0 = some 3 ∧ consumerDie s 2 0 = none ∧ w.stepOver s = true ∧ w.stash.isSome = true ∧
     w.step = some 2 ∧ (∀ c ∈ w.cells, isCoreKey c.1 = false ∧ poisoned s c.1 = false) ∧ w.host = false) := by
  and_intros <;> first | decide +kernel | rfl
/-- A call whose turn it is behind one issued later, a call to go on with after an exchange, a map that changes, a call with work done. -/
theorem test_meets_call_turns :
    (let a := { call0 with ord := 3 }
     let s : State := { (on { call := some a }).setCtx 1 { call := some { call0 with ord := 5 } } with cores := [(0, { calls := [1, 0] })] }
     let v : State := s.setCtx 0 { savedCall := some { run0 with call := a } }
     let b : State := { s with cores := [(0, { calls := [1, 0], busyMap := 64 })] }
     (s.core 0).run = none ∧ 0 ∈ (s.core 0).calls ∧ (∀ j ∈ (s.core 0).calls, j ≠ 0 → (s.ctx j).run.det = false ∧
       ((s.ctx 0).run.det = true ∨ callOrd (s.ctx 0) < callOrd (s.ctx j))) ∧ (s.ctx 0).call = some a ∧ (s.core 0).busyMap = 0 ∧
     (v.ctx 0).savedCall = some { run0 with call := a } ∧ (∀ j ∈ (v.core 0).calls, j ≠ 0 → (v.ctx j).run.det = false ∧
       ((v.ctx 0).run.det = true ∨ callOrd (v.ctx 0) < callOrd (v.ctx j))) ∧ (b.core 0).busyMap ≠ 0 ∧ (b.ctx 0).call.isSome = true ∧
     (let x : Cmd := { op := .matrix, pc := 0, seq := 0, lvl := 0, slot := 4, path := 2, counted := 0 }
      let e := { run0 with returned := true }
      ((micro0 { cmds := [x] } e).ctx e.ctx).cmds = [x] ∧ x.seq = e.call.seq ∧ x.path = 2 ∧ x.status = 0 ∧ x.counted = 0)) := by
  and_intros <;> first | decide +kernel | rfl
/-- A load whose source page may not be read, one with a poisoned byte inside, one whose glove does not verify at its first and its second
try, and a write-back of a block that its page does not let it write. -/
theorem test_meets_failed_commands :
    (let l := cmd0 (.tload 0x1000 none false 0 0) 1
     let p : State := { engine0 l with poison := [65] }
     let g := { cmd0 (.tload 0x1000 none false 1 0) 1 with done := 20 }
     let gl : Ctx := { cmds := [g], tiles := { share := { share0 with slots := [(1, { fmt := 2, gloved := true, depth := 1, base := 0 })] } } }
     let w := cmd0 (.swb 0x200000 1) 5
     let s : State := mapped { cmds := [w], tiles := { stash := [(1, { va := 0x200000, space := 0, key := 0, held := 0 })] } }
     xlate (engine0 l) 0 0 0x200000 { r := true } = .error (.code 0x07) ∧ poisoned p (keyHbm 0 0x1000 + 64) = true ∧
     (∀ j, j < 64 → poisoned p (keyHbm 0 0x1000 + j) = false) ∧ (readPiece p 0 l { va := 0x1000, len := 4096, off := 0 }).isOk = false ∧
     ({ va := 0x1000, len := 4096, off := 0 } : Piece).more = [] ∧
     tileMoved gl g = true ∧ loadVerifies gl g = false ∧ g.tries = 0 ∧ ({ g with tries := 1 } : Cmd).tries ≠ 0 ∧
     stashHits (s.ctx 0) 0x200000 1 = [1] ∧ (swbFault s 0 w [1]).isSome = true ∧ (stashHits (engine0 w |>.ctx 0) 0x1000 1) = [] ∧
     ({ w with done := 1 } : Cmd).done ≠ 0) := by
  and_intros <;> first | decide +kernel | rfl
/-- A window command whose own write met an error, and one that stopped sending at a local fault. -/
theorem test_meets_local_window_failures :
    (let g := { cmd0 (.wget 0x100 0x0001040000000F00 256) 4 with
                  peer := BitVec.ofNat 192 (0x1000 * 2 ^ 111 + 4 * 2 ^ 151 + 1), status := 2, detail := 0x100, chunks := [(0, .done), (1, .done)] }
     (∃ q, winOp g.op = some q) ∧ g.watch = 0 ∧ g.status = 2 ∧ (∀ j, j < (winPieces g).length → chunkSt g j ≠ .sent) ∧
     (∃ p, (winPieces g)[0]? = some p ∧ p.va.toNat ≤ g.detail.toNat ∧ g.detail.toNat < p.va.toNat + p.len) ∧
     localFailed { g with chunks := [(0, .localFault 4 0x100)] } = true) := by
  refine ⟨⟨_, rfl⟩, rfl, rfl, ?_, ?_, by decide⟩
  · intro j hj
    have := Nat.lt_of_lt_of_le hj (cutBoth_length _ _ _ _ _)
    have : j = 0 ∨ j = 1 := by simp at this; omega
    rcases this with rfl | rfl <;> decide
  · unfold winPieces; simp only [winOp, cmd0]; unfold cutBoth
    rw [if_neg (by decide)]
    refine ⟨_, rfl, by decide, ?_⟩
    simp only [BitVec.toNat_ofNat]
    omega
/-- A read, a write and an unmapped read that their export entry lets in, the first of their sender's; bytes with an error and memory that
is not ready; a served write that is performed, with and without a revoke that waits for it, and one that is not persisted. Whether the answer's LIFE has run out is free (log entry 45). -/
theorem test_meets_accepted_requests :
    (let e : WinEntry := BitVec.ofNat 192 (1 + 5 * 2 ^ 128 + 0x400000 * 2 ^ 136 + 7 * 2 ^ 176)
     let f := fun (type off : Nat) (bs : List Byte) =>
       ({ hdr := BitVec.ofNat 256 (off * 2 ^ 56 + 5 * 2 ^ 96 + 32 * 2 ^ 104 + type * 2 ^ 120 + 7 * 2 ^ 126 + 2 ^ 176), data := bs, tag := 0 } : Frame)
     let s := fun (g : Frame) => { fabric0 (cmd0 .matrix 2) [(32, e)] [] [g] with dies := [(0, ready0)] }
     (∀ g ∈ [f 1 0x100 [], f 2 0x100 (List.replicate 256 1), f 1 0x200000 []], g ∈ (s g).dev.inbox ∧ (∀ p ∈ (s g).dev.served, p.1 ≠ g) ∧
       firstRequest (s g) g = true ∧ fget 0 (s g).dev.exports (frIndex g) = e ∧ frIndex g = 32 ∧ e.getLsbD 0 = true ∧
       (e.extractLsb' 176 16).toNat = frOwner g ∧ (e.extractLsb' 128 8).toNat = frGen g ∧ e.getLsbD 1 = false ∧
       frOffset g + 256 ≤ (e.extractLsb' 136 40).toNat ∧ flipBlocks (s g) 0 (BitVec.ofNat 64 (frOffset g)) = false) ∧
     256 * frBeats (f 1 0x100 []) = 256 ∧ xlate (s (f 1 0x100 [])) (2048 + 32 % 32) 0 0x100 { r := true } = .ok { leaf := 0x1B, bits := 21, key := keyHbm 0 0x100 } ∧
     xlate (s (f 2 0x100 [])) (2048 + 32 % 32) 0 0x100 { w := true } = .ok { leaf := 0x1B, bits := 21, key := keyHbm 0 0x100 } ∧
     xlate (s (f 1 0x200000 [])) (2048 + 32 % 32) 0 0x200000 { r := true } = .error (.code 0x07) ∧
     (∀ i, i < 256 → poisoned (s (f 1 0x100 [])) (keyHbm 0 0x100 + i) = false) ∧ isDead (keyHbm 0 0x100) = false ∧
     xlate { s (f 1 0x100 []) with poison := [7] } (2048 + 32 % 32) 0 0x100 { r := true } = .ok { leaf := 0x1B, bits := 21, key := keyHbm 0 0x100 } ∧
     poisoned { s (f 1 0x100 []) with poison := [7] } (keyHbm 0 0x100 + 255) = true ∧
     xlate { s (f 2 0x100 []) with dies := [(0, { ready0 with ctl := [] })] } (2048 + 32 % 32) 0 0x100 { w := true } =
       .ok { leaf := 0x1B, bits := 21, key := deadKey (keyHbm 0 0x100) } ∧
     isDead (deadKey (keyHbm 0 0x100)) = true ∧ poisoned (s (f 2 0x100 [])) (deadKey (keyHbm 0 0x100)) = true ∧
     (let t := fun (w : WriteRec) => ({ s (f 2 0 []) with writes := [w], dev := { (s (f 2 0 [])).dev with served := [(f 2 0 [], [9])] } } : State)
      (∀ w, (t w).dev.served.find? (fun p => p.1 == f 2 0 []) = some (f 2 0 [], [9])) ∧
      (∀ w ∈ (t (write0 4)).writes, w.id ∈ [9] → 4 ≤ w.stage ∧ (w.durable = true → w.persisted = true)) ∧
      (∃ w ∈ (t { write0 4 with durable := true }).writes, w.id ∈ [9] ∧ (w.stage < 4 ∨ w.durable = true ∧ w.persisted = false)) ∧
      (let u := { t (write0 4) with dev := { (t (write0 4)).dev with revokes := [(32, [9])] } }
       fget? (t (write0 4)).dev.revokes (frIndex (f 2 0 [])) = none ∧ fget? u.dev.revokes (frIndex (f 2 0 [])) = some [9] ∧
       servedDone u [9] = true ∧ u.dev.served.find? (fun p => p.1 == f 2 0 []) = some (f 2 0 [], [9])))) := by
  and_intros <;> first | decide +kernel | rfl | (intro w; rfl)
theorem test_meets_reply_ports (e : WinEntry) (f : Frame) :
    ∃ port, portFor { fabric0 (cmd0 .matrix 2) [(32, e)] [] [f] with dies := [(0, ready0)] } (frSrc f).toNat = some port :=
  ports_up (cmd0 .matrix 2) [(32, e)] [] [f] _
/-- A group's round with every contribution there, a member that has the failure of its round to take, and the one collective of the
device whose destination holds the result. -/
theorem test_meets_collective_rounds :
    (let d : BitVec 512 := BitVec.ofNat 512 (0x1000 + 0x2000 * 2 ^ 64 + 6 * 2 ^ 128 + 2 ^ 192 + 8 * 2 ^ 224)
     let x := { cmd0 (.coll 0x100 3) 3 with phase := 2, buf := bytesOf 64 d.toNat ++ List.replicate 8 7 }
     let y := { x with phase := 3, done := 5, total := 5 }
     let s := fun (z : Cmd) (g : Group) => ({ fabric0 z [] [] [] with dev := { (fabric0 z [] [] []).dev with groups := [(6, g)] } } : State)
     (∀ z ∈ [x, y], cmdOf (s z { size := 1 }) 0 z.seq = some z ∧ (cmdDesc z).group = 6) ∧ (0, x) ∈ waiting (s x { size := 1 }) 6 ∧
     fget? (s x { size := 1 }).dev.groups 6 = some { size := 1 } ∧ ({ size := 1 } : Group).devs = [] ∧
     mismatched { size := 1 } (waiting (s x { size := 1 }) 6) = false ∧ (groupParts { size := 1 } (waiting (s x { size := 1 }) 6)).isSome = true ∧
     ((s x { size := 1 }).ctxs.map (·.1)).Nodup ∧ fget? ({ size := 1, late := [(0, (7, 3))] } : Group).late (descOf d).rank = some (7, 3) ∧
     fget? ({ size := 1 } : Group).late (descOf d).rank = none ∧ y.total ≤ y.done ∧ y.watch = 0 ∧
     (s y { size := 1 }).ctxs.flatMap (fun p => (p.2.cmds.filter (fun z => match z.op with | .coll _ _ => true | _ => false)).map (fun z => (p.1, z))) =
       [(0, y)]) := by
  and_intros <;> first | decide +kernel | rfl
/-- A doorbell over a ready link and its request behind an earlier one of another queue; a step whose launch placed its ranges before. -/
theorem test_meets_doorbells :
    (let s := launching0 {} (record0 0) []
     let b : State := { s with dev := { s.dev with bells := [(4, 62, 0x1000), (5, 63, 0x1000)] } }
     linkReady s = true ∧ linkReady (on {}) = false ∧ (∀ l ∈ b.loads, l.id ≠ 5) ∧
     b.dev.bells.find? (fun x => decide (x.1 = 5)) = some (5, 63, 0x1000) ∧ (∀ x ∈ b.dev.bells, x.2.1 = 63 → x.1 = 5) ∧
     flipIn b (queueSpace b 63) = false ∧ ((working0 { det := true } pool0 {}).launch 1).rec_.det = true) := by
  and_intros <;> first | decide +kernel | rfl
/-- An idle seat that steals; a granted range of a seat that may take it in a new context, and of one that may not. -/
theorem test_meets_idle_thieves :
    (let dry := { pool0 with a := 4, cores := 3 }
     let s := (working0 {} dry {}).setCtx 3 { run := { busy := true, live := true, launch := 1, wst := .run, cur := 1, hi := 3, lcore := 1 } }
     let st : Steal := { id := 8, core := 0, seat := 0, victim := 3, launch := 1, range := some (2, 3) }
     let g : State := { s with dev := { s.dev with steals := [st] } }
     let n : State := { g with dies := [(0, { ready0 with ctl := [(0x4500, 0x7F)] })] }
     restsOn s 0 0 (s.ctx (s.bankOf 0 0)).run.launch = false ∧ launchIds s = [1] ∧ (s.launch 1).working = true ∧ hasWork s 0 0 1 = false ∧
     seatFor s 0 0 1 = true ∧ (∃ p ∈ (s.launch 1).pools, p.names 0 = true) ∧ imageLoaded s 0 1 = true ∧ resumeDue s 0 0 1 = false ∧
     victimOf s 1 0 [] = some 3 ∧ restsOn g 0 0 1 = false ∧ seatFor (dropSteal g 8) 0 0 1 = true ∧ (g.launch 1).cancelled = false ∧
     restsOn n 0 0 1 = false ∧ seatFor (dropSteal n 8) 0 0 1 = false) := by
  and_intros <;> first | decide +kernel | rfl
theorem mapM_some (f : Nat → Option Nat) : ∀ l : List Nat, (∀ x ∈ l, ∃ y, f x = some y) → ∃ ys, l.mapM f = some ys
  | [], _ => ⟨[], rfl⟩
  | x :: l, h => by
    obtain ⟨y, hy⟩ := h x (by simp)
    obtain ⟨ys, hs⟩ := mapM_some f l (fun z hz => h z (by simp [hz]))
    exact ⟨y :: ys, by rw [List.mapM_cons, hy, hs]; rfl⟩
/-- The pool's pages one by one. -/
theorem pooled_pages (s : State) (h : ∀ p, p < 16 → poolPage s 0 0 (dieReg s 0 0x4008 0 + BitVec.ofNat 64 (2 ^ 23 * 0 + p * 4096)) = some (4096 * p))
    (hp : s.poison = []) : ∃ bs, slotRead s 0 0 0 0x100 0x5F00 = some bs := by
  obtain ⟨ys, hy⟩ := mapM_some (fun b => (poolPage s 0 0 (dieReg s 0 0x4008 0 + BitVec.ofNat 64 (2 ^ 23 * 0 + (0x100 + b) / 4096 * 4096))).bind
    (fun key => if poisoned s (key + (0x100 + b) % 4096) then none else some (key + (0x100 + b) % 4096))) (List.range 0x5F00) (by
      intro b hb
      rw [h _ (by have := List.mem_range.1 hb; omega)]
      exact ⟨_, if_neg (by have := List.mem_range.1 hb; simp [poisoned, isDead, hp]; omega)⟩)
  exact ⟨ys.map (memGet s.mem), by rw [slotRead, slotKeys, hy]; rfl⟩
/-- An image in slot 0 that can be read; an image that its context has outgrown; a parked value that has no room left, beside a saved
context to prefill; a bank that has left its image slot to another domain. -/
theorem test_meets_images_read_back :
    (let s : State := { pooled0 with dies := [(0, { ready0 with pool := [(0, 0)] })] }
     slotsOf s 0 = (0, 0) :: [] ∧ ∃ bs, slotRead s 0 0 (s.ctx 0).run.space 0x100 0x5F00 = some bs) ∧
    (let sv : Ctx := { run := { walk0 1 with saved := true }, stale := true }
     let t := fun (c : Ctx) => ({ (swap0 c {} {}).setCtx 9 sv with dies := [(0, { ready0 with pool := [(3, 9)], savedq := [9] })] } : State)
     let park : Ctx := { run := walk0 1, q := { spill := [(7, { value := 1, wide := true, place := .standby })] } }
     ((t {}).die 0).pool.find? (fun e => ((t {}).ctx e.2).stale && ((t {}).ctx e.2).run.saved) = some (3, 9) ∧
     standbyKept (emptyStandby (t park) 0) 0 = true ∧ standbyKept (emptyStandby (t {}) 0) 0 = false ∧ standbyFull (emptyStandby (t {}) 0) 0 = false ∧
     inStandby (t {}) 2 = true ∧ inStandby (t {}) 9 = false ∧
     (let d := (t {}).setCtx 9 { stale := false }
      (d.ctx 9).run.live = false ∧ (d.ctx 9).cmds = [] ∧ slotsOf d 9 = [(0, 3)])) := by
  refine ⟨⟨rfl, pooled_pages _ (by decide +kernel) rfl⟩, ?_⟩
  and_intros <;> first | decide +kernel | rfl
/-- A context with every kind of state that an image lays out. -/
theorem test_meets_laid_out_state :
    (let l : LoopLvl := { start := 0, last := 0x40, after := 0x50, nbody := 1, rem := 1, iter := 0, finish := false, buf := [] }
     let p : Pend := { cls := 1, reg := 3, kind := 0, delay := 1, value := 5 }
     let c : Ctx := { flow := { loops := [l, l, l, l, l, l], pend0 := [p], pend1 := [p], pend2 := [p] }, q := { defer := [{ v0 := 1, v1 := 2, lane := 3, iter := 4 }] },
                      savedCall := some run0, call := some call0 }
     c.flow.loops[5]? = some l ∧ c.q.defer[0]? = some { v0 := 1, v1 := 2, lane := 3, iter := 4 } ∧ c.savedCall = some run0 ∧ c.call = some call0 ∧
     (if 2 = 0 then c.flow.pend0 else if 2 = 1 then c.flow.pend1 else c.flow.pend2)[0]? = some p ∧
     (∃ q, (imageSections (on c) 0)[4]? = some q)) := by
  refine ⟨rfl, rfl, rfl, rfl, rfl, _, rfl⟩
/-- A seat within STOPLIM and one at it, while its stop gathers and while it runs to the cut; a stop whose seats are marked or at the cut;
a halted seat and a stopped launch to dump, with a write not performed; a report whose page changes its bias. -/
theorem test_meets_limits_and_dumps :
    (let w := fun (lim : Nat) (st : Option (Option W64)) (d : Debug) =>
       ({ launching0 { run := walk0 1, dbg := d, ctr := { msord := 5 } } [] [(1, { rec_ := { n := 4 }, st := .running, stopping := st })] with
          dies := [(0, { ready0 with ctl := [(0x4018, BitVec.ofNat 64 lim), (0x4500, 0x7F)], cycle := 7 })] } : State)
     let spent := fun (s : State) => ((s.die (dieOf (s.ctx 0).run.lcore)).cycle - (s.ctx 0).dbg.since).toNat
     (∀ b : Bool, ∀ lim ∈ [7, 8], let st := if b then some none else some (some 6)
       ((w lim st { st := 2 }).launch 1).stopping = st ∧ spent (w lim st { st := 2 }) = 7 ∧
       (dieReg (w lim st { st := 2 }) 0 0x4018 0).toNat = lim ∧ standsStill (w lim st { st := 2 }) 0 = false) ∧
     (((w 7 (some (some 6)) { st := 2 }).ctx 0).dbg.missed = false) ∧ ((w 7 (some (some 6)) { st := 2 }).ctx 0).ctr.msord ≠ 6) ∧
    (let s : State := { on { run := { walk0 1 with halted := true } } with writes := [write0 2], dev := { State.reset.dev with launches := [(1, { st := .running, stopped := true })] } }
     (s.launch 1).stopped = true ∧ (s.launch 2).stopped = false ∧ (s.ctx (s.bankOf 0 0)).run.halted = true ∧ (s.ctx (s.bankOf 0 1)).run.halted = false ∧
     Memory.wf s.mem = true ∧ (∃ w ∈ s.writes, w.agent ≠ 0 ∧ w.ctx = 0 ∧ w.performedAt 3 = false)) ∧
    (let r : Report := { cause := 0x17, status := 4, kind := 1, lvl := 0, seq := 1, pc := 0, detail := 0, bytes := 0 }
     let s : State := { launching0 { run := { live := true, busy := true }, reports := [r] } [] [] with
       dies := [(0, { ready0 with flip := some { space := 0, va := 0, bits := 21, pteKey := 0x4000, new := true } })] }
     (s.ctx 0).reports = r :: [] ∧ flipBlocks s 0 0 = true) := by
  and_intros <;> first | decide +kernel | rfl
/-- A shootdown with a write in its range and one in a block that a dropped entry mapped; a flip with a write not yet at its home. -/
theorem test_meets_waiting_shootdowns :
    (let w := write0 2
     let f : Flip := { space := 0, va := 0, bits := 21, pteKey := 0x4000, new := true }
     let s : State := { on {} with dies := [(0, { ready0 with flip := some f })], writes := [w, { w with id := 10, va := 0x1FF000, coh := some 3, stage := 3 }] }
     (s.die 0).shoot.busy = false ∧ w.space = 0 ∧ w.va.toNat < 2 ^ 57 ∧ 0 ≤ w.va.toNat ∧ w.va.toNat < 0x1000 ∧
     (∃ e : TlbEntry, (∃ p ∈ s.dies, e ∈ p.2.tlb) ∧ e.space = 0 ∧ e.va.toNat < 0x1000 ∧ 0 < e.va.toNat + 2 ^ e.bits ∧
       e.va.toNat ≤ (0x1FF000 : W64).toNat ∧ (0x1FF000 : W64).toNat < e.va.toNat + 2 ^ e.bits) ∧
     (s.die 0).flip = some f ∧ (∀ w ∈ s.writes, w.stash = none) ∧ flipQuiet s f = false) := by
  refine ⟨rfl, rfl, by decide, by decide, by decide, ⟨{ space := 0, va := 0, bits := 21, leaf := 0x1B }, ?_, rfl, by decide, by decide, by decide, by decide⟩,
    rfl, by decide, by decide +kernel⟩
  exact ⟨_, List.mem_singleton.2 rfl, List.mem_singleton.2 rfl⟩
/-- Bridge bits towards neighbours that corner dies lack, and one that a die of the middle has; a die whose sessions record no errors; an
access and a write to host-bias pages when the link fails. -/
theorem test_meets_bridges_and_link :
    (let lacks := fun (i d : Nat) => (i = 3 ∧ d % 8 = 7) ∨ (i = 4 ∧ d % 8 = 0) ∨ (i = 5 ∧ 24 ≤ d) ∨ (i = 6 ∧ d < 8)
     lacks 3 31 ∧ lacks 5 31 ∧ lacks 4 0 ∧ lacks 6 0 ∧ ¬lacks 4 31 ∧ ¬lacks 6 31 ∧ ¬lacks 3 9 ∧ ¬lacks 4 9 ∧ ¬lacks 5 9 ∧ ¬lacks 6 9 ∧ ¬lacks 0 0) ∧
    (∀ i, (traceOf (on {}) 0 i).records 8 0 = false) ∧
    (let l := { load0 (.read [some (keyHbm 0 0x100, 0x100)] 0) with host := true }
     let s : State := { on {} with loads := [l], writes := [{ write0 2 with host := true }] }
     (∃ l ∈ s.loads, l.host = true) ∧ (∃ w ∈ s.writes, w.host = true ∧ w.stage < 4)) := by
  refine ⟨by and_intros <;> decide, fun i => ?_, by decide⟩
  rw [show traceOf (on {}) 0 i = {} from rfl]; decide
/-- A frame for another device, and one whose LIFE has run out in this one; how long a frame stays here is free (log entry 45). -/
theorem test_meets_passing_frames :
    (∃ hdr : BitVec 256, frDst { hdr := hdr, data := [], tag := 0 } ≠ Config.deviceNumber) ∧
    lifeLeft (on {}) { hdr := 0, data := [], tag := 0 } = 0 ∧
    (∀ d, ∃ p, portFor (fabric0 (cmd0 .matrix 2) [] [] []) d = some p) := by
  refine ⟨⟨BitVec.ofNat 256 ((Config.deviceNumber + 1).toNat * 2 ^ 159), fun h => ?_⟩, by simp [lifeLeft, frLife, fld], fun d => ports_up _ _ _ _ d⟩
  have := (frDst_ofNat (Config.deviceNumber + 1) (Nat.lt_of_lt_of_le (Nat.mul_lt_mul_of_pos_right (Config.deviceNumber + 1).isLt (by decide)) (by decide))).symm.trans h
  bv_omega
/-- An exchange wanted and allowed, one wanted that its seat may not make, one in progress with a cycle left and with none. -/
theorem test_meets_exchange_cycles :
    (let t := swap0 { run := walk0 1, dbg := { st := 1 } } { run := { walk0 2 with saved := true, bank := 2 } } { want := some 0 }
     let s : State := { t with mem := memWrite [] 4 (bytesOf 12 0xB00000002000000017200000),
                               dies := [(0, { t.die 0 with tlb := [{ space := 0, va := 0, bits := 21, leaf := 0x3B }] })] }
     let n : State := s.setCore 0 { s.core 0 with want := some 1 }
     let p := fun (left : Nat) => s.setCore 0 { s.core 0 with want := none, exch := some { seat := 0, left := left } }
     let ok := fun (r : Except Fault State) => match r with | .ok t => ((t.core 0).exch.map (·.left)) | .error _ => none
     (s.core 0).exch = none ∧ (s.core 0).want = some 0 ∧ mayExchange { s with raised := none, held := none } 0 0 = true ∧
     (n.core 0).want = some 1 ∧ mayExchange { n with raised := none, held := none } 0 1 = false ∧
     ((atCycle (p 2) 0).core 0).exch.map (·.left) = some (1 + 1) ∧ ok (coreCycle (atCycle (p 2) 0) 0) = some 1 ∧
     ((atCycle (p 1) 0).core 0).exch.map (·.left) = some (0 + 1) ∧ ok (coreCycle (atCycle (p 1) 0) 0) = some 0) := by
  and_intros <;> decide +kernel
/-- `tret` at handler level of a stamped context with a write pending: its hold is an overrun. -/
theorem test_meets_overrun_holds :
    (let c : Ctx := { sys := { status := 1 }, flow := { pend1 := [{ cls := 1, reg := 3, kind := 0, delay := 2, value := 5 }] } }
     let s0 := issue0 .tret c
     let s : State := s0.setCtx 0 { s0.ctx 0 with run := { walk0 1 with stmp := true } }
     Say.issues s 0 (words0 .tret) (ins0 .tret) [.tret] ∧ outcome (wordExec .tret (issueState s 0 (words0 .tret) (ins0 .tret))) = 2 ∧
     (holdOrOverrun (issueState s 0 (words0 .tret) (ins0 .tret)) .drain).isSome = true ∧
     Say.fits (issueState s 0 (words0 .tret) (ins0 .tret)) (ins0 .tret)) := by
  unfold Say.issues Say.fits; and_intros <;> first | decide +kernel | rfl
/-- The units' turn, with a load that may arrive and with nothing to do. -/
theorem test_meets_units_turns :
    (let s : State := { loading0 (.answer 7) with turn := .units 0 }
     (unitEvent s).isSome = true ∧ (∀ a, unitEvent s = some a → answers (runUnit a s) = true) ∧ s.agenda = []) ∧
    (let s : State := { State.reset with turn := .units 0 }
     unitEvent s = none ∧ answers (exec (.bundleIssue (coreAfter s 0)) s) = true) := by
  refine ⟨⟨by decide +kernel, fun a h => ?_, rfl⟩, by decide +kernel, by decide +kernel⟩
  rw [show unitEvent _ = some (.loadQueueArrival 5) by decide +kernel] at h
  cases h; decide +kernel

end Sys2Proof.Tests
end

section
/-! Reductions (R100, R149): the list form of the halving tree is the tree over lane numbers, and the model's element functions
are those of the statements on every value that fits its element. -/
namespace Sys2Proof.Machine

/-! A vector destination that is free -/

/-- A free register makes no same-cycle write. -/
theorem clashTrap_free {s : State} {cls kind reg lat : Nat} (h : s.free cls kind reg lat) :
    clashTrap s.my cls kind reg lat = none := by
  refine if_neg fun hany => ?_
  obtain ⟨p, hp, hclash⟩ := List.any_eq_true.1 hany
  simp only [Pend.clash, Bool.and_eq_true, decide_eq_true_eq] at hclash
  obtain ⟨⟨⟨hcls, hreg⟩, hkind⟩, hlat⟩ := hclash
  exact h p hp ⟨hcls.symm, hkind.symm, hreg.symm, hlat.symm⟩

theorem clashV_free {s : State} {sl : VSlot} {d lat : Nat} (h : s.freeV sl d lat) : clashV s.my sl d lat = none :=
  clashTrap_free h

@[simp] theorem trapFirst_none {α : Type} (r : Res α) : trapFirst none r = r := rfl

/-! The halving tree -/

/-- One stage pairs lane i with the lane half a width above. -/
theorem halve_map_range (op : Nat → Nat → Nat) (f : Nat → Nat) (n : Nat) :
    halve op ((List.range (2 ^ (n + 1))).map f) = (List.range (2 ^ n)).map (fun i => op (f i) (f (i + 2 ^ n))) := by
  have hhalf : 2 ^ (n + 1) / 2 = 2 ^ n := by omega
  apply List.ext_getElem
  · simp [halve, hhalf]; omega
  · intro i _ _
    simp [halve, hhalf, Nat.add_comm]

/-- The halving tree of a list of lanes is the tree over their numbers. -/
theorem halvingTree_map_range (op : Nat → Nat → Nat) (n : Nat) (f : Nat → Nat) :
    halvingTree op n ((List.range (2 ^ n)).map f) = Say.tree op n f := by
  induction n generalizing f with
  | zero => rfl
  | succ n ih => rw [halvingTree, halve_map_range, ih]; rfl

/-- Two operations that agree on a set of values closed under the first give the same tree over lanes in it. -/
theorem tree_congr {P : Nat → Prop} {op op' : Nat → Nat → Nat} (heq : ∀ x y, P x → P y → op x y = op' x y)
    (hclosed : ∀ x y, P x → P y → P (op x y)) (n : Nat) (f : Nat → Nat) (hf : ∀ i, P (f i)) :
    Say.tree op n f = Say.tree op' n f := by
  induction n generalizing f with
  | zero => rfl
  | succ n ih =>
    have hstage : (fun i => op (f i) (f (i + 2 ^ n))) = fun i => op' (f i) (f (i + 2 ^ n)) :=
      funext fun i => heq _ _ (hf _) (hf _)
    calc Say.tree op (n + 1) f = Say.tree op' n (fun i => op (f i) (f (i + 2 ^ n))) :=
          ih _ fun i => hclosed _ _ (hf _) (hf _)
      _ = Say.tree op' (n + 1) f := by rw [hstage]; rfl

/-! Element functions -/

/-- A number that is the content of an element, where the format reads elements as integers. -/
def FitsInt (fmt : BitVec 4) (x : Nat) : Prop := fmt.toNat < 6 → x < 2 ^ fmtW fmt.toNat

theorem wrapInt_lt (n : Nat) (z : Int) : wrapInt n z < 2 ^ n := by
  have hpos : (0 : Int) < (2 ^ n : Nat) := by exact_mod_cast Nat.two_pow_pos n
  have hlt := Int.emod_lt_of_pos z hpos
  unfold wrapInt; omega

/-- The integer of an element is the number its bits stand for (R76, R136). -/
theorem intOf_eq_num (fmt : BitVec 4) {x : Nat} (hx : x < 2 ^ fmtW fmt.toNat) : intOf fmt.toNat x = Say.num fmt x := by
  have hmod : x % 2 ^ fmtW fmt.toNat = x := Nat.mod_eq_of_lt hx
  unfold intOf Say.num fmtSigned asInt
  rw [hmod]
  by_cases hs : fmt.toNat % 2 = 0
  · by_cases hneg : x < 2 ^ (fmtW fmt.toNat - 1)
    · simp [hs, hneg]
    · simp [hs, hneg, Nat.not_lt.1 hneg]
  · simp [hs]

/-- The model's element function is that of the statements: on elements that fit for an integer format, on all for a float one. -/
theorem lane2_eq_arith {fmt : BitVec 4} (iop : Int → Int → Int) (fop : FVal → FVal → FVal) {x y : Nat}
    (hx : FitsInt fmt x) (hy : FitsInt fmt y) : lane2 fmt iop fop x y = Say.arith fmt iop fop x y := by
  unfold lane2 Say.arith isIntFmt
  by_cases hi : fmt.toNat < 6
  · simp [hi, iOp2, wrapInt, intOf_eq_num fmt (hx hi), intOf_eq_num fmt (hy hi)]
  · simp only [hi, decide_false, Bool.false_eq_true, if_false]
    rfl

theorem fitsInt_lane2 (fmt : BitVec 4) (iop : Int → Int → Int) (fop : FVal → FVal → FVal) (x y : Nat) :
    FitsInt fmt (lane2 fmt iop fop x y) := by
  intro hi
  simp only [lane2, isIntFmt, hi, decide_true, if_true]
  exact wrapInt_lt _ _

theorem ffOf_of_lt {c : Nat} (h : c < 6) : ffOf c = none := by
  interval_cases c <;> rfl

theorem fitsInt_reduceIdent (fmt : BitVec 4) (op : Nat) : FitsInt fmt (reduceIdent fmt op) := by
  intro hi
  simp only [reduceIdent, ffOf_of_lt hi]
  split
  · exact Nat.two_pow_pos _
  · split <;> exact wrapInt_lt _ _

/-! Reductions -/

/-- The formats of a reduction fill a register with 2^5 or 2^6 elements. -/
theorem lanes_of_fmtRed : ∀ fmt : BitVec 4, fmtRed fmt = true →
    1024 / fmtW fmt.toNat = 2 ^ (if fmtW fmt.toNat = 32 then 5 else 6) := by decide

theorem fmtRed_of_badV {fmt : BitVec 4} {d : BitVec 5} (h : badV fmtRed fmt d = none) : fmtRed fmt = true := by
  simp only [badV, firstReason] at h
  grind

/-- Lane j as it enters a reduction: an inactive one enters as the identity (R149). -/
def reduceLane (fmt : BitVec 4) (m : W32) (x : Wide) (e j : Nat) : Nat :=
  if m.getLsbD (fmtW fmt.toNat * j / 32) then lane (fmtW fmt.toNat) x j else e

theorem fitsInt_reduceLane {fmt : BitVec 4} {e : Nat} (he : FitsInt fmt e) (m : W32) (x : Wide) (j : Nat) :
    FitsInt fmt (reduceLane fmt m x e j) := by
  unfold reduceLane
  split
  · exact fun _ => lane_lt _ _ _
  · exact he

/-- A reduction into a free destination leaves one pending write, of the list form of the tree. -/
theorem vReduce_free {sl : VSlot} {fmt : BitVec 4} {d a : BitVec 5} {s : State} {x : Wide} (k : BitVec 2) (e : Nat)
    (op : Nat → Nat → Nat) (hx : rdV s.my sl a.toNat = .ok x) (hd : s.freeV sl d.toNat 6) :
    vReduce sl fmt d a k e op s = .ok (s.writeV sl d.toNat 6 (BitVec.ofNat 1024
      (halvingTree op (if fmtW fmt.toNat = 32 then 5 else 6)
        ((List.range (1024 / fmtW fmt.toNat)).map (reduceLane fmt (rdK s.my sl k.toNat) x e)) % 2 ^ fmtW fmt.toNat))) := by
  unfold vReduce
  rw [clashV_free hd, trapFirst_none, hx]
  exact putV_free _ hd

/-- A reduction by an element function of the statements, in a format it takes. -/
theorem vReduce_lane2_free {sl : VSlot} {fmt : BitVec 4} {d a : BitVec 5} {s : State} {x : Wide} {e : Nat} (k : BitVec 2)
    (iop : Int → Int → Int) (fop : FVal → FVal → FVal) (hfmt : fmtRed fmt = true) (he : FitsInt fmt e)
    (hx : rdV s.my sl a.toNat = .ok x) (hd : s.freeV sl d.toNat 6) :
    vReduce sl fmt d a k e (lane2 fmt iop fop) s = .ok (s.writeV sl d.toNat 6 (BitVec.ofNat 1024
      (Say.tree (Say.arith fmt iop fop) (if fmtW fmt.toNat = 32 then 5 else 6)
        (reduceLane fmt (rdK s.my sl k.toNat) x e) % 2 ^ fmtW fmt.toNat))) := by
  rw [vReduce_free k e _ hx hd, lanes_of_fmtRed fmt hfmt, halvingTree_map_range,
    tree_congr (P := FitsInt fmt) (fun _ _ hx hy => lane2_eq_arith iop fop hx hy)
      (fun x y _ _ => fitsInt_lane2 fmt iop fop x y) _ _ (fitsInt_reduceLane he _ x)]

/-- The words of the reduction table: each is `vReduce` by an element function and an identity of the table, and is refused at
decode as a word over the RED set. -/
theorem redRow_cases {i : Instr} {sl : VSlot} {fmt : BitVec 4} {d a : BitVec 5} {k : BitVec 2} {op : Nat → Nat → Nat} {e : Nat}
    (h : Say.redRow i = some (sl, fmt, d, a, k, op, e)) :
    ∃ iop fop c, op = Say.arith fmt iop fop ∧ e = reduceIdent fmt c ∧ i.illegal = badV fmtRed fmt d ∧
      ∀ s, exec i s = complete s (vReduce sl fmt d a k e (lane2 fmt iop fop) s) := by
  unfold Say.redRow at h
  split at h
  case h_4 => exact nomatch h
  all_goals
    cases h
    exact ⟨_, _, _, rfl, rfl, rfl, fun _ => rfl⟩

/-- A well-formed reduction whose operand reads and whose destination is free. -/
theorem exec_redRow {i : Instr} {sl : VSlot} {fmt : BitVec 4} {d a : BitVec 5} {k : BitVec 2} {op : Nat → Nat → Nat} {e : Nat}
    {s : State} {x : Wide} (hrow : Say.redRow i = some (sl, fmt, d, a, k, op, e)) (hwf : i.wf)
    (hx : rdV s.my sl a.toNat = .ok x) (hd : s.freeV sl d.toNat 6) :
    exec i s = .next (s.writeV sl d.toNat 6 (BitVec.ofNat 1024
      (Say.tree op (if fmtW fmt.toNat = 32 then 5 else 6) (reduceLane fmt (rdK s.my sl k.toNat) x e) % 2 ^ fmtW fmt.toNat))) := by
  obtain ⟨iop, fop, c, rfl, rfl, hill, hexec⟩ := redRow_cases hrow
  have hfmt : fmtRed fmt = true := fmtRed_of_badV (hill.symm.trans hwf)
  rw [hexec, vReduce_lane2_free k iop fop hfmt (fitsInt_reduceIdent fmt c) hx hd, complete_ok]

/-- The identity of an integer sum. -/
theorem reduceIdent_add_int {fmt : BitVec 4} (h : fmt.toNat < 6) : reduceIdent fmt 0 = 0 := by
  simp only [reduceIdent, ffOf_of_lt h, if_true]

/-- Settles O15: the list tree is the tree over lane numbers, and the element functions agree on the values that reach them. -/
theorem reductionsFollowTheHalvingTree : Obligations.ReductionsFollowTheHalvingTree := by
  refine ⟨fun _ _ _ _ _ _ _ _ _ _ hrow hwf hx hd => exec_redRow hrow hwf hx hd, fun _ h => reduceIdent_add_int h, ?_⟩
  decide

end Sys2Proof.Machine
end

section
/-! Scalar control words (R105, R109, R111): the opcode of a class S word, `cmov` by its condition, the constants, and a push to a
store queue. -/
namespace Sys2Proof.Machine

/-! Words of class S -/

/-- A word whose bits above the 20 of its operands are class 1 and an opcode reads them back there (R55). -/
theorem exists_classS_word {i : Instr} {n : Nat} {op : BitVec 8} (henc : encodeWord i = some (BitVec.ofNat 32 n))
    (hn : n / 2 ^ 20 = 2 ^ 8 + op.toNat) :
    ∃ wd : W32, encodeWord i = some wd ∧ wd.extractLsb' 28 3 = 1 ∧ wd.extractLsb' 20 8 = op := by
  have hop := op.isLt
  have hclass : (1 : BitVec 3).toNat = 1 := rfl
  refine ⟨_, henc, BitVec.eq_of_toNat_eq ?_, BitVec.eq_of_toNat_eq ?_⟩ <;>
    simp only [BitVec.extractLsb'_toNat, BitVec.toNat_ofNat, Nat.shiftRight_eq_div_pow] <;>
    omega

/-! A scalar destination that is free -/

theorem clashS_free {s : State} {d : BitVec 6} {lat : Nat} (h : s.freeS d lat) : clashS s.my d.toNat lat = none := by
  rcases h with rfl | h
  · rfl
  · unfold clashS
    rw [clashTrap_free h, ite_self]

/-! `cmov` -/

/-- An SA word that passes its first operand on writes it cut to its width and extended (R103). -/
theorem saResult_fst (w : BitVec 2) (x y : W64) :
    Say.saResult w (fun _ u _ => u) x y = saExt w (x.toNat % 2 ^ saBits w) := by
  unfold Say.saResult saExt saBits sext64
  by_cases h0 : w = 0
  · subst h0
    exact BitVec.eq_of_toNat_eq (by simp; omega)
  · have hcut : x.setWidth 32 = BitVec.ofNat 32 (x.toNat % 2 ^ 32) := BitVec.eq_of_toNat_eq (by simp)
    rw [if_neg h0, if_neg h0, hcut]
    split
    · rfl
    · exact BitVec.eq_of_toNat_eq (by simp)

/-- The low bits of an extended result are the result (R103). -/
theorem toNat_saExt_mod (w : BitVec 2) (n : Nat) : (saExt w n).toNat % 2 ^ saBits w = n % 2 ^ saBits w := by
  unfold saExt saBits
  split
  · next h1 =>
    subst h1
    simp only [sext64, BitVec.toNat_signExtend, BitVec.toNat_setWidth, BitVec.toNat_ofNat]
    split
    · simp; omega
    · simp
  · split <;> simp

/-- A condition is 0 where the operand cut to its width is (R103, R105). -/
theorem saResult_snd_eq_zero_iff (w : BitVec 2) (x y : W64) :
    Say.saResult w (fun _ _ v => v) x y = 0 ↔ y.toNat % 2 ^ saBits w = 0 := by
  have hsnd : Say.saResult w (fun _ _ v => v) x y = saExt w (y.toNat % 2 ^ saBits w) := saResult_fst w y x
  rw [hsnd]
  constructor <;> intro h
  · simpa [h] using (toNat_saExt_mod w (y.toNat % 2 ^ saBits w)).symm
  · rw [h]
    unfold saExt sext64
    split <;> simp

/-- `cmov` whose operands read: nothing at all where B is 0, else a scalar write that clashes before it is put (R105). -/
theorem doCmov_reads {d a b : BitVec 6} {w : BitVec 2} {s : State} {x y : W64} (hx : rdS s.my 1 a.toNat = .ok x)
    (hy : rdS s.my 1 b.toNat = .ok y) :
    doCmov d a b w s = if y.toNat % 2 ^ saBits w = 0 then .ok s
      else trapFirst (clashS s.my d.toNat 1) (putS s d.toNat 1 (saExt w (x.toNat % 2 ^ saBits w))) := by
  unfold doCmov
  simp only [hx, hy, both_ok_ok]
  split <;> rfl

theorem exec_cmov (d a b : BitVec 6) (w : BitVec 2) (s : State) : exec (.cmov d a b w) s = complete s (doCmov d a b w s) := rfl

/-- Settles O2: B is 0 exactly where its low bits are, and only then does `cmov` leave the destination alone. -/
theorem cmovWritesOnlyWhenTheConditionHolds : Obligations.CmovWritesOnlyWhenTheConditionHolds := by
  intro d a b w s x y _ hx hy
  have hd := d.isLt
  have ha := a.isLt
  have hb := b.isLt
  have hw := w.isLt
  rw [exec_cmov, doCmov_reads hx hy, Ne, saResult_snd_eq_zero_iff]
  refine ⟨exists_classS_word rfl (by simp; omega), fun hcond hfree => ?_, fun hcond => ?_⟩
  · rw [if_neg hcond, clashS_free hfree, trapFirst_none, putS_free _ hfree, complete_ok, saResult_fst]
  · rw [if_pos hcond, complete_ok]

/-! Constants -/

theorem exec_li (d : BitVec 6) (imm : BitVec 14) (s : State) : exec (.li d imm) s = complete s (doLi d imm s) := rfl
theorem exec_lis (d : BitVec 6) (imm : BitVec 14) (s : State) : exec (.lis d imm) s = complete s (doLis d imm s) := rfl

theorem exec_li_free {d : BitVec 6} (imm : BitVec 14) {s : State} (h : s.freeS d 1) :
    exec (.li d imm) s = .next (s.writeS d 1 (imm.setWidth 64)) := by
  rw [exec_li, doLi, putS_free _ h, complete_ok]

theorem exec_lis_free {d : BitVec 6} (imm : BitVec 14) {s : State} {x : W64} (h : s.freeS d 1)
    (hx : rdS s.my 1 d.toNat = .ok x) :
    exec (.lis d imm) s = .next (s.writeS d 1 (BitVec.ofNat 64 (x.toNat * 2 ^ 14) ||| imm.setWidth 64)) := by
  have hshift : x <<< 14 = BitVec.ofNat 64 (x.toNat * 2 ^ 14) :=
    BitVec.eq_of_toNat_eq (by simp [Nat.shiftLeft_eq])
  rw [exec_lis, doLis, hx, ← hshift]
  exact congrArg (complete s) (putS_free _ h)

/-- Settles O3: a free destination takes the constant, and s0 reads 0 and drops it. -/
theorem constantWordsBuildConstants : Obligations.ConstantWordsBuildConstants := by
  refine ⟨fun d imm s hfree => ⟨exec_li_free imm hfree, fun x hx => exec_lis_free imm hfree hx⟩,
    fun imm s => ⟨rdS_zero s.my 1, exec_lis_free imm (.inl rfl) (rdS_zero s.my 1)⟩, fun d imm => ?_, rfl⟩
  have hd := d.isLt
  have himm := imm.isLt
  exact ⟨exists_classS_word rfl (by simp; omega), exists_classS_word rfl (by simp; omega)⟩

/-! `push` -/

theorem pushEntry_eq (s : State) (w : Nat) (e : WEntry) : pushEntry s w e = s.queued w e := rfl

theorem queued_my (s : State) (w : Nat) (e : WEntry) :
    (s.queued w e).my = { s.my with q := { s.my.q with sq := fset s.my.q.sq w (fget [] s.my.q.sq w ++ [e]) } } := my_setMy _ _
@[simp] theorem queued_regs (s : State) (w : Nat) (e : WEntry) : (s.queued w e).my.regs = s.my.regs := by rw [queued_my]
@[simp] theorem queued_pend (s : State) (w : Nat) (e : WEntry) : (s.queued w e).my.pend = s.my.pend := by rw [queued_my]; rfl
@[simp] theorem queued_sq_self (s : State) (w : Nat) (e : WEntry) :
    fget [] (s.queued w e).my.q.sq w = fget [] s.my.q.sq w ++ [e] := by rw [queued_my]; exact fget_fset_self _ _ _ _
theorem queued_sq_of_ne (s : State) {w v : Nat} (e : WEntry) (h : v ≠ w) :
    fget [] (s.queued w e).my.q.sq v = fget [] s.my.q.sq v := by rw [queued_my]; exact fget_fset_of_ne _ _ _ h

theorem exec_push (w : BitVec 2) (a : BitVec 6) (s : State) : exec (.push w a) s = complete s (doPush w a s) := rfl

theorem exec_push_reads {w : BitVec 2} {a : BitVec 6} {s : State} {x : W64} (hx : rdS s.my 1 a.toNat = .ok x) :
    exec (.push w a) s = .next (s.queued w.toNat { data := x.setWidth 1024, count := 8 }) := by
  rw [exec_push, doPush, hx]
  exact congrArg (complete s) (congrArg Except.ok (pushEntry_eq s _ _))

/-- Settles O5: an operand that reads becomes the last entry of its store queue, and the other queues and the registers stay. -/
theorem pushAppendsEightBytes : Obligations.PushAppendsEightBytes := by
  intro w a s x hx
  have hw := w.isLt
  have ha := a.isLt
  exact ⟨exists_classS_word rfl (by simp; omega), _, exec_push_reads hx, rfl, queued_regs .., queued_pend .., queued_sq_self ..,
    fun _ => queued_sq_of_ne s _⟩

end Sys2Proof.Machine
end

section
/-! Mask words (R144) and the ranked element (R101, R150): one mask operation, and the model's search as the library's `argmax` over
the active elements in ascending order. -/
namespace Sys2Proof.Machine

/-! Mask words -/

/-- A mask operation into a free destination, k0 included, leaves one pending write. -/
theorem kOp_free {s : State} {sl : VSlot} {d : BitVec 5} (a b : BitVec 5) (op : W32 → W32 → W32) (h : s.freeK sl d 1) :
    complete s (kOp sl d a b op s) = .next (s.writeK sl d 1 (op (rdK s.my sl a.toNat) (rdK s.my sl b.toNat))) := by
  rw [kOp, putK_free _ h, complete_ok]

theorem writeK_zero (s : State) (sl : VSlot) (lat : Nat) (m : W32) : s.writeK sl 0 lat m = s := if_pos rfl

theorem notMask_iff (d : BitVec 5) : notMask d = true ↔ 3 < d.toNat := decide_eq_true_iff

/-- The one check of a word over masks: it fails for reason 4 (R53, R60). -/
theorem firstReason_of_true {bad : Bool} {r : Nat} {rest : List (Bool × Nat)} (h : bad = true) :
    firstReason ((bad, r) :: rest) = some r := if_pos h

/-- Settles O14: each word is one mask operation, and its one check at decode is that its fields name masks. -/
theorem maskWordsCombineMasks : Obligations.MaskWordsCombineMasks := by
  intro sl d a b s
  refine ⟨fun hd => ⟨?_, ?_, ?_, ?_⟩, writeK_zero s sl 1, fun hmask => ?_, fun hmask => ?_⟩
  · exact kOp_free a b (· &&& ·) hd
  · exact kOp_free a b (· ||| ·) hd
  · exact kOp_free a b (· ^^^ ·) hd
  · exact kOp_free a a (fun x _ => ~~~x) hd
  · have hbad : (notMask d || notMask a || notMask b) = true := by simpa [notMask_iff, or_assoc] using hmask
    exact ⟨firstReason_of_true hbad, firstReason_of_true hbad, firstReason_of_true hbad⟩
  · exact firstReason_of_true (by simpa [notMask_iff] using hmask)

/-! The active elements of a register -/

/-- The active elements of a register with their numbers, in ascending order. -/
def activeElems (m : W32) (w : Nat) (x : Wide) : List (Nat × Nat) :=
  ((List.range (1024 / w)).filter (fun i => laneOn m w i)).map (fun i => (lane w x i, i))

theorem laneOn_iff_active (m : W32) (w i : Nat) : laneOn m w i = true ↔ Say.active m w i := Iff.rfl

theorem mem_activeElems {m : W32} {w : Nat} {x : Wide} {p : Nat × Nat} :
    p ∈ activeElems m w x ↔ (p.2 < 1024 / w ∧ Say.active m w p.2) ∧ p.1 = lane w x p.2 := by
  obtain ⟨v, i⟩ := p
  simp only [activeElems, List.mem_map, List.mem_filter, List.mem_range, laneOn_iff_active, Prod.mk.injEq]
  constructor
  · rintro ⟨j, hj, hv, rfl⟩
    exact ⟨hj, hv.symm⟩
  · rintro ⟨hi, hv⟩
    exact ⟨i, hi, hv.symm, rfl⟩

theorem activeElems_pairwise (m : W32) (w : Nat) (x : Wide) :
    (activeElems m w x).Pairwise (fun p q => p.2 < q.2) :=
  List.pairwise_map.2 (List.pairwise_lt_range.filter _)

/-- With none active there is no element to rank. -/
theorem activeElems_eq_nil {m : W32} {w : Nat} (x : Wide) (h : ∀ j, ¬(j < 1024 / w ∧ Say.active m w j)) :
    activeElems m w x = [] :=
  List.eq_nil_iff_forall_not_mem.2 fun p hp => h p.2 (mem_activeElems.1 hp).1

/-- In a list in order, an element that must not stand behind another has no later place. -/
theorem idxOf_le_of_not_rel {α : Type} [DecidableEq α] {r : α → α → Prop} {xs : List α} (hxs : xs.Pairwise r) {p q : α}
    (hp : p ∈ xs) (hq : q ∈ xs) (hqp : ¬ r q p) : xs.idxOf p ≤ xs.idxOf q := by
  by_contra hlt
  have hrel := List.pairwise_iff_getElem.1 hxs _ _ (List.idxOf_lt_length_of_mem hq) (List.idxOf_lt_length_of_mem hp)
    (Nat.lt_of_not_le hlt)
  rw [List.getElem_idxOf, List.getElem_idxOf] at hrel
  exact hqp hrel

/-! The element that ranks highest -/

/-- The model's search keeps the first element of greatest key. -/
theorem rankBest_eq_argmax (code : Nat) (xs : List (Nat × Nat)) :
    rankBest code xs = xs.argmax (fun p => rankKey code p.1) := by
  unfold rankBest List.argmax
  congr 1
  funext r p
  cases r <;> rfl

/-- An active element of highest rank, the lowest in number among equals, is the one found (R101, R150). -/
theorem rankBest_activeElems {code w j : Nat} {m : W32} {x : Wide} (hj : j < 1024 / w ∧ Say.active m w j)
    (hmax : ∀ i, (i < 1024 / w ∧ Say.active m w i) → rankKey code (lane w x i) ≤ rankKey code (lane w x j))
    (hlow : ∀ i, (i < 1024 / w ∧ Say.active m w i) → rankKey code (lane w x i) = rankKey code (lane w x j) → j ≤ i) :
    rankBest code (activeElems m w x) = some (lane w x j, j) := by
  have hmem : (lane w x j, j) ∈ activeElems m w x := mem_activeElems.2 ⟨hj, rfl⟩
  rw [rankBest_eq_argmax, List.argmax_eq_some_iff]
  refine ⟨hmem, fun p hp => ?_, fun p hp hge => ?_⟩
  · obtain ⟨hon, hval⟩ := mem_activeElems.1 hp
    rw [hval]
    exact hmax p.2 hon
  · obtain ⟨hon, hval⟩ := mem_activeElems.1 hp
    rw [hval] at hge
    have hle : j ≤ p.2 := hlow p.2 hon (le_antisymm (hmax p.2 hon) hge)
    exact idxOf_le_of_not_rel (activeElems_pairwise m w x) hmem hp (Nat.not_lt.2 hle)

/-! `vrarg` -/

/-- The words 0 and 1 of a ranking's result: the value and its number, or 0 and all ones where nothing was active (R150). -/
def rankedWords : Option (Nat × Nat) → Nat × Nat
  | some p => p
  | none => (0, 2 ^ 32 - 1)

/-- A register of two words. -/
def twoWords (p : Nat × Nat) : Wide := fromLanes 32 [p.1, p.2]

theorem lane_twoWords_zero {p : Nat × Nat} (h : p.1 < 2 ^ 32) : lane 32 (twoWords p) 0 = p.1 :=
  (lane_fromLanes (by simp) 0).trans (Nat.mod_eq_of_lt h)

theorem lane_twoWords_one {p : Nat × Nat} (h : p.2 < 2 ^ 32) : lane 32 (twoWords p) 1 = p.2 :=
  (lane_fromLanes (by simp) 1).trans (Nat.mod_eq_of_lt h)

theorem lane_twoWords_of_two_le (p : Nat × Nat) {j : Nat} (h : 2 ≤ j) : lane 32 (twoWords p) j = 0 := by
  rw [twoWords, lane_fromLanes (by simp), List.getD_eq_default _ _ (by simpa using h), Nat.zero_mod]

theorem exec_vrarg_free {sl : VSlot} {d a : BitVec 5} {s : State} {x : Wide} (fmt : BitVec 4) (k : BitVec 2)
    (hx : rdV s.my sl a.toNat = .ok x) (hd : s.freeV sl d.toNat 6) :
    exec (.vrarg sl fmt d a k) s = .next (s.writeV sl d.toNat 6 (twoWords (rankedWords
      (rankBest fmt.toNat (activeElems (rdK s.my sl k.toNat) (fmtW fmt.toNat) x))))) := by
  have hdo : doVrarg sl fmt d a k s = .ok (s.writeV sl d.toNat 6 (twoWords (rankedWords
      (rankBest fmt.toNat (activeElems (rdK s.my sl k.toNat) (fmtW fmt.toNat) x))))) := by
    rw [doVrarg, clashV_free hd, trapFirst_none, hx]
    dsimp only
    rw [← activeElems]
    rcases rankBest fmt.toNat (activeElems (rdK s.my sl k.toNat) (fmtW fmt.toNat) x) with _ | ⟨v, i⟩
    · exact putV_free _ hd
    · exact putV_free _ hd
  exact congrArg (complete s) hdo

/-- An element of a format is at most a word wide. -/
theorem fmtW_le (code : Nat) : fmtW code ≤ 32 := by
  unfold fmtW
  split_ifs <;> omega

/-- Settles O16: the result is the two words of the element that `argmax` finds over the active ones. -/
theorem rankedElementIsFound : Obligations.RankedElementIsFound := by
  intro sl fmt d a k s x _ hx hd
  refine ⟨_, exec_vrarg_free fmt k hx hd, fun j hj _ => lane_twoWords_of_two_le _ hj, fun hnone => ?_,
    fun j hj hmax hlow => ?_⟩
  · rw [activeElems_eq_nil x hnone]
    exact ⟨lane_twoWords_zero (Nat.two_pow_pos 32), lane_twoWords_one (Nat.sub_one_lt (Nat.two_pow_pos 32).ne')⟩
  · have hval : lane (fmtW fmt.toNat) x j < 2 ^ 32 :=
      (lane_lt _ _ _).trans_le (Nat.pow_le_pow_right two_pos (fmtW_le _))
    have hnum : j < 2 ^ 32 := (hj.1.trans_le (Nat.div_le_self _ _)).trans (by decide)
    rw [rankBest_activeElems hj hmax hlow]
    exact ⟨lane_twoWords_zero hval, lane_twoWords_one hnum⟩

end Sys2Proof.Machine
end

section
/-! Prefetch (R206): a row of the decoder reads the fields of the word, so that a set bit where its layout leaves zeros is refused
for reason 2, and the word of `pref` carries its operands with those bits zero. -/
namespace Sys2Proof.Machine

/-! Fields of a word -/

theorem fld_eq_extractLsb' {n : Nat} (w : BitVec n) (lo len : Nat) : fld w lo len = w.extractLsb' lo len :=
  BitVec.eq_of_toNat_eq (by simp [fld, Nat.shiftRight_eq_div_pow])

/-- A field of a word built from a number holds what the number has at its place. -/
theorem extractLsb'_ofNat_eq {n lo len : Nat} {v : BitVec len} (hle : lo + len ≤ 32) (hn : n / 2 ^ lo % 2 ^ len = v.toNat) :
    (BitVec.ofNat 32 n).extractLsb' lo len = v := by
  have hsplit : 2 ^ 32 = 2 ^ lo * 2 ^ (32 - lo) := (pow_mul_pow_sub 2 (Nat.le_of_add_right_le hle)).symm
  have hlen : 2 ^ len ∣ 2 ^ (32 - lo) := pow_dvd_pow 2 (Nat.le_sub_of_add_le' hle)
  refine BitVec.eq_of_toNat_eq ?_
  rw [BitVec.extractLsb'_toNat, BitVec.toNat_ofNat, Nat.shiftRight_eq_div_pow, hsplit, Nat.mod_mul_right_div_self,
    Nat.mod_mod_of_dvd _ hlen, hn]

/-- A field that is not zero leaves a set bit under any mask that covers it. -/
theorem and_ne_zero_of_field {n lo len zeros : Nat} {w : BitVec n} (hmask : zeros >>> lo = 2 ^ len - 1)
    (h : w.extractLsb' lo len ≠ 0) : w.toNat &&& zeros ≠ 0 := by
  refine fun hzero => h (BitVec.eq_of_toNat_eq ?_)
  calc (w.extractLsb' lo len).toNat = w.toNat >>> lo &&& zeros >>> lo := by
        rw [BitVec.extractLsb'_toNat, hmask, Nat.and_two_pow_sub_one_eq_mod]
    _ = (w.toNat &&& zeros) >>> lo := Nat.shiftRight_and_distrib.symm
    _ = 0 := by rw [hzero, Nat.zero_shiftRight]

/-! The decoder on a set bit that must be zero -/

/-- Where nothing else of a row fails, a set bit of its zeros is the reason the word is refused (R53, R54). -/
theorem judgeWord_of_reserved {w : W32} {r : Row} (hrow : rowOf w = some r) (hfmt : r.fmtB = false) (hwf : r.instr.wf)
    (hzero : w.toNat &&& r.zeros ≠ 0) : judgeWord w = .error 2 := by
  have hill : r.instr.illegal = none := hwf
  rw [judgeWord, hrow]
  simp only [if_pos hzero, fmtBReason, hfmt, hill, true_or, if_true, lowest]

/-! `pref` -/

theorem exec_pref (k : CSlot) (base : BitVec 4) (disp : BitVec 14) (s : State) :
    exec (.pref k base disp) s = complete s (doPref k base disp s) := rfl

/-- The row of opcode 0x54 in class C (R64, R65). -/
theorem rowC_pref {w : W32} (k : CSlot) (hop : fld w 21 7 = 0x54) :
    rowC k w = some ⟨.pref k (fld w 17 4) (fld w 0 14), 0x1c000, false⟩ := by
  rw [rowC, hop]
  rfl

theorem rowOf_pref {w : W32} (hcls : fld w 28 3 = 5 ∨ fld w 28 3 = 6) (hop : fld w 21 7 = 0x54) :
    ∃ k : CSlot, rowOf w = some ⟨.pref k (fld w 17 4) (fld w 0 14), 0x1c000, false⟩ := by
  rcases hcls with hcls | hcls
  · exact ⟨.c0, by rw [rowOf, hcls]; exact rowC_pref .c0 hop⟩
  · exact ⟨.c1, by rw [rowOf, hcls]; exact rowC_pref .c1 hop⟩

/-- Settles O9: the effect of `pref` is the state it is given, its word spells its fields, and bits 16:14 are the zeros of its row. -/
theorem prefetchHasNoVisibleEffect : Obligations.PrefetchHasNoVisibleEffect := by
  refine ⟨fun s k base disp => ?_, fun k base disp => ?_, fun wd hcls hop hres => ?_⟩
  · rw [exec_pref, doPref, complete_ok]
  · have hbase := base.isLt
    have hdisp := disp.isLt
    have hop : (0x54 : BitVec 7).toNat = 0x54 := rfl
    have hzeros : (0 : BitVec 3).toNat = 0 := rfl
    refine ⟨_, rfl, ?_, ?_, ?_, ?_⟩ <;> exact extractLsb'_ofNat_eq (by decide) (by omega)
  · simp only [← fld_eq_extractLsb'] at hcls hop
    obtain ⟨k, hrow⟩ := rowOf_pref hcls hop
    have hzero : wd.toNat &&& 0x1c000 ≠ 0 := and_ne_zero_of_field (by decide) hres
    exact judgeWord_of_reserved hrow rfl rfl hzero

end Sys2Proof.Machine
end
